-- ==== Sys2Proof/Word.lean ====
section
/-! DEFINITION. The bit-vector types of the Pyrmin Zugan module: general-register words, tile rows,
register numbers and names (spec 00 R1, 02 R13 to R18, 08 R150). -/

namespace Sys2Proof

/-- One byte of memory (R1). -/
abbrev Byte := BitVec 8
/-- The contents of a general register (R13). -/
abbrev Word := BitVec 64
/-- One tile row, the contents of a vector register (R15). -/
abbrev Row := BitVec 1024
/-- One instruction word (R73). -/
abbrev IWord := BitVec 32
/-- A code word address, the width of a program counter (R13). -/
abbrev CodeAddr := BitVec 24
/-- A general register number. -/
abbrev GReg := BitVec 5
/-- A vector register (tile row) number. -/
abbrev VReg := BitVec 5
/-- A mask register number (R18). -/
abbrev MReg := BitVec 3
/-- A lane-pattern code (R56). -/
abbrev Pat := BitVec 4
/-- A slot number (R13). -/
abbrev SlotId := BitVec 2
/-- A group name (R150). -/
abbrev Name := BitVec 40

/-- A core's mesh coordinates (R9): integers, never shifted or masked by software. -/
structure Coord where
  x : Nat
  y : Nat
  deriving DecidableEq, Repr

end Sys2Proof
end

