-- ==== Sys2Proof/Syntax.lean ====
section
/-! DEFINITION. The abstract syntax of Nipor and of the module's events: one constructor for each row of
spec/opcode_table.json, in the table's order but for the two outcomes of a fetch, which stand before the other events. An operand field keeps the width its encoding gives it (spec 05);
an event's operands name the things that take part in it. -/

namespace Sys2Proof

/-- The class F types (R88). -/
inductive FType | f32 | f16 | b16
  deriving DecidableEq, Repr
/-- The class I types (R88). -/
inductive IType | i32 | i16 | i8
  deriving DecidableEq, Repr
/-- The class W element widths (R88); LDVS and STVS use the same three (R79). -/
inductive Width | w32 | w16 | w8
  deriving DecidableEq, Repr
/-- The kinds of FCVT (R80). -/
inductive FKind | f32 | f16 | b16 | l | lu
  deriving DecidableEq, Repr
/-- The full type codes of VCVT (R90), in code order. -/
inductive VType | f32 | f16 | b16 | e4 | e5 | i8 | d8 | i32 | i16
  deriving DecidableEq, Repr
/-- The type codes of VBCI (R86), in code order; .d8 is encoded as .i8. -/
inductive BType | f32 | f16 | b16 | i32 | e4 | e5 | i16 | i8
  deriving DecidableEq, Repr
/-- The destination formats of VQUANT (R90) and the formats of AMSCALE (R85). -/
inductive QFmt | e4 | e5 | d8
  deriving DecidableEq, Repr
/-- The source formats of VDEQ (R90). -/
inductive DFmt | e4 | e5 | d8 | i8
  deriving DecidableEq, Repr
/-- The orderings of ATOM (R84). -/
inductive AtomOrd | none | acq | rel | ar
  deriving DecidableEq, Repr
/-- The scopes of REL (R84). -/
inductive Scope | device | pod
  deriving DecidableEq, Repr
/-- The row selections of MSTEP (R85). -/
inductive StepRows | all | lo | hi
  deriving DecidableEq, Repr
/-- The accumulator types of TILECFG.type (R27). -/
inductive AccType | f32 | i32 | f16 | b16
  deriving DecidableEq, Repr
/-- The two units of an octet (R284). -/
inductive JobUnit | matrix | copy
  deriving DecidableEq, Repr
/-- The causes of a kill (R345). -/
inductive KillCause | leaseViolation | doubleTrap | noTrapEntry | killInstr | twinMismatch | coreError | stateError
  deriving DecidableEq, Repr
/-- The kinds of protected storage (R355): group state, log, core registers, core caches, shared memory,
engine buffers. -/
inductive Storage | groupState | log | registers | caches | memory | engine
  deriving DecidableEq, Repr

/-- The roles of firmware cores (R390). -/
inductive Role | launchProcessing | translation | supervisor | annealerDriver | sumpManager | hypervisor | counters
  deriving DecidableEq, Repr
/-- A hot patch's image: the entries of the function table that it replaces, each with its new function, the role whose cores run them,
and whether its signature verifies (R391, R393). -/
structure PatchImage where
  entries : List (Nat × Nat)
  role : Role
  signed : Bool
  deriving DecidableEq, Repr
/-- A new kernel's image: its version, and whether its signature verifies (R391, R393). -/
structure KernelImage where
  version : Nat
  signed : Bool
  deriving DecidableEq, Repr
/-- Who maps a launch queue's notify page, and whether the queue is a system queue (R385). -/
structure QueueOwner where
  system : Bool
  port : Nat
  fn : Nat
  deriving DecidableEq, Repr
/-- An offset in BAR2 of a function of a PCIe port (R384). -/
structure BarAddress where
  port : Nat
  fn : Nat
  offset : Nat
  deriving DecidableEq, Repr
/-- A header flit as a router receives it, of the message at a place in the traffic (R356). -/
structure HeaderSeen where
  index : Nat
  header : BitVec 256
  deriving DecidableEq, Repr
/-- The instructions and events of the table. -/
inductive Instr
  /-- ADD (R95). Sets gd to the 64-bit sum of ga and gb. -/
  | add (d a b : GReg)
  /-- SUB (R95). Sets gd to ga minus gb, modulo 2^64. -/
  | sub (d a b : GReg)
  /-- AND (R95). Sets gd to the bitwise AND of ga and gb. -/
  | and (d a b : GReg)
  /-- OR (R95). Sets gd to the bitwise OR of ga and gb. -/
  | or (d a b : GReg)
  /-- XOR (R95). Sets gd to the bitwise exclusive OR of ga and gb. -/
  | xor (d a b : GReg)
  /-- ANDN (R95). Sets gd to ga AND NOT gb. -/
  | andn (d a b : GReg)
  /-- ORN (R95). Sets gd to ga OR NOT gb. -/
  | orn (d a b : GReg)
  /-- SLL (R95). Shifts ga left by gb[5:0] into gd. -/
  | sll (d a b : GReg)
  /-- SRL (R95). Shifts ga logically right by gb[5:0] into gd. -/
  | srl (d a b : GReg)
  /-- SRA (R95). Shifts ga arithmetically right by gb[5:0] into gd. -/
  | sra (d a b : GReg)
  /-- ROL (R95). Rotates ga left by gb[5:0] into gd. -/
  | rol (d a b : GReg)
  /-- ROR (R95). Rotates ga right by gb[5:0] into gd. -/
  | ror (d a b : GReg)
  /-- MUL (R95). Sets gd to the low 64 bits of ga times gb. -/
  | mul (d a b : GReg)
  /-- MULH (R95). Sets gd to the high 64 bits of the signed product. -/
  | mulh (d a b : GReg)
  /-- MULHU (R95). Sets gd to the high 64 bits of the unsigned product. -/
  | mulhu (d a b : GReg)
  /-- DIV (R31). Sets gd to the signed quotient of ga by gb. -/
  | div (d a b : GReg)
  /-- DIVU (R31). Sets gd to the unsigned quotient of ga by gb. -/
  | divu (d a b : GReg)
  /-- REM (R31). Sets gd to the signed remainder of ga by gb. -/
  | rem (d a b : GReg)
  /-- REMU (R31). Sets gd to the unsigned remainder of ga by gb. -/
  | remu (d a b : GReg)
  /-- MIN (R95). Sets gd to the lesser signed operand. -/
  | min (d a b : GReg)
  /-- MAX (R95). Sets gd to the greater signed operand. -/
  | max (d a b : GReg)
  /-- MINU (R95). Sets gd to the lesser unsigned operand. -/
  | minu (d a b : GReg)
  /-- MAXU (R95). Sets gd to the greater unsigned operand. -/
  | maxu (d a b : GReg)
  /-- SLT (R95). Sets gd to 1 if ga is less than gb as signed values, else 0. -/
  | slt (d a b : GReg)
  /-- SLTU (R95). Sets gd to 1 if ga is less than gb as unsigned values, else 0. -/
  | sltu (d a b : GReg)
  /-- SEQ (R95). Sets gd to 1 if ga equals gb, else 0. -/
  | seq (d a b : GReg)
  /-- SNE (R95). Sets gd to 1 if ga differs from gb, else 0. -/
  | sne (d a b : GReg)
  /-- MOVZ (R95). Sets gd to ga when gb is zero and otherwise leaves gd unchanged. -/
  | movz (d a b : GReg)
  /-- MOVNZ (R95). Sets gd to ga when gb is nonzero and otherwise leaves gd unchanged. -/
  | movnz (d a b : GReg)
  /-- CLZ (R95). Sets gd to the number of leading zero bits of ga. -/
  | clz (d a : GReg)
  /-- CTZ (R95). Sets gd to the number of trailing zero bits of ga. -/
  | ctz (d a : GReg)
  /-- POPC (R95). Sets gd to the number of one bits of ga. -/
  | popc (d a : GReg)
  /-- BREV (R95). Sets gd to ga with its bit order reversed. -/
  | brev (d a : GReg)
  /-- BSWAP (R95). Sets gd to ga with its byte order reversed. -/
  | bswap (d a : GReg)
  /-- SXB (R95). Sets gd to ga[7:0] sign-extended. -/
  | sxb (d a : GReg)
  /-- SXH (R95). Sets gd to ga[15:0] sign-extended. -/
  | sxh (d a : GReg)
  /-- SXW (R95). Sets gd to ga[31:0] sign-extended. -/
  | sxw (d a : GReg)
  /-- ZXW (R95). Sets gd to ga[31:0] zero-extended. -/
  | zxw (d a : GReg)
  /-- ADDI (R96). Sets gd to ga plus the sign-extended immediate. -/
  | addi (d a : GReg) (imm : BitVec 16)
  /-- ANDI (R96). Sets gd to ga AND the zero-extended immediate. -/
  | andi (d a : GReg) (imm : BitVec 16)
  /-- ORI (R96). Sets gd to ga OR the zero-extended immediate. -/
  | ori (d a : GReg) (imm : BitVec 16)
  /-- XORI (R96). Sets gd to ga XOR the zero-extended immediate. -/
  | xori (d a : GReg) (imm : BitVec 16)
  /-- SLTI (R96). Sets gd to 1 if ga is below the sign-extended immediate as signed values, else 0. -/
  | slti (d a : GReg) (imm : BitVec 16)
  /-- SLTIU (R96). Sets gd to 1 if ga is below the sign-extended immediate as unsigned values, else 0. -/
  | sltiu (d a : GReg) (imm : BitVec 16)
  /-- LIH (R96). Sets gd to the sign extension of the immediate shifted left by 16. -/
  | lih (d : GReg) (imm : BitVec 16)
  /-- SLLI (R96). Shifts ga left by an immediate amount into gd. -/
  | slli (d a : GReg) (imm : BitVec 16)
  /-- SRLI (R96). Shifts ga logically right by an immediate amount into gd. -/
  | srli (d a : GReg) (imm : BitVec 16)
  /-- SRAI (R96). Shifts ga arithmetically right by an immediate amount into gd. -/
  | srai (d a : GReg) (imm : BitVec 16)
  /-- RORI (R96). Rotates ga right by an immediate amount into gd. -/
  | rori (d a : GReg) (imm : BitVec 16)
  /-- BEQ (R97). Branches to the target when ga equals gb. -/
  | beq (b a : GReg) (imm : BitVec 16)
  /-- BNE (R97). Branches to the target when ga differs from gb. -/
  | bne (b a : GReg) (imm : BitVec 16)
  /-- BLT (R97). Branches to the target when ga is less than gb as signed values. -/
  | blt (b a : GReg) (imm : BitVec 16)
  /-- BGE (R97). Branches to the target when ga is greater than or equal to gb as signed values. -/
  | bge (b a : GReg) (imm : BitVec 16)
  /-- BLTU (R97). Branches to the target when ga is less than gb as unsigned values. -/
  | bltu (b a : GReg) (imm : BitVec 16)
  /-- BGEU (R97). Branches to the target when ga is greater than or equal to gb as unsigned values. -/
  | bgeu (b a : GReg) (imm : BitVec 16)
  /-- JAL (R98). Links A + 1 in g1 and jumps to A plus the sign-extended offset. -/
  | jal (imm : BitVec 26)
  /-- JALR (R98). Links A + 1 in gd and jumps to ga plus the offset. -/
  | jalr (d a : GReg) (imm : BitVec 16)
  /-- LOOP (R100). Opens a hardware loop level with the count in ga, or skips the body when the count is zero. -/
  | loop (a : GReg) (body : BitVec 11)
  /-- LOOPI (R100). Opens a hardware loop level with an immediate count, or skips the body when the count is zero. -/
  | loopi (count : BitVec 15) (body : BitVec 11)
  /-- LDB (R108). Loads a sign-extended byte from the local address space. -/
  | ldb (d a : GReg) (imm : BitVec 16)
  /-- LDBU (R108). Loads a zero-extended byte from the local address space. -/
  | ldbu (d a : GReg) (imm : BitVec 16)
  /-- LDH (R108). Loads a sign-extended halfword from the local address space. -/
  | ldh (d a : GReg) (imm : BitVec 16)
  /-- LDHU (R108). Loads a zero-extended halfword from the local address space. -/
  | ldhu (d a : GReg) (imm : BitVec 16)
  /-- LDW (R108). Loads a sign-extended word from the local address space. -/
  | ldw (d a : GReg) (imm : BitVec 16)
  /-- LDWU (R108). Loads a zero-extended word from the local address space. -/
  | ldwu (d a : GReg) (imm : BitVec 16)
  /-- LDD (R108). Loads a doubleword from the local address space. -/
  | ldd (d a : GReg) (imm : BitVec 16)
  /-- STB (R108). Stores the low byte of gb to the local address space. -/
  | stb (b a : GReg) (imm : BitVec 16)
  /-- STH (R108). Stores the low halfword of gb to the local address space. -/
  | sth (b a : GReg) (imm : BitVec 16)
  /-- STW (R108). Stores the low word of gb to the local address space. -/
  | stw (b a : GReg) (imm : BitVec 16)
  /-- STD (R108). Stores gb as a doubleword to the local address space. -/
  | std (b a : GReg) (imm : BitVec 16)
  /-- LDV (R111). Loads 128 bytes from the well into a tile row. -/
  | ldv (d : VReg) (a : GReg) (imm : BitVec 16)
  /-- STV (R111). Stores a tile row to 128 bytes of the well. -/
  | stv (b : VReg) (a : GReg) (imm : BitVec 16)
  /-- LDVS (R112). Loads the lanes of a row from strided local addresses. -/
  | ldvs (w : Width) (d : VReg) (a b : GReg)
  /-- STVS (R112). Stores the lanes of a row to strided local addresses. -/
  | stvs (w : Width) (d : VReg) (a b : GReg)
  /-- LDF (R114). Waits until a well word is full, loads it and makes it empty. -/
  | ldf (d a : GReg)
  /-- LDFK (R114). Waits until a well word is full and loads it, leaving it full. -/
  | ldfk (d a : GReg)
  /-- STE (R114). Waits until a well word is empty, stores gb there and makes it full. -/
  | ste (a b : GReg)
  /-- SETF (R114). Makes a well word full. -/
  | setf (a : GReg)
  /-- SETE (R114). Makes a well word empty. -/
  | sete (a : GReg)
  /-- TSTF (R114). Sets gd to 1 if a well word is full, else 0. -/
  | tstf (d a : GReg)
  /-- FADD (R116). Sets gd to the rounded floating-point sum. -/
  | fadd (t : FType) (d a b : GReg)
  /-- FSUB (R116). Sets gd to the rounded floating-point difference. -/
  | fsub (t : FType) (d a b : GReg)
  /-- FMUL (R116). Sets gd to the rounded floating-point product. -/
  | fmul (t : FType) (d a b : GReg)
  /-- FFMA (R116). Sets gd to a times b plus c, rounded once. -/
  | ffma (t : FType) (d a b c : GReg)
  /-- FDIV (R116). Sets gd to the rounded floating-point quotient. -/
  | fdiv (t : FType) (d a b : GReg)
  /-- FSQRT (R116). Sets gd to the rounded square root of ga. -/
  | fsqrt (t : FType) (d a : GReg)
  /-- FMIN (R43). Sets gd to the lesser floating-point operand. -/
  | fmin (t : FType) (d a b : GReg)
  /-- FMAX (R43). Sets gd to the greater floating-point operand. -/
  | fmax (t : FType) (d a b : GReg)
  /-- FEQ (R43). Sets gd to 1 if the floating-point operands are equal, else 0. -/
  | feq (t : FType) (d a b : GReg)
  /-- FLT (R43). Sets gd to 1 if ga is less than gb, else 0. -/
  | flt (t : FType) (d a b : GReg)
  /-- FLE (R43). Sets gd to 1 if ga is less than or equal to gb, else 0. -/
  | fle (t : FType) (d a b : GReg)
  /-- FCLASS (R116). Sets one bit of gd that names the class of ga. -/
  | fclass (t : FType) (d a : GReg)
  /-- FCVT (R117). Converts ga between floating-point and integer kinds into gd. -/
  | fcvt (dst src : FKind) (d a : GReg)
  /-- MFS (R118). Reads a user system register into gd. -/
  | mfs (d : GReg) (n : BitVec 8)
  /-- MTS (R118). Writes ga to a user system register. -/
  | mts (a : GReg) (n : BitVec 8)
  /-- MFSP (R342). Reads a privileged or per-slot register of a named slot into gd. -/
  | mfsp (d : GReg) (slot : SlotId) (n : BitVec 8)
  /-- MTSP (R342). Writes ga to a privileged or per-slot register of a named slot. -/
  | mtsp (a : GReg) (slot : SlotId) (n : BitVec 8)
  /-- ENDH (R105). Ends the slot's activation after earlier instructions complete and makes the slot idle. -/
  | endh
  /-- YIELD (R106). Gives up issue for one cycle and goes last in the round robin. -/
  | yield
  /-- WFE (R107). Waits until the slot's event latch is set and then clears it. -/
  | wfe
  /-- TRAP (R343). Takes a software trap in its own slot with code 0x0D. -/
  | trap (n : BitVec 5)
  /-- ERET (R344). Ends a trap or system activation in slot 3 and resumes the stopped slot. -/
  | eret
  /-- KILL (R350). Kills the named group with cause 0x43 and completes when the seal is confirmed. -/
  | kill (a : GReg)
  /-- SEAL (R350). Seals the named group's name without stopping it. -/
  | seal (a : GReg)
  /-- UNSEAL (R350). Clears the seal of the named group. -/
  | unseal (a : GReg)
  /-- TLBW (R351). Writes a leaf into the issuing core's TLB for the page containing ga. -/
  | tlbw (a b : GReg)
  /-- ANCFG (R352). Resets the annealer trace and temperature, or sets an explicit channel weight. -/
  | ancfg (a b : GReg)
  /-- ANRUN (R352). Starts a commit toward the dry run's best placement. -/
  | anrun (a : GReg)
  /-- ANREAD (R352). Reads a quarter of an annealer trace entry into gd. -/
  | anread (d a : GReg)
  /-- SLEEPC (R353). Gates the core's clocks until a deadline or an event. -/
  | sleepc (a : GReg)
  /-- SEND (R190). Sends a request message described by ga with the payload named by gb. -/
  | send (a b : GReg)
  /-- SENDR (R190). Sends a request and reserves a mailbox entry for its reply. -/
  | sendr (d a b : GReg)
  /-- NOTICE_RESEND (R192). A SEND or SENDR with rs set resends a returned notice with its original channel and sequence number. -/
  | noticeResend (isSendr : Bool) (d a b : GReg)
  /-- REPLY (R193). Sends a reply to a request held by the activation. -/
  | reply (a b : GReg)
  /-- VPUT (R195). Sends a tile row as a register write to a row of another group. -/
  | vput (s : VReg) (a : GReg)
  /-- VPUTR (R195). Sends a tile row as a releasing register write. -/
  | vputr (s : VReg) (a : GReg)
  /-- VHOLD (R194). Sets the hold bit of a row of the group's own tile. -/
  | vhold (d : VReg)
  /-- QPUT (R196). Appends ga to an outbound queue. -/
  | qput (q : BitVec 5) (a : GReg)
  /-- QGET (R196). Removes the oldest word of an inbound queue into gd. -/
  | qget (d : GReg) (q : BitVec 5)
  /-- QFLUSH (R196). Waits until every word put into an outbound queue has been injected and settled. -/
  | qflush (q : BitVec 5)
  /-- QCNT (R196). Reads the word count of a queue into gd. -/
  | qcnt (d : GReg) (q : BitVec 5)
  /-- CHOPEN (R197). Opens a channel-table entry. -/
  | chopen (a b : GReg)
  /-- CHCLOSE (R198). Closes a channel-table entry after its sequenced sends settle. -/
  | chclose (a : GReg)
  /-- MASKC (R199). Sets bits of the group's class mask. -/
  | maskc (a : GReg)
  /-- UNMASKC (R199). Clears bits of the group's class mask. -/
  | unmaskc (a : GReg)
  /-- LNAME (R200). Forms the name of the launch's group with ordinal ga. -/
  | lname (d a : GReg)
  /-- POS (R201). Reads POSN into gd in one cycle. -/
  | pos (d : GReg)
  /-- ANCHOR (R202). Sets the group's anchored bit. -/
  | anchor
  /-- UNANCH (R202). Clears the group's anchored bit. -/
  | unanch
  /-- BAR (R203). Releases, arrives at level n and waits for the level-n unit. -/
  | bar (n : BitVec 5)
  /-- BARA (R203). Releases the log and adds 1 to the arrival count of level n. -/
  | bara (n : BitVec 5)
  /-- BARW (R203). Waits until every group of the level-n unit has arrived, then acquires. -/
  | barw (n : BitVec 5)
  /-- SLD (R275). Loads a doubleword from shared space, split-phase. -/
  | sld (d a : GReg)
  /-- SST (R276). Appends a masked store record to the group's log. -/
  | sst (m a b : GReg)
  /-- SLDV (R275). Loads 128 bytes of shared space into a tile row. -/
  | sldv (d : VReg) (a : GReg)
  /-- SSTV (R277). Appends store records of a whole tile row to the log. -/
  | sstv (s : VReg) (a : GReg)
  /-- LDA (R268). Loads a doubleword at its home and discards the view cache. -/
  | lda (d a : GReg)
  /-- SSTR (R276). Appends a releasing store record to the log. -/
  | sstr (m a b : GReg)
  /-- REL (R264). Places a REL marker, waits for its records' acknowledgement and publishes the tail. -/
  | rel (scope : Scope)
  /-- ACQ (R267). Acquires a writer's published tail, discarding the view cache on a frontier miss. -/
  | acq (a b : GReg)
  /-- FENCE (R265). Places a FENCE marker in the log. -/
  | fence
  /-- ATOM_ADD (R279). Appends an atomic add record and receives the old value. -/
  | atomAdd (ord : AtomOrd) (d a b : GReg)
  /-- ATOM_MIN (R279). Appends an atomic signed minimum record and receives the old value. -/
  | atomMin (ord : AtomOrd) (d a b : GReg)
  /-- ATOM_MAX (R279). Appends an atomic signed maximum record and receives the old value. -/
  | atomMax (ord : AtomOrd) (d a b : GReg)
  /-- ATOM_AND (R279). Appends an atomic AND record and receives the old value. -/
  | atomAnd (ord : AtomOrd) (d a b : GReg)
  /-- ATOM_OR (R279). Appends an atomic OR record and receives the old value. -/
  | atomOr (ord : AtomOrd) (d a b : GReg)
  /-- ATOM_XOR (R279). Appends an atomic XOR record and receives the old value. -/
  | atomXor (ord : AtomOrd) (d a b : GReg)
  /-- ATOM_SWAP (R279). Appends an atomic swap record and receives the old value. -/
  | atomSwap (ord : AtomOrd) (d a b : GReg)
  /-- ATOM_CAS (R279). Appends an atomic compare-and-swap record and receives the old value. -/
  | atomCas (ord : AtomOrd) (d a b : GReg)
  /-- TLBLK (R281). Translates ga and adds its page to the group's locked set. -/
  | tlblk (a : GReg)
  /-- TLBUL (R281). Removes the page containing ga from the locked set. -/
  | tlbul (a : GReg)
  /-- TLBPRB (R282). Probes the TLB for ga without a miss and reports the leaf. -/
  | tlbprb (d a : GReg)
  /-- MSTEP (R311). Enqueues a matrix step job for the core's tile. -/
  | mstep (wf : Bool) (rows : StepRows) (d a b : GReg)
  /-- MCOMMIT (R313). Closes the core's batch of open jobs and returns its id word. -/
  | mcommit (d : GReg)
  /-- JWAIT (R314). Waits for a job or batch to complete, acquires copy tails and traps on an error. -/
  | jwait (a : GReg)
  /-- JPOLL (R315). Returns the status word of a job or batch without waiting. -/
  | jpoll (d a : GReg)
  /-- TCFG (R316). Sets TILECFG.type unless a row is busy. -/
  | tcfg (t : AccType)
  /-- TREL (R317). Zeroes the whole tile and sets TILECFG to f32 unless a row is busy. -/
  | trel
  /-- TZERO (R318). Enqueues a job that zeroes the rows named by a mask. -/
  | tzero (a : GReg)
  /-- DTLOAD (R319). Reads 1,024 bytes and enqueues a job that replaces the decode table. -/
  | dtload (a : GReg)
  /-- AMPUSH (R321). Pushes the running amax of a ring into the ring and clears it. -/
  | ampush (n : BitVec 2)
  /-- AMSCALE (R322). Derives an E8M0 scale byte from a ring's amax. -/
  | amscale (fmt : QFmt) (d : GReg) (n : BitVec 2)
  /-- CPY (R325). Enqueues a contiguous copy job. -/
  | cpy (d a b : GReg)
  /-- CPY2 (R325). Enqueues a two-dimensional copy job. -/
  | cpy2 (d a b : GReg)
  /-- COLL (R327). Enqueues the issuer's part of a collective over a level unit. -/
  | coll (d a b : GReg)
  /-- VBCI (R50). Broadcasts a b16 immediate, converted to the lane type, to enabled lanes. -/
  | vbci (t : BType) (d : VReg) (m : MReg) (imm : BitVec 16)
  /-- VADD_F (R128). Adds floating-point lanes. -/
  | vaddF (t : FType) (d a b : VReg) (m : MReg) (p : Pat)
  /-- VADD_I (R129). Adds integer lanes with wrap. -/
  | vaddI (t : IType) (d a b : VReg) (m : MReg) (p : Pat)
  /-- VSUB_F (R128). Subtracts floating-point lanes. -/
  | vsubF (t : FType) (d a b : VReg) (m : MReg) (p : Pat)
  /-- VSUB_I (R129). Subtracts integer lanes with wrap. -/
  | vsubI (t : IType) (d a b : VReg) (m : MReg) (p : Pat)
  /-- VMUL_F (R128). Multiplies floating-point lanes. -/
  | vmulF (t : FType) (d a b : VReg) (m : MReg) (p : Pat)
  /-- VMUL_I (R129). Multiplies integer lanes, keeping the low bits. -/
  | vmulI (t : IType) (d a b : VReg) (m : MReg) (p : Pat)
  /-- VMIN_F (R43). Takes the lesser floating-point lane. -/
  | vminF (t : FType) (d a b : VReg) (m : MReg) (p : Pat)
  /-- VMIN_I (R129). Takes the lesser signed integer lane. -/
  | vminI (t : IType) (d a b : VReg) (m : MReg) (p : Pat)
  /-- VMAX_F (R43). Takes the greater floating-point lane. -/
  | vmaxF (t : FType) (d a b : VReg) (m : MReg) (p : Pat)
  /-- VMAX_I (R129). Takes the greater signed integer lane. -/
  | vmaxI (t : IType) (d a b : VReg) (m : MReg) (p : Pat)
  /-- VABS_F (R128). Clears the sign bit of floating-point lanes. -/
  | vabsF (t : FType) (d b : VReg) (m : MReg) (p : Pat)
  /-- VABS_I (R129). Takes the wrapping absolute value of integer lanes. -/
  | vabsI (t : IType) (d b : VReg) (m : MReg) (p : Pat)
  /-- VNEG_F (R128). Inverts the sign bit of floating-point lanes. -/
  | vnegF (t : FType) (d b : VReg) (m : MReg) (p : Pat)
  /-- VNEG_I (R129). Negates integer lanes with wrap. -/
  | vnegI (t : IType) (d b : VReg) (m : MReg) (p : Pat)
  /-- VCEQ_F (R131). Compares floating-point lanes for equality into a mask. -/
  | vceqF (t : FType) (d : MReg) (a b : VReg) (m : MReg) (p : Pat)
  /-- VCEQ_I (R131). Compares integer lanes for equality into a mask. -/
  | vceqI (t : IType) (d : MReg) (a b : VReg) (m : MReg) (p : Pat)
  /-- VCLT_F (R131). Compares floating-point lanes for less than into a mask. -/
  | vcltF (t : FType) (d : MReg) (a b : VReg) (m : MReg) (p : Pat)
  /-- VCLT_I (R131). Compares signed integer lanes for less than into a mask. -/
  | vcltI (t : IType) (d : MReg) (a b : VReg) (m : MReg) (p : Pat)
  /-- VCLE_F (R131). Compares floating-point lanes for less than or equal into a mask. -/
  | vcleF (t : FType) (d : MReg) (a b : VReg) (m : MReg) (p : Pat)
  /-- VCLE_I (R131). Compares signed integer lanes for less than or equal into a mask. -/
  | vcleI (t : IType) (d : MReg) (a b : VReg) (m : MReg) (p : Pat)
  /-- VRSUM_F (R134). Sums enabled floating-point lanes in ascending order into lane 0. -/
  | vrsumF (t : FType) (d b : VReg) (m : MReg) (p : Pat)
  /-- VRSUM_I (R134). Sums enabled integer lanes into lane 0. -/
  | vrsumI (t : IType) (d b : VReg) (m : MReg) (p : Pat)
  /-- VRMAX_F (R134). Reduces enabled floating-point lanes to their maximum in lane 0. -/
  | vrmaxF (t : FType) (d b : VReg) (m : MReg) (p : Pat)
  /-- VRMAX_I (R134). Reduces enabled integer lanes to their maximum in lane 0. -/
  | vrmaxI (t : IType) (d b : VReg) (m : MReg) (p : Pat)
  /-- VRMIN_F (R134). Reduces enabled floating-point lanes to their minimum in lane 0. -/
  | vrminF (t : FType) (d b : VReg) (m : MReg) (p : Pat)
  /-- VRMIN_I (R134). Reduces enabled integer lanes to their minimum in lane 0. -/
  | vrminI (t : IType) (d b : VReg) (m : MReg) (p : Pat)
  /-- VFMA (R128). Computes a times b plus vd per lane, rounded once. -/
  | vfma (t : FType) (d a b : VReg) (m : MReg) (p : Pat)
  /-- VFMS (R128). Computes a times b minus vd per lane, rounded once. -/
  | vfms (t : FType) (d a b : VReg) (m : MReg) (p : Pat)
  /-- VFNMA (R128). Computes vd minus a times b per lane, rounded once. -/
  | vfnma (t : FType) (d a b : VReg) (m : MReg) (p : Pat)
  /-- VDIV (R128). Divides floating-point lanes. -/
  | vdiv (t : FType) (d a b : VReg) (m : MReg) (p : Pat)
  /-- VSQRT (R128). Takes the square root of floating-point lanes. -/
  | vsqrt (t : FType) (d b : VReg) (m : MReg) (p : Pat)
  /-- VSHL (R130). Shifts integer lanes left. -/
  | vshl (t : IType) (d a b : VReg) (m : MReg) (p : Pat)
  /-- VSHR (R130). Shifts integer lanes logically right. -/
  | vshr (t : IType) (d a b : VReg) (m : MReg) (p : Pat)
  /-- VSRA (R130). Shifts integer lanes arithmetically right. -/
  | vsra (t : IType) (d a b : VReg) (m : MReg) (p : Pat)
  /-- VAND (R130). ANDs two rows bit by bit. -/
  | vand (w : Width) (d a b : VReg) (m : MReg) (p : Pat)
  /-- VOR (R130). ORs two rows bit by bit. -/
  | vor (w : Width) (d a b : VReg) (m : MReg) (p : Pat)
  /-- VXOR (R130). Exclusive-ORs two rows bit by bit. -/
  | vxor (w : Width) (d a b : VReg) (m : MReg) (p : Pat)
  /-- VSEL (R132). Selects each lane from va or vb by the mask. -/
  | vsel (w : Width) (d a b : VReg) (m : MReg) (p : Pat)
  /-- VMOV (R132). Copies the patterned vb to enabled lanes. -/
  | vmov (w : Width) (d b : VReg) (m : MReg) (p : Pat)
  /-- VBC (R133). Broadcasts the low bits of ga to enabled lanes. -/
  | vbc (w : Width) (d : VReg) (a : GReg) (m : MReg)
  /-- VEXT (R133). Extracts one patterned lane into gd. -/
  | vext (w : Width) (d : GReg) (b : VReg) (a : GReg) (p : Pat)
  /-- VINS (R133). Inserts gb into one lane of vd. -/
  | vins (w : Width) (d : VReg) (a b : GReg) (m : MReg)
  /-- VPACK (R136). Packs the low halves of two rows into one row. -/
  | vpack (w : Width) (d a b : VReg) (m : MReg) (p : Pat)
  /-- VUNPK (R136). Moves one half of a row into the low half of vd. -/
  | vunpk (w : Width) (d b : VReg) (h : BitVec 5) (m : MReg) (p : Pat)
  /-- VSTQ (R140). Writes a row as 16 words to an outbound queue. -/
  | vstq (w : Width) (q : BitVec 5) (b : VReg) (p : Pat)
  /-- VCVT (R135). Converts lanes between types with FCSR.RM. -/
  | vcvt (dst src : VType) (d a : VReg) (m : MReg)
  /-- VQUANT (R137). Encodes lanes into e4, e5 or d8. -/
  | vquant (dst : QFmt) (src : FType) (d a : VReg) (m : MReg)
  /-- VDEQ (R138). Decodes 8-bit lanes into a floating type. -/
  | vdeq (dst : FType) (src : DFmt) (d a : VReg) (m : MReg)
  /-- VAMAX (R139). Folds lane magnitudes into a ring's running amax. -/
  | vamax (t : FType) (n : BitVec 5) (b : VReg) (m : MReg) (p : Pat)
  /-- VFN (R142). Evaluates a built-in function on lanes in the function pipe. -/
  | vfn (t : FType) (fn : BitVec 5) (d b : VReg) (m : MReg) (p : Pat)
  /-- VLUT (R147). Evaluates a user quadratic table on lanes in the function pipe. -/
  | vlut (t : FType) (n : BitVec 5) (d b : VReg) (m : MReg) (p : Pat)
  /-- MAND (R149). ANDs two masks. -/
  | mand (d a b : MReg)
  /-- MOR (R149). ORs two masks. -/
  | mor (d a b : MReg)
  /-- MXOR (R149). Exclusive-ORs two masks. -/
  | mxor (d a b : MReg)
  /-- MNOT (R149). Inverts a mask. -/
  | mnot (d a : MReg)
  /-- MPOPC (R149). Counts the one bits of a mask into gd. -/
  | mpopc (d : GReg) (a : MReg)
  /-- MFROM (R149). Copies ga into a mask. -/
  | mfrom (d : MReg) (a : GReg)
  /-- MTO (R149). Copies a mask into gd. -/
  | mto (d : GReg) (a : MReg)
  /-- RESERVED_INSTRUCTION (R91). A fetched word that is reserved takes a reserved-instruction trap at decode. -/
  | reservedInstruction (w : IWord)
  /-- INSTRUCTION_ADDRESS_TRAP (R94). A fetch at or beyond the end of the code image takes an instruction-address trap at that address. -/
  | instructionAddressTrap
  /-- MODULE_RESET (R392). Boot verifies tables and firmware, locks ceilings, tests cores and starts each partition. -/
  | moduleReset
  /-- KERNEL_REPLACEMENT (R393). Loads a new verified kernel that adopts the preserved-state table. -/
  | kernelReplacement (image : KernelImage)
  /-- HOT_PATCH (R393). Replaces firmware function-table entries, each with its new function, once the listed functions are inactive. -/
  | hotPatch (base : Nat) (entries : PatchImage) (inactive : List Nat)
  /-- PARTITION_CONFIG (R394). The hypervisor fixes a partition's dies while they hold no group. -/
  | partitionConfig (part : Nat) (dies : List Nat)
  /-- NOTIFY_WRITE (R389). A host write of a queue's write index to its notify page is captured in the latch. -/
  | notifyWrite (queue : Nat) (index : BitVec 32)
  /-- APERTURE_WAKE (R389). The capture latch hands latched indexes to the packet processor when the aperture wakes. -/
  | apertureWake (queue : Nat)
  /-- LAUNCH_PACKET (R386). The packet processor takes a launch packet under the fence rules. -/
  | launchPacket (queue : Nat)
  /-- HOST_BAR2_ACCESS (R384). A host read or write through BAR2 is applied at the main-memory home. -/
  | hostBar2Access (write : Bool) (at_ : BarAddress) (value : Word)
  /-- ADMISSION (R160). Admits a launch once its record is valid, its leases resident and its names issuable, placing and creating groups. -/
  | admission (launch : Nat)
  /-- OVERSUBSCRIPTION_PARK (R161). After 4,096 blocked cycles the scheduler parks blocked groups to place unplaced ones. -/
  | oversubscriptionPark (launch : Nat)
  /-- PLACE_UNPLACED (R161). Places a waiting unplaced group when a core in its instance frees. -/
  | placeUnplaced (launch : Nat)
  /-- HANDLER_START (R154). An idle slot 1 or 2 starts an activation from the best pending entry. -/
  | handlerStart (k : SlotId)
  /-- INJECTION (R190). An injection entry leaves the core, after any wait for its release to publish. -/
  | injection (n : Nat)
  /-- STREAM_INJECTION (R176). The core injects a stream message of up to 16 words against credits. -/
  | streamInjection (q : BitVec 3)
  /-- MESSAGE_ARRIVAL (R174). A request arrives at a core and is delivered, kept, bounced, refused, discarded or forwarded. -/
  | messageArrival (n : Nat)
  /-- REINJECTION (R171). A bounced entry is re-injected 64 cycles later. -/
  | reinjection (n : Nat)
  /-- ACCEPTANCE_ARRIVAL (R171). An acceptance frees the sender's injection entry. -/
  | acceptanceArrival (n : Nat)
  /-- NOTICE_ARRIVAL (R171). A returned notice reaches the sender and frees any reservation. -/
  | noticeArrival (n : Nat)
  /-- NOTICE_WRITE (R230). A held notice is written into the lowest free mailbox entry once one is free. -/
  | noticeWrite (n : Nat)
  /-- REPLY_ARRIVAL (R191). A reply is written into its reserved entry or discarded. -/
  | replyArrival (n : Nat)
  /-- REGISTER_WRITE_ARRIVAL (R178). A register write fills a held row, waits for busy, or is refused. -/
  | registerWriteArrival (n : Nat)
  /-- DEFERRED_FILL (R178). A register write waiting at the port fills its row when busy clears. -/
  | deferredFill (n : Nat)
  /-- STREAM_ARRIVAL (R176). Stream words are appended to the inbound queue in sequence order. -/
  | streamArrival (n : Nat)
  /-- CREDIT_RETURN (R176). Returned credits increase the outbound end's credits. -/
  | creditReturn (n : Nat)
  /-- NAME_CACHE_UPDATE (R182). A name-cache update writes a group's core into the core's name cache. -/
  | nameCacheUpdate (n : Nat)
  /-- DIRECTORY_ARRIVAL (R184). The directory home handles a message by the destination's state. -/
  | directoryArrival (n : Nat)
  /-- DIRECTORY_UPDATE (R183). Posted positions clear the moving mark and held arrivals are sent on. -/
  | directoryUpdate (n : Nat)
  /-- SUMP_ARRIVAL (R185). A message for a non-resident group is queued, applied to its image or refused. -/
  | sumpArrival (n : Nat)
  /-- SWEEP_START (R164). At each multiple of 65,536 cycles the sweep tree samples idleness and counts. -/
  | sweepStart
  /-- SWEEP_RESULT (R164). A sweep result reaches the packet processor and may end the launch. -/
  | sweepResult (launch : Nat)
  /-- ROUND_INSTANT (R211). At each ANPERIOD multiple a round begins with the weight updates. -/
  | roundInstant
  /-- WEIGHT_UPDATE_ARRIVAL (R208). A weight update stores the peer's product and position. -/
  | weightUpdateArrival (n : Nat)
  /-- PHASE_START (R211). The annealer driver starts a phase once the previous one settled. -/
  | phaseStart
  /-- PAIR_DECISION (R214). The lower core of a pair accepts or rejects the exchange. -/
  | pairDecision (lower : Coord)
  /-- SWAP_FREEZE_END (R217). The freeze completes and eligibility is tested again. -/
  | swapFreezeEnd
  /-- SWAP_DRAIN_END (R218). Injection entries are settled and logs acknowledged, so the context can be sent. -/
  | swapDrainEnd
  /-- SWAP_INSTALL (R219). After the context arrives, positions, pointers, caches and directories are updated. -/
  | swapInstall
  /-- SWAP_RESUME (R232). Both cores resume and release held traffic in arrival order. -/
  | swapResume
  /-- SWAP_ABORT (R220). A swap not installed 4,096 cycles after its lock aborts. -/
  | swapAbort
  /-- POSITION_UPDATE_ARRIVAL (R231). A position update stores the peer position and updates the name cache. -/
  | positionUpdateArrival (n : Nat)
  /-- FORWARD_POINTER_EXPIRY (R222). A forward pointer lapses 4,096 cycles after its install. -/
  | forwardPointerExpiry (n : Nat)
  /-- ROUND_END (R226). At the end of phase 3 the trace entry is written and T cools. -/
  | roundEnd
  /-- COMMIT_END (R225). Commit ends when every group reaches its target or after 4,096 phases. -/
  | commitEnd
  /-- TLB_MISS_REPLY (R247). The translation service's reply is written into the TLB and the access retried. -/
  | tlbMissReply
  /-- LOAD_REPLY (R274). A split-phase load's data returns and writes its destination. -/
  | loadReply (tag : Nat)
  /-- VIEW_CACHE_FILL (R275). A view-cache line fill arrives and is kept unless discarded. -/
  | viewCacheFill (n : Nat)
  /-- LOG_PUMP_SEND (R257). Each cycle the pump sends the oldest sendable record. -/
  | logPumpSend
  /-- RECORD_APPLY (R258). A home applies an arriving record and returns an acknowledgement. -/
  | recordApply (n : Nat)
  /-- RECORD_ACK (R258). An acknowledgement frees ring entries and retires markers. -/
  | recordAck (n : Nat)
  /-- EGRESS_ACK (R264). The fabric port acknowledges entry of a remote record into its retry buffer. -/
  | egressAck (n : Nat)
  /-- LOG_REFILL (R260). Entries move from the overflow log area into the ring. -/
  | logRefill
  /-- ATOMIC_EXECUTE (R270). A home executes an atomic record and replies with the old value. -/
  | atomicExecute (n : Nat)
  /-- ATOMIC_RETURN (R270). The old value writes gd and raises the event. -/
  | atomicReturn (n : Nat)
  /-- JOB_START (R285). A free unit takes the next startable job in cyclic core order. -/
  | jobStart (u : JobUnit)
  /-- JOB_COMPLETE (R286). A job writes its last effect, with its error code and status record. -/
  | jobComplete (u : JobUnit)
  /-- COPY_WORD_WRITE (R300). A copy job writes a word once its range is not lent and, in fill mode, is empty. -/
  | copyWordWrite
  /-- COLL_CHILD_ARRIVAL (R328). A parent receives a child's vector, checks it and combines it. -/
  | collChildArrival (n : Nat)
  /-- TRAP_ACTIVATION_START (R335). Slot 3 starts a trap activation for the oldest pending trap. -/
  | trapActivationStart
  /-- ASYNC_ERROR_RETURN (R339). An uncorrectable error return traps the slot with code 0x0E. -/
  | asyncErrorReturn (tag : Nat)
  /-- GROUP_KILL (R346). A kill seals the name, stops the core, aborts its jobs and reads out its state. -/
  | groupKill (cause : KillCause) (restart : Bool)
  /-- SEAL_CONFIRMATION (R354). The confirmation of a seal returns on class 7. -/
  | sealConfirmation (k : SlotId)
  /-- KILL_RESTART (R346). The supervisor installs the group on a spare core, replays its log and unseals it. -/
  | killRestart (name : Name)
  /-- TWIN_HASH_ARRIVAL (R357). A replica's output hash arrives and is compared with its partner's. -/
  | twinHashArrival (n : Nat)
  /-- TWIN_HASH_TIMEOUT (R357). A hash missing 65,536 cycles after its partner's kills both replicas. -/
  | twinHashTimeout
  /-- CORRECTED_ERROR (R355). A corrected storage error costs only time and is counted. -/
  | correctedError
  /-- UNCORRECTABLE_ERROR (R355). An uncorrectable error kills, loses an entry, poisons a word or sets a job error. -/
  | uncorrectableError (storage : Storage) (at_ : Nat)
  /-- FLIT_CRC_RETRY (R356). A flit failing its CRC is resent from the retry buffer. -/
  | flitCrcRetry
  /-- HEADER_CHECK_STOMP (R356). A failed header check stomps the message, which is resent once or the link fails. -/
  | headerCheckStomp (seen : HeaderSeen)
  /-- PREEMPTION_REQUEST (R358). A pre-emption or parking is requested and waits for swaps, traps and jobs. -/
  | preemptionRequest (park : Bool)
  /-- PREEMPTION_START (R358). A system activation stops slots, drains, saves the image and frees the core. -/
  | preemptionStart
  /-- RESUMPTION (R363). A system activation loads the save image, delivers the sump queue and resumes the slots. -/
  | resumption (name : Name) (core : Coord)
  /-- SLICE_INSTANT (R366). At a gang slice instant the packet processors stop taking packets. -/
  | sliceInstant
  /-- SLICE_CHANGE (R366). The outgoing gang is pre-empted and the incoming gang resumed. -/
  | sliceChange
  /-- PTP_MESSAGE (R365). A Precision Time Protocol message is processed by the boundary clock. -/
  | ptpMessage (offset : Int)
  /-- SLEEPC_WAKE (R353). A gated core wakes at its deadline, an event, a swap or a kill. -/
  | sleepcWake
  /-- FABRIC_FLIT_ARRIVAL (R374). A fabric flit is taken against credit and duplicates are discarded. -/
  | fabricFlitArrival (port vc : Nat)
  /-- FABRIC_EMPTY_FLIT (R374). An empty flit carries credits when none has been sent for 64 cycles. -/
  | fabricEmptyFlit (port : Nat)
  /-- FABRIC_LINK_FAILED (R376). Flows on a failed link move to another port and resend in order. -/
  | fabricLinkFailed (port : Nat)
  /-- FABRIC_UNREACHABLE (R376). After 100 µs unreachable the port returns dead letters and error returns. -/
  | fabricUnreachable (module : Nat)
  /-- POD_COLLECTIVE_PACKET (R380). A collective packet starts a pod collective from its descriptor. -/
  | podCollectivePacket (n : Nat)
  /-- CHUNK_ARRIVAL (R382). A collective chunk is held, acknowledged and combined when complete. -/
  | chunkArrival (n : Nat)
  /-- CHUNK_ACK (R382). A chunk acknowledgement releases the sender's copy. -/
  | chunkAck (n : Nat)
  /-- EDGE_SILENCE_TIMEOUT (R382). After 100 µs of silence the sender restarts from the chunk after the last acknowledged. -/
  | edgeSilenceTimeout (n : Nat)
  /-- SLACK_MEASUREMENT (R395). Every 10 s the monitors measure slack and set margins or start evacuation. -/
  | slackMeasurement (core : Coord) (slack : Int)
  /-- EVACUATION_TIMEOUT (R395). An evacuation not complete within one second kills the group with restart. -/
  | evacuationTimeout
  /-- COUNTER_SNAPSHOT (R399). At each multiple of 2^period the counters are latched, cleared and written to the ring. -/
  | counterSnapshot
  /-- CNTTAIL_WRITE (R398). A host write to CNTTAIL takes effect at once. -/
  | cntTailWrite (value : BitVec 16)
  /-- COUNTER_REGISTER_WRITE (R398). A host write to another counter register takes effect at the next snapshot. -/
  | counterRegisterWrite (offset : Nat) (value : Word)
  /-- BARRIER_COMPLETION (R204). The barrier tree reports a unit's last arrival, and a waiting BARW completes with its acquire. -/
  | barrierCompletion (k : SlotId)
  /-- LAUNCH_QUEUE_CREATE (R385). The hypervisor creates a user or system launch queue and maps its notify page to a function. -/
  | launchQueueCreate (id base log2 : Nat) (owner : QueueOwner)
  /-- GANG_SCHEDULE_WRITE (R365). The hypervisor writes a partition's gang schedule of origin, slice length and gang count. -/
  | gangScheduleWrite (origin length gangs : Nat)
  /-- APERTURE_GATE (R389). A launch-queue aperture is clock- or power-gated while its capture latch keeps the notify indexes. -/
  | apertureGate (queue : Nat)
  deriving DecidableEq, Repr

end Sys2Proof
end

