-- ==== Sys2Proof/WellFormed.lean ====
section
/-! DEFINITION. Which terms of the syntax are instructions or events: the conditions on operands that the encodings
forbid (spec 05 R80, R89, R90) and the ranges of the events' places (spec 01 R9, 24 R373). -/

namespace Sys2Proof

/-- FCVT between equal kinds, or between the two integer kinds, is reserved (R80). -/
def fcvtAllowed : FKind → FKind → Bool
  | .l, .l | .l, .lu | .lu, .l | .lu, .lu => false
  | k, j => k ≠ j

/-- VCVT between equal types, or into or out of .d8, is reserved (R90). -/
def vcvtAllowed (t f : VType) : Bool := t ≠ f && t ≠ .d8 && f ≠ .d8

/-- A core of the mesh (R9). -/
def Coord.onMesh (c : Coord) : Bool := c.x < 832 && c.y < 800

/-- The well-formed terms. -/
def Instr.wellFormed : Instr → Bool
  | .fcvt k j _ _ => fcvtAllowed k j
  | .vcvt t f _ _ _ => vcvtAllowed t f
  | .vpack w _ _ _ _ _ => w ≠ .w32
  | .vunpk w _ _ _ _ _ => w ≠ .w8
  | .pairDecision c => c.onMesh
  | .resumption _ c => c.onMesh
  | .slackMeasurement c _ => c.onMesh
  | .handlerStart k => k = 1 || k = 2
  | .fabricFlitArrival p vc => p < 48 && vc < 8
  | .fabricEmptyFlit p => p < 48
  | .fabricLinkFailed p => p < 48
  | .launchQueueCreate _ _ k _ => k ≤ 16
  | .gangScheduleWrite _ l g => 1000000 ≤ l && l ≤ 10000000000 && l % 1000000 == 0 && 1 ≤ g && g ≤ 64
  | _ => true

end Sys2Proof
end

