-- ==== Sys2Proof/Decode.lean ====
section
/-! DEFINITION. The decoder, total on any word and on any bytes, rejecting by name (spec 05 R73 to R91), and the
encoder, written from the same encoding tables. A word that step 1 of R91 calls reserved is rejected; a word whose
operand lies outside its limits decodes, and its meaning takes the illegal-operand trap of step 3. -/

namespace Sys2Proof

/-- Why a word is reserved (R91, step 1). -/
inductive Reason | major | operation | type | field
  deriving DecidableEq, Repr
/-- Why bytes give no instruction: a reserved word (R91), or fewer than the four bytes of a word (R73). -/
inductive Reject | reserved (r : Reason) | truncated
  deriving DecidableEq, Repr

/-- The outcome of decoding one word. -/
abbrev Decoded := Except Reject Instr

/-! The fields of R75 (forms A, I, S, J, L) and of R87 (the vector word). -/
def fOp (w : IWord) : BitVec 6 := w.extractLsb' 26 6
def fD (w : IWord) : BitVec 5 := w.extractLsb' 21 5
def fA (w : IWord) : BitVec 5 := w.extractLsb' 16 5
def fB (w : IWord) : BitVec 5 := w.extractLsb' 11 5
def fOpt (w : IWord) : BitVec 5 := w.extractLsb' 6 5
def fFn (w : IWord) : BitVec 6 := w.extractLsb' 0 6
def fImm (w : IWord) : BitVec 16 := w.extractLsb' 0 16
def fJ (w : IWord) : BitVec 26 := w.extractLsb' 0 26
def fCount (w : IWord) : BitVec 15 := w.extractLsb' 11 15
def fBody (w : IWord) : BitVec 11 := w.extractLsb' 0 11
def fVop (w : IWord) : BitVec 6 := w.extractLsb' 24 6
def fTy (w : IWord) : BitVec 2 := w.extractLsb' 22 2
def fVd (w : IWord) : BitVec 5 := w.extractLsb' 17 5
def fVa (w : IWord) : BitVec 5 := w.extractLsb' 12 5
def fVb (w : IWord) : BitVec 5 := w.extractLsb' 7 5
def fMk (w : IWord) : BitVec 3 := w.extractLsb' 4 3
def fPat (w : IWord) : BitVec 4 := w.extractLsb' 0 4

/-- A field its row does not use must be zero (R91). -/
def needZero {n : Nat} (x : BitVec n) (k : Decoded) : Decoded :=
  if x = 0 then k else .error (.reserved .field)

/-! The type codes of R80, R84, R85, R86, R88 and R90. -/
def ftypeOf (c : BitVec 2) : Option FType :=
  match c.toNat with | 0 => some .f32 | 1 => some .f16 | 2 => some .b16 | _ => none
def ftypeCode : FType → BitVec 2 | .f32 => 0 | .f16 => 1 | .b16 => 2
def itypeOf (c : BitVec 2) : Option IType :=
  match c.toNat with | 0 => some .i32 | 1 => some .i16 | 2 => some .i8 | _ => none
def itypeCode : IType → BitVec 2 | .i32 => 0 | .i16 => 1 | .i8 => 2
def widthOf (c : BitVec 2) : Option Width :=
  match c.toNat with | 0 => some .w32 | 1 => some .w16 | 2 => some .w8 | _ => none
def widthCode : Width → BitVec 2 | .w32 => 0 | .w16 => 1 | .w8 => 2
def fkindOf (c : BitVec 3) : Option FKind :=
  match c.toNat with | 0 => some .f32 | 1 => some .f16 | 2 => some .b16 | 3 => some .l | 4 => some .lu | _ => none
def fkindCode : FKind → BitVec 3 | .f32 => 0 | .f16 => 1 | .b16 => 2 | .l => 3 | .lu => 4
def vtypeOf (c : BitVec 4) : Option VType :=
  match c.toNat with
  | 0 => some .f32 | 1 => some .f16 | 2 => some .b16 | 3 => some .e4 | 4 => some .e5 | 5 => some .i8 | 6 => some .d8
  | 7 => some .i32 | 8 => some .i16 | _ => none
def vtypeCode : VType → BitVec 4
  | .f32 => 0 | .f16 => 1 | .b16 => 2 | .e4 => 3 | .e5 => 4 | .i8 => 5 | .d8 => 6 | .i32 => 7 | .i16 => 8
def btypeOf (c : BitVec 3) : BType :=
  match c.toNat with
  | 0 => .f32 | 1 => .f16 | 2 => .b16 | 3 => .i32 | 4 => .e4 | 5 => .e5 | 6 => .i16 | _ => .i8
def btypeCode : BType → BitVec 3
  | .f32 => 0 | .f16 => 1 | .b16 => 2 | .i32 => 3 | .e4 => 4 | .e5 => 5 | .i16 => 6 | .i8 => 7
def qfmtOf (c : BitVec 2) : Option QFmt :=
  match c.toNat with | 0 => some .e4 | 1 => some .e5 | 2 => some .d8 | _ => none
def qfmtCode : QFmt → BitVec 2 | .e4 => 0 | .e5 => 1 | .d8 => 2
def dfmtOf (c : BitVec 2) : DFmt :=
  match c.toNat with | 0 => .e4 | 1 => .e5 | 2 => .d8 | _ => .i8
def dfmtCode : DFmt → BitVec 2 | .e4 => 0 | .e5 => 1 | .d8 => 2 | .i8 => 3
def ordOf (c : BitVec 2) : AtomOrd :=
  match c.toNat with | 0 => .none | 1 => .acq | 2 => .rel | _ => .ar
def ordCode : AtomOrd → BitVec 2 | .none => 0 | .acq => 1 | .rel => 2 | .ar => 3
def rowsOf (c : BitVec 2) : Option StepRows :=
  match c.toNat with | 0 => some .all | 1 => some .lo | 2 => some .hi | _ => none
def rowsCode : StepRows → BitVec 2 | .all => 0 | .lo => 1 | .hi => 2
def accOf (c : BitVec 2) : AccType :=
  match c.toNat with | 0 => .f32 | 1 => .i32 | 2 => .f16 | _ => .b16
def accCode : AccType → BitVec 2 | .f32 => 0 | .i32 => 1 | .f16 => 2 | .b16 => 3
def scopeOf (c : BitVec 1) : Scope := if c = 0 then .device else .pod
def scopeCode : Scope → BitVec 1 | .device => 0 | .pod => 1
def boolOf (c : BitVec 1) : Bool := c = 1
def boolCode (b : Bool) : BitVec 1 := if b then 1 else 0

/-- A code that its table leaves unassigned makes the word reserved (R91). -/
def withType {α : Type} (t : Option α) (k : α → Decoded) : Decoded :=
  match t with
  | some x => k x
  | none => .error (.reserved .type)

/-- Form A with all three register fields. -/
def dec3 (w : IWord) (c : BitVec 5 → BitVec 5 → BitVec 5 → Instr) : Decoded :=
  needZero (fOpt w) (.ok (c (fD w) (fA w) (fB w)))
/-- Form A with fields d and a; b must be zero. -/
def decDA (w : IWord) (c : BitVec 5 → BitVec 5 → Instr) : Decoded :=
  needZero (fOpt w) (needZero (fB w) (.ok (c (fD w) (fA w))))
/-- Form A with fields a and b; d must be zero. -/
def decAB (w : IWord) (c : BitVec 5 → BitVec 5 → Instr) : Decoded :=
  needZero (fOpt w) (needZero (fD w) (.ok (c (fA w) (fB w))))
/-- Form A with field a alone. -/
def decA (w : IWord) (c : BitVec 5 → Instr) : Decoded :=
  needZero (fOpt w) (needZero (fD w) (needZero (fB w) (.ok (c (fA w)))))
/-- Form A with field d alone. -/
def decD (w : IWord) (c : BitVec 5 → Instr) : Decoded :=
  needZero (fOpt w) (needZero (fA w) (needZero (fB w) (.ok (c (fD w)))))
/-- Form A with no register field. -/
def dec0 (w : IWord) (i : Instr) : Decoded :=
  needZero (fOpt w) (needZero (fD w) (needZero (fA w) (needZero (fB w) (.ok i))))
/-- Form I (and form S, whose field b stands in d's place). -/
def decI (w : IWord) (c : BitVec 5 → BitVec 5 → BitVec 16 → Instr) : Decoded :=
  .ok (c (fD w) (fA w) (fImm w))

/-- Major 0x00 (R78). -/
def decAlu (w : IWord) : Decoded :=
  match (fFn w).toNat with
  | 0x00 => dec3 w .add
  | 0x01 => dec3 w .sub
  | 0x02 => dec3 w .and
  | 0x03 => dec3 w .or
  | 0x04 => dec3 w .xor
  | 0x05 => dec3 w .andn
  | 0x06 => dec3 w .orn
  | 0x08 => dec3 w .sll
  | 0x09 => dec3 w .srl
  | 0x0A => dec3 w .sra
  | 0x0B => dec3 w .rol
  | 0x0C => dec3 w .ror
  | 0x10 => dec3 w .mul
  | 0x11 => dec3 w .mulh
  | 0x12 => dec3 w .mulhu
  | 0x14 => dec3 w .div
  | 0x15 => dec3 w .divu
  | 0x16 => dec3 w .rem
  | 0x17 => dec3 w .remu
  | 0x18 => dec3 w .min
  | 0x19 => dec3 w .max
  | 0x1A => dec3 w .minu
  | 0x1B => dec3 w .maxu
  | 0x1C => dec3 w .slt
  | 0x1D => dec3 w .sltu
  | 0x1E => dec3 w .seq
  | 0x1F => dec3 w .sne
  | 0x20 => dec3 w .movz
  | 0x21 => dec3 w .movnz
  | 0x28 => decDA w .clz
  | 0x29 => decDA w .ctz
  | 0x2A => decDA w .popc
  | 0x2B => decDA w .brev
  | 0x2C => decDA w .bswap
  | 0x2D => decDA w .sxb
  | 0x2E => decDA w .sxh
  | 0x2F => decDA w .sxw
  | 0x30 => decDA w .zxw
  | _ => .error (.reserved .operation)

/-- Major 0x23 (R79). -/
def decLocal (w : IWord) : Decoded :=
  match (fFn w).toNat with
  | 0x00 => needZero ((fOpt w).extractLsb' 2 3) (withType (widthOf ((fOpt w).extractLsb' 0 2)) fun t => .ok (.ldvs t (fD w) (fA w) (fB w)))
  | 0x01 => needZero ((fOpt w).extractLsb' 2 3) (withType (widthOf ((fOpt w).extractLsb' 0 2)) fun t => .ok (.stvs t (fD w) (fA w) (fB w)))
  | 0x08 => decDA w .ldf
  | 0x09 => decDA w .ldfk
  | 0x0A => decAB w .ste
  | 0x0B => decA w .setf
  | 0x0C => decA w .sete
  | 0x0D => decDA w .tstf
  | _ => .error (.reserved .operation)

/-- A scalar floating-point operation with operands d, a, b (R80). -/
def decF3 (w : IWord) (c : FType → BitVec 5 → BitVec 5 → BitVec 5 → Instr) : Decoded :=
  needZero (fOpt w) (withType (ftypeOf ((fFn w).extractLsb' 4 2)) fun t => .ok (c t (fD w) (fA w) (fB w)))
/-- A scalar floating-point operation with operands d, a (R80). -/
def decF2 (w : IWord) (c : FType → BitVec 5 → BitVec 5 → Instr) : Decoded :=
  needZero (fOpt w) (needZero (fB w) (withType (ftypeOf ((fFn w).extractLsb' 4 2)) fun t => .ok (c t (fD w) (fA w))))
/-- FCVT (R80): the destination kind in fn[10:8], fn[7] zero, the source kind in fn[6:4]. -/
def decFcvt (w : IWord) : Decoded :=
  needZero (fB w) (needZero (w.extractLsb' 7 1)
    (withType (fkindOf (w.extractLsb' 8 3)) fun k => withType (fkindOf (w.extractLsb' 4 3)) fun j =>
      if fcvtAllowed k j then .ok (.fcvt k j (fD w) (fA w)) else .error (.reserved .type)))

/-- Major 0x24 (R80). -/
def decFloat (w : IWord) : Decoded :=
  match ((fFn w).extractLsb' 0 4).toNat with
  | 0x00 => decF3 w .fadd
  | 0x01 => decF3 w .fsub
  | 0x02 => decF3 w .fmul
  | 0x03 => withType (ftypeOf ((fFn w).extractLsb' 4 2)) fun t => .ok (.ffma t (fD w) (fA w) (fB w) (fOpt w))
  | 0x04 => decF3 w .fdiv
  | 0x05 => decF2 w .fsqrt
  | 0x06 => decF3 w .fmin
  | 0x07 => decF3 w .fmax
  | 0x08 => decF3 w .feq
  | 0x09 => decF3 w .flt
  | 0x0A => decF3 w .fle
  | 0x0B => decF2 w .fclass
  | 0x0C => decFcvt w
  | _ => .error (.reserved .operation)

/-- Major 0x25 (R81): sub in imm[15:14], imm[13:10] zero, slot in imm[9:8], number in imm[7:0]. -/
def decSys (w : IWord) : Decoded :=
  let n := w.extractLsb' 0 8
  let s := w.extractLsb' 8 2
  needZero (w.extractLsb' 10 4)
    (match (w.extractLsb' 14 2).toNat with
     | 0 => needZero (fA w) (needZero s (.ok (.mfs (fD w) n)))
     | 1 => needZero (fD w) (needZero s (.ok (.mts (fA w) n)))
     | 2 => needZero (fA w) (.ok (.mfsp (fD w) s n))
     | _ => needZero (fD w) (.ok (.mtsp (fA w) s n)))

/-- Major 0x26 (R82). -/
def decControl (w : IWord) : Decoded :=
  match (fFn w).toNat with
  | 0x00 => dec0 w .endh
  | 0x01 => dec0 w .yield
  | 0x02 => dec0 w .wfe
  | 0x08 => needZero (fOpt w) (needZero (fD w) (needZero (fA w) (.ok (.trap (fB w)))))
  | 0x10 => dec0 w .eret
  | 0x11 => decA w .kill
  | 0x12 => decA w .seal
  | 0x13 => decA w .unseal
  | 0x14 => decAB w .tlbw
  | 0x15 => decAB w .ancfg
  | 0x16 => decA w .anrun
  | 0x17 => decDA w .anread
  | 0x18 => decA w .sleepc
  | _ => .error (.reserved .operation)

/-- A barrier (R83): the level in fn[10:6], no register field. -/
def decBar (w : IWord) (c : BitVec 5 → Instr) : Decoded :=
  needZero (fD w) (needZero (fA w) (needZero (fB w) (.ok (c (fOpt w)))))

/-- Major 0x27 (R83). -/
def decMsg (w : IWord) : Decoded :=
  match (fFn w).toNat with
  | 0x00 => decAB w .send
  | 0x01 => dec3 w .sendr
  | 0x02 => decAB w .reply
  | 0x04 => decDA w .vput
  | 0x05 => decDA w .vputr
  | 0x06 => decD w .vhold
  | 0x08 => decDA w .qput
  | 0x09 => decDA w .qget
  | 0x0A => decD w .qflush
  | 0x0B => decDA w .qcnt
  | 0x10 => decAB w .chopen
  | 0x11 => decA w .chclose
  | 0x12 => decA w .maskc
  | 0x13 => decA w .unmaskc
  | 0x14 => decDA w .lname
  | 0x15 => decD w .pos
  | 0x16 => dec0 w .anchor
  | 0x17 => dec0 w .unanch
  | 0x18 => decBar w .bar
  | 0x19 => decBar w .bara
  | 0x1A => decBar w .barw
  | _ => .error (.reserved .operation)

/-- ATOM (R84): the operation in fn[8:6], the ordering in fn[10:9]. -/
def decAtom (w : IWord) : Decoded :=
  let o := ordOf (w.extractLsb' 9 2)
  match (w.extractLsb' 6 3).toNat with
  | 0 => .ok (.atomAdd o (fD w) (fA w) (fB w))
  | 1 => .ok (.atomMin o (fD w) (fA w) (fB w))
  | 2 => .ok (.atomMax o (fD w) (fA w) (fB w))
  | 3 => .ok (.atomAnd o (fD w) (fA w) (fB w))
  | 4 => .ok (.atomOr o (fD w) (fA w) (fB w))
  | 5 => .ok (.atomXor o (fD w) (fA w) (fB w))
  | 6 => .ok (.atomSwap o (fD w) (fA w) (fB w))
  | _ => .ok (.atomCas o (fD w) (fA w) (fB w))

/-- Major 0x28 (R84). -/
def decShared (w : IWord) : Decoded :=
  match (fFn w).toNat with
  | 0x00 => decDA w .sld
  | 0x01 => dec3 w .sst
  | 0x02 => decDA w .sldv
  | 0x03 => decDA w .sstv
  | 0x04 => decDA w .lda
  | 0x05 => dec3 w .sstr
  | 0x06 => needZero ((fOpt w).extractLsb' 1 4) (needZero (fD w) (needZero (fA w) (needZero (fB w) (.ok (.rel (scopeOf (w.extractLsb' 6 1)))))))
  | 0x07 => decAB w .acq
  | 0x08 => dec0 w .fence
  | 0x10 => decAtom w
  | 0x18 => decA w .tlblk
  | 0x19 => decA w .tlbul
  | 0x1A => decDA w .tlbprb
  | _ => .error (.reserved .operation)

/-- Major 0x29 (R85). -/
def decEngine (w : IWord) : Decoded :=
  match (fFn w).toNat with
  | 0x00 => needZero (w.extractLsb' 6 2) (withType (rowsOf (w.extractLsb' 8 2)) fun r => .ok (.mstep (boolOf (w.extractLsb' 10 1)) r (fD w) (fA w) (fB w)))
  | 0x01 => decD w .mcommit
  | 0x02 => decA w .jwait
  | 0x03 => decDA w .jpoll
  | 0x04 => needZero (w.extractLsb' 8 3) (needZero (fD w) (needZero (fA w) (needZero (fB w) (.ok (.tcfg (accOf (w.extractLsb' 6 2)))))))
  | 0x05 => dec0 w .trel
  | 0x06 => decA w .tzero
  | 0x07 => decA w .dtload
  | 0x08 => needZero (w.extractLsb' 8 3) (needZero (fD w) (needZero (fA w) (needZero (fB w) (.ok (.ampush (w.extractLsb' 6 2))))))
  | 0x09 => needZero (w.extractLsb' 10 1) (needZero (fA w) (needZero (fB w) (withType (qfmtOf (w.extractLsb' 8 2)) fun t => .ok (.amscale t (fD w) (w.extractLsb' 6 2)))))
  | 0x0A => dec3 w .cpy
  | 0x0B => dec3 w .cpy2
  | 0x0C => dec3 w .coll
  | _ => .error (.reserved .operation)

/-- VBCI (R86): the mask in [20:18], the type code's high bit in op[26], its low bits in [17:16]. -/
def decVbci (w : IWord) : Decoded :=
  .ok (.vbci (btypeOf (w.extractLsb' 26 1 ++ w.extractLsb' 16 2)) (fD w) (w.extractLsb' 18 3) (fImm w))

/-! The vector word (R87 to R90). -/
def decVF3 (w : IWord) (c : FType → BitVec 5 → BitVec 5 → BitVec 5 → BitVec 3 → BitVec 4 → Instr) : Decoded :=
  withType (ftypeOf (fTy w)) fun t => .ok (c t (fVd w) (fVa w) (fVb w) (fMk w) (fPat w))
def decVI3 (w : IWord) (c : IType → BitVec 5 → BitVec 5 → BitVec 5 → BitVec 3 → BitVec 4 → Instr) : Decoded :=
  withType (itypeOf (fTy w)) fun t => .ok (c t (fVd w) (fVa w) (fVb w) (fMk w) (fPat w))
def decVW3 (w : IWord) (c : Width → BitVec 5 → BitVec 5 → BitVec 5 → BitVec 3 → BitVec 4 → Instr) : Decoded :=
  withType (widthOf (fTy w)) fun t => .ok (c t (fVd w) (fVa w) (fVb w) (fMk w) (fPat w))
def decVF2 (w : IWord) (c : FType → BitVec 5 → BitVec 5 → BitVec 3 → BitVec 4 → Instr) : Decoded :=
  needZero (fVa w) (withType (ftypeOf (fTy w)) fun t => .ok (c t (fVd w) (fVb w) (fMk w) (fPat w)))
def decVI2 (w : IWord) (c : IType → BitVec 5 → BitVec 5 → BitVec 3 → BitVec 4 → Instr) : Decoded :=
  needZero (fVa w) (withType (itypeOf (fTy w)) fun t => .ok (c t (fVd w) (fVb w) (fMk w) (fPat w)))
/-- A compare (R89): vd names a mask register, so its bits [4:3] must be zero. -/
def decVFC (w : IWord) (c : FType → BitVec 3 → BitVec 5 → BitVec 5 → BitVec 3 → BitVec 4 → Instr) : Decoded :=
  needZero ((fVd w).extractLsb' 3 2)
    (withType (ftypeOf (fTy w)) fun t => .ok (c t ((fVd w).extractLsb' 0 3) (fVa w) (fVb w) (fMk w) (fPat w)))
def decVIC (w : IWord) (c : IType → BitVec 3 → BitVec 5 → BitVec 5 → BitVec 3 → BitVec 4 → Instr) : Decoded :=
  needZero ((fVd w).extractLsb' 3 2)
    (withType (itypeOf (fTy w)) fun t => .ok (c t ((fVd w).extractLsb' 0 3) (fVa w) (fVb w) (fMk w) (fPat w)))
/-- The fields every mask operation leaves zero (R149): ty, mk and pat. -/
def decMask (w : IWord) (k : Decoded) : Decoded :=
  needZero (fTy w) (needZero (fMk w) (needZero (fPat w) k))
/-- A field that names an m register uses its bits [2:0] (R89). -/
def needM (x : BitVec 5) (k : BitVec 3 → Decoded) : Decoded :=
  needZero (x.extractLsb' 3 2) (k (x.extractLsb' 0 3))
/-- VCVT (R90): ty zero, from in vb[3:0] with vb[4] zero, to in pat. -/
def decVcvt (w : IWord) : Decoded :=
  needZero (fTy w) (needZero ((fVb w).extractLsb' 4 1)
    (withType (vtypeOf (fPat w)) fun t => withType (vtypeOf ((fVb w).extractLsb' 0 4)) fun f =>
      if vcvtAllowed t f then .ok (.vcvt t f (fVd w) (fVa w) (fMk w)) else .error (.reserved .type)))

/-- The vector operations (R89). -/
def decVector (w : IWord) : Decoded :=
  match (fVop w).toNat with
  | 0x00 => decVF3 w .vaddF
  | 0x01 => decVI3 w .vaddI
  | 0x02 => decVF3 w .vsubF
  | 0x03 => decVI3 w .vsubI
  | 0x04 => decVF3 w .vmulF
  | 0x05 => decVI3 w .vmulI
  | 0x06 => decVF3 w .vminF
  | 0x07 => decVI3 w .vminI
  | 0x08 => decVF3 w .vmaxF
  | 0x09 => decVI3 w .vmaxI
  | 0x0A => decVF2 w .vabsF
  | 0x0B => decVI2 w .vabsI
  | 0x0C => decVF2 w .vnegF
  | 0x0D => decVI2 w .vnegI
  | 0x0E => decVFC w .vceqF
  | 0x0F => decVIC w .vceqI
  | 0x10 => decVFC w .vcltF
  | 0x11 => decVIC w .vcltI
  | 0x12 => decVFC w .vcleF
  | 0x13 => decVIC w .vcleI
  | 0x14 => decVF2 w .vrsumF
  | 0x15 => decVI2 w .vrsumI
  | 0x16 => decVF2 w .vrmaxF
  | 0x17 => decVI2 w .vrmaxI
  | 0x18 => decVF2 w .vrminF
  | 0x19 => decVI2 w .vrminI
  | 0x1A => decVF3 w .vfma
  | 0x1B => decVF3 w .vfms
  | 0x1C => decVF3 w .vfnma
  | 0x1D => decVF3 w .vdiv
  | 0x1E => decVF2 w .vsqrt
  | 0x20 => decVI3 w .vshl
  | 0x21 => decVI3 w .vshr
  | 0x22 => decVI3 w .vsra
  | 0x23 => decVW3 w .vand
  | 0x24 => decVW3 w .vor
  | 0x25 => decVW3 w .vxor
  | 0x26 => decVW3 w .vsel
  | 0x27 => needZero (fVa w) (withType (widthOf (fTy w)) fun t => .ok (.vmov t (fVd w) (fVb w) (fMk w) (fPat w)))
  | 0x28 => needZero (fVb w) (needZero (fPat w) (withType (widthOf (fTy w)) fun t => .ok (.vbc t (fVd w) (fVa w) (fMk w))))
  | 0x29 => needZero (fMk w) (withType (widthOf (fTy w)) fun t => .ok (.vext t (fVd w) (fVb w) (fVa w) (fPat w)))
  | 0x2A => needZero (fPat w) (withType (widthOf (fTy w)) fun t => .ok (.vins t (fVd w) (fVa w) (fVb w) (fMk w)))
  | 0x2B => withType (widthOf (fTy w)) fun t => if t = .w32 then .error (.reserved .type) else .ok (.vpack t (fVd w) (fVa w) (fVb w) (fMk w) (fPat w))
  | 0x2C => withType (widthOf (fTy w)) fun t => if t = .w8 then .error (.reserved .type) else .ok (.vunpk t (fVd w) (fVb w) (fVa w) (fMk w) (fPat w))
  | 0x2D => needZero (fVa w) (needZero (fMk w) (withType (widthOf (fTy w)) fun t => .ok (.vstq t (fVd w) (fVb w) (fPat w))))
  | 0x2E => decVcvt w
  | 0x2F => needZero (fPat w) (needZero ((fVb w).extractLsb' 2 3) (withType (qfmtOf (fTy w)) fun t => withType (ftypeOf ((fVb w).extractLsb' 0 2)) fun f => .ok (.vquant t f (fVd w) (fVa w) (fMk w))))
  | 0x30 => needZero (fPat w) (needZero ((fVb w).extractLsb' 2 3) (withType (ftypeOf (fTy w)) fun t => .ok (.vdeq t (dfmtOf ((fVb w).extractLsb' 0 2)) (fVd w) (fVa w) (fMk w))))
  | 0x31 => needZero (fVd w) (withType (ftypeOf (fTy w)) fun t => .ok (.vamax t (fVa w) (fVb w) (fMk w) (fPat w)))
  | 0x32 => withType (ftypeOf (fTy w)) fun t => .ok (.vfn t (fVa w) (fVd w) (fVb w) (fMk w) (fPat w))
  | 0x33 => withType (ftypeOf (fTy w)) fun t => .ok (.vlut t (fVa w) (fVd w) (fVb w) (fMk w) (fPat w))
  | 0x38 => decMask w (needM (fVd w) fun d => needM (fVa w) fun a => needM (fVb w) fun b => .ok (.mand d a b))
  | 0x39 => decMask w (needM (fVd w) fun d => needM (fVa w) fun a => needM (fVb w) fun b => .ok (.mor d a b))
  | 0x3A => decMask w (needM (fVd w) fun d => needM (fVa w) fun a => needM (fVb w) fun b => .ok (.mxor d a b))
  | 0x3B => decMask w (needZero (fVb w) (needM (fVd w) fun d => needM (fVa w) fun a => .ok (.mnot d a)))
  | 0x3C => decMask w (needZero (fVb w) (needM (fVa w) fun a => .ok (.mpopc (fVd w) a)))
  | 0x3D => decMask w (needZero (fVb w) (needM (fVd w) fun d => .ok (.mfrom d (fVa w))))
  | 0x3E => decMask w (needZero (fVb w) (needM (fVa w) fun a => .ok (.mto (fVd w) a)))
  | _ => .error (.reserved .operation)

/-- The instruction of a word, or why it has none (R73, R77, R91). -/
def decode (w : IWord) : Decoded :=
  match (fOp w).toNat with
  | 0x00 => decAlu w
  | 0x01 => decI w .addi
  | 0x02 => decI w .andi
  | 0x03 => decI w .ori
  | 0x04 => decI w .xori
  | 0x05 => decI w .slti
  | 0x06 => decI w .sltiu
  | 0x07 => needZero (fA w) (.ok (.lih (fD w) (fImm w)))
  | 0x08 => decI w .slli
  | 0x09 => decI w .srli
  | 0x0A => decI w .srai
  | 0x0B => decI w .rori
  | 0x0C => decI w .beq
  | 0x0D => decI w .bne
  | 0x0E => decI w .blt
  | 0x0F => decI w .bge
  | 0x10 => decI w .bltu
  | 0x11 => decI w .bgeu
  | 0x12 => .ok (.jal (fJ w))
  | 0x13 => decI w .jalr
  | 0x14 => needZero (fD w) (needZero (fB w) (.ok (.loop (fA w) (fBody w))))
  | 0x15 => .ok (.loopi (fCount w) (fBody w))
  | 0x16 => decI w .ldb
  | 0x17 => decI w .ldbu
  | 0x18 => decI w .ldh
  | 0x19 => decI w .ldhu
  | 0x1A => decI w .ldw
  | 0x1B => decI w .ldwu
  | 0x1C => decI w .ldd
  | 0x1D => decI w .stb
  | 0x1E => decI w .sth
  | 0x1F => decI w .stw
  | 0x20 => decI w .std
  | 0x21 => decI w .ldv
  | 0x22 => decI w .stv
  | 0x23 => decLocal w
  | 0x24 => decFloat w
  | 0x25 => decSys w
  | 0x26 => decControl w
  | 0x27 => decMsg w
  | 0x28 => decShared w
  | 0x29 => decEngine w
  | 0x2A => decVbci w
  | 0x2B => decVbci w
  | 0x2C | 0x2D | 0x2E | 0x2F => .error (.reserved .major)
  | _ => decVector w

/-- The word that four bytes hold, the byte at the lowest address in bits [7:0] (R1). -/
def wordOfBytes (b0 b1 b2 b3 : Byte) : IWord := b3 ++ b2 ++ b1 ++ b0

/-- The instruction at the head of a list of bytes, and the bytes after it. -/
def decodeBytes : List Byte → Except Reject (Instr × List Byte)
  | b0 :: b1 :: b2 :: b3 :: rest => (decode (wordOfBytes b0 b1 b2 b3)).map fun i => (i, rest)
  | _ => .error .truncated

/-- The bytes of a word as the code image stores it (R1). -/
def bytesOfWord (w : IWord) : List Byte :=
  [w.extractLsb' 0 8, w.extractLsb' 8 8, w.extractLsb' 16 8, w.extractLsb' 24 8]

/-- The instruction the decoder reads from an instruction whose bits are `w`, numbered as the opcode table numbers
them; every Nipor instruction is one 32-bit word (R73). -/
def decodeTableWord (nbits w : Nat) : Option Instr :=
  match decodeBytes (bytesOfWord (BitVec.ofNat 32 (w % 2 ^ nbits))) with
  | .ok (i, _) => some i
  | .error _ => none

/-! The forms of R75 and R87, field by field from the most significant bit. -/
def formA (op : BitVec 6) (d a b opt : BitVec 5) (fn : BitVec 6) : IWord := op ++ d ++ a ++ b ++ opt ++ fn
def formI (op : BitVec 6) (d a : BitVec 5) (imm : BitVec 16) : IWord := op ++ d ++ a ++ imm
def formJ (op : BitVec 6) (imm : BitVec 26) : IWord := op ++ imm
def formL (op : BitVec 6) (c : BitVec 15) (body : BitVec 11) : IWord := op ++ c ++ body
def formV (vop : BitVec 6) (ty : BitVec 2) (vd va vb : BitVec 5) (mk : BitVec 3) (pat : BitVec 4) : IWord :=
  3#2 ++ vop ++ ty ++ vd ++ va ++ vb ++ mk ++ pat
/-- The vector-word field of an m register. -/
def mfield (m : MReg) : BitVec 5 := 0#2 ++ m

/-- The word of an instruction; an event of the module has no word. -/
def encode : Instr → Option IWord
  | .add d a b => some (formA 0 d a b 0 0x00)
  | .sub d a b => some (formA 0 d a b 0 0x01)
  | .and d a b => some (formA 0 d a b 0 0x02)
  | .or d a b => some (formA 0 d a b 0 0x03)
  | .xor d a b => some (formA 0 d a b 0 0x04)
  | .andn d a b => some (formA 0 d a b 0 0x05)
  | .orn d a b => some (formA 0 d a b 0 0x06)
  | .sll d a b => some (formA 0 d a b 0 0x08)
  | .srl d a b => some (formA 0 d a b 0 0x09)
  | .sra d a b => some (formA 0 d a b 0 0x0A)
  | .rol d a b => some (formA 0 d a b 0 0x0B)
  | .ror d a b => some (formA 0 d a b 0 0x0C)
  | .mul d a b => some (formA 0 d a b 0 0x10)
  | .mulh d a b => some (formA 0 d a b 0 0x11)
  | .mulhu d a b => some (formA 0 d a b 0 0x12)
  | .div d a b => some (formA 0 d a b 0 0x14)
  | .divu d a b => some (formA 0 d a b 0 0x15)
  | .rem d a b => some (formA 0 d a b 0 0x16)
  | .remu d a b => some (formA 0 d a b 0 0x17)
  | .min d a b => some (formA 0 d a b 0 0x18)
  | .max d a b => some (formA 0 d a b 0 0x19)
  | .minu d a b => some (formA 0 d a b 0 0x1A)
  | .maxu d a b => some (formA 0 d a b 0 0x1B)
  | .slt d a b => some (formA 0 d a b 0 0x1C)
  | .sltu d a b => some (formA 0 d a b 0 0x1D)
  | .seq d a b => some (formA 0 d a b 0 0x1E)
  | .sne d a b => some (formA 0 d a b 0 0x1F)
  | .movz d a b => some (formA 0 d a b 0 0x20)
  | .movnz d a b => some (formA 0 d a b 0 0x21)
  | .clz d a => some (formA 0 d a 0 0 0x28)
  | .ctz d a => some (formA 0 d a 0 0 0x29)
  | .popc d a => some (formA 0 d a 0 0 0x2A)
  | .brev d a => some (formA 0 d a 0 0 0x2B)
  | .bswap d a => some (formA 0 d a 0 0 0x2C)
  | .sxb d a => some (formA 0 d a 0 0 0x2D)
  | .sxh d a => some (formA 0 d a 0 0 0x2E)
  | .sxw d a => some (formA 0 d a 0 0 0x2F)
  | .zxw d a => some (formA 0 d a 0 0 0x30)
  | .addi d a i => some (formI 0x01 d a i)
  | .andi d a i => some (formI 0x02 d a i)
  | .ori d a i => some (formI 0x03 d a i)
  | .xori d a i => some (formI 0x04 d a i)
  | .slti d a i => some (formI 0x05 d a i)
  | .sltiu d a i => some (formI 0x06 d a i)
  | .slli d a i => some (formI 0x08 d a i)
  | .srli d a i => some (formI 0x09 d a i)
  | .srai d a i => some (formI 0x0A d a i)
  | .rori d a i => some (formI 0x0B d a i)
  | .beq d a i => some (formI 0x0C d a i)
  | .bne d a i => some (formI 0x0D d a i)
  | .blt d a i => some (formI 0x0E d a i)
  | .bge d a i => some (formI 0x0F d a i)
  | .bltu d a i => some (formI 0x10 d a i)
  | .bgeu d a i => some (formI 0x11 d a i)
  | .jalr d a i => some (formI 0x13 d a i)
  | .ldb d a i => some (formI 0x16 d a i)
  | .ldbu d a i => some (formI 0x17 d a i)
  | .ldh d a i => some (formI 0x18 d a i)
  | .ldhu d a i => some (formI 0x19 d a i)
  | .ldw d a i => some (formI 0x1A d a i)
  | .ldwu d a i => some (formI 0x1B d a i)
  | .ldd d a i => some (formI 0x1C d a i)
  | .stb d a i => some (formI 0x1D d a i)
  | .sth d a i => some (formI 0x1E d a i)
  | .stw d a i => some (formI 0x1F d a i)
  | .std d a i => some (formI 0x20 d a i)
  | .ldv d a i => some (formI 0x21 d a i)
  | .stv d a i => some (formI 0x22 d a i)
  | .lih d i => some (formI 0x07 d 0 i)
  | .jal i => some (formJ 0x12 i)
  | .loop a y => some (formL 0x14 (0#5 ++ a ++ 0#5) y)
  | .loopi c y => some (formL 0x15 c y)
  | .ldvs t d a b => some (formA 0x23 d a b (0#3 ++ widthCode t) 0x00)
  | .stvs t d a b => some (formA 0x23 d a b (0#3 ++ widthCode t) 0x01)
  | .ldf d a => some (formA 0x23 d a 0 0 0x08)
  | .ldfk d a => some (formA 0x23 d a 0 0 0x09)
  | .tstf d a => some (formA 0x23 d a 0 0 0x0D)
  | .ste a b => some (formA 0x23 0 a b 0 0x0A)
  | .setf a => some (formA 0x23 0 a 0 0 0x0B)
  | .sete a => some (formA 0x23 0 a 0 0 0x0C)
  | .fadd t d a b => some (formA 0x24 d a b 0 (ftypeCode t ++ 0x0#4))
  | .fsub t d a b => some (formA 0x24 d a b 0 (ftypeCode t ++ 0x1#4))
  | .fmul t d a b => some (formA 0x24 d a b 0 (ftypeCode t ++ 0x2#4))
  | .fdiv t d a b => some (formA 0x24 d a b 0 (ftypeCode t ++ 0x4#4))
  | .fmin t d a b => some (formA 0x24 d a b 0 (ftypeCode t ++ 0x6#4))
  | .fmax t d a b => some (formA 0x24 d a b 0 (ftypeCode t ++ 0x7#4))
  | .feq t d a b => some (formA 0x24 d a b 0 (ftypeCode t ++ 0x8#4))
  | .flt t d a b => some (formA 0x24 d a b 0 (ftypeCode t ++ 0x9#4))
  | .fle t d a b => some (formA 0x24 d a b 0 (ftypeCode t ++ 0xA#4))
  | .ffma t d a b c => some (formA 0x24 d a b c (ftypeCode t ++ 0x3#4))
  | .fsqrt t d a => some (formA 0x24 d a 0 0 (ftypeCode t ++ 0x5#4))
  | .fclass t d a => some (formA 0x24 d a 0 0 (ftypeCode t ++ 0xB#4))
  | .fcvt k j d a => some (formI 0x24 d a (0#5 ++ fkindCode k ++ 0#1 ++ fkindCode j ++ 0xC#4))
  | .mfs d n => some (formI 0x25 d 0 (0#2 ++ 0#4 ++ 0#2 ++ n))
  | .mts a n => some (formI 0x25 0 a (1#2 ++ 0#4 ++ 0#2 ++ n))
  | .mfsp d s n => some (formI 0x25 d 0 (2#2 ++ 0#4 ++ s ++ n))
  | .mtsp a s n => some (formI 0x25 0 a (3#2 ++ 0#4 ++ s ++ n))
  | .endh => some (formA 0x26 0 0 0 0 0x00)
  | .yield => some (formA 0x26 0 0 0 0 0x01)
  | .wfe => some (formA 0x26 0 0 0 0 0x02)
  | .eret => some (formA 0x26 0 0 0 0 0x10)
  | .trap n => some (formA 0x26 0 0 n 0 0x08)
  | .kill a => some (formA 0x26 0 a 0 0 0x11)
  | .seal a => some (formA 0x26 0 a 0 0 0x12)
  | .unseal a => some (formA 0x26 0 a 0 0 0x13)
  | .anrun a => some (formA 0x26 0 a 0 0 0x16)
  | .sleepc a => some (formA 0x26 0 a 0 0 0x18)
  | .tlbw a b => some (formA 0x26 0 a b 0 0x14)
  | .ancfg a b => some (formA 0x26 0 a b 0 0x15)
  | .anread d a => some (formA 0x26 d a 0 0 0x17)
  | .send a b => some (formA 0x27 0 a b 0 0x00)
  | .reply a b => some (formA 0x27 0 a b 0 0x02)
  | .chopen a b => some (formA 0x27 0 a b 0 0x10)
  | .sendr d a b => some (formA 0x27 d a b 0 0x01)
  | .vput d a => some (formA 0x27 d a 0 0 0x04)
  | .vputr d a => some (formA 0x27 d a 0 0 0x05)
  | .qput d a => some (formA 0x27 d a 0 0 0x08)
  | .qget d a => some (formA 0x27 d a 0 0 0x09)
  | .qcnt d a => some (formA 0x27 d a 0 0 0x0B)
  | .lname d a => some (formA 0x27 d a 0 0 0x14)
  | .vhold d => some (formA 0x27 d 0 0 0 0x06)
  | .qflush d => some (formA 0x27 d 0 0 0 0x0A)
  | .pos d => some (formA 0x27 d 0 0 0 0x15)
  | .chclose a => some (formA 0x27 0 a 0 0 0x11)
  | .maskc a => some (formA 0x27 0 a 0 0 0x12)
  | .unmaskc a => some (formA 0x27 0 a 0 0 0x13)
  | .anchor => some (formA 0x27 0 0 0 0 0x16)
  | .unanch => some (formA 0x27 0 0 0 0 0x17)
  | .bar n => some (formA 0x27 0 0 0 n 0x18)
  | .bara n => some (formA 0x27 0 0 0 n 0x19)
  | .barw n => some (formA 0x27 0 0 0 n 0x1A)
  | .sld d a => some (formA 0x28 d a 0 0 0x00)
  | .sldv d a => some (formA 0x28 d a 0 0 0x02)
  | .sstv d a => some (formA 0x28 d a 0 0 0x03)
  | .lda d a => some (formA 0x28 d a 0 0 0x04)
  | .tlbprb d a => some (formA 0x28 d a 0 0 0x1A)
  | .sst m a b => some (formA 0x28 m a b 0 0x01)
  | .sstr m a b => some (formA 0x28 m a b 0 0x05)
  | .rel s => some (formA 0x28 0 0 0 (0#4 ++ scopeCode s) 0x06)
  | .acq a b => some (formA 0x28 0 a b 0 0x07)
  | .fence => some (formA 0x28 0 0 0 0 0x08)
  | .atomAdd o d a b => some (formA 0x28 d a b (ordCode o ++ 0#3) 0x10)
  | .atomMin o d a b => some (formA 0x28 d a b (ordCode o ++ 1#3) 0x10)
  | .atomMax o d a b => some (formA 0x28 d a b (ordCode o ++ 2#3) 0x10)
  | .atomAnd o d a b => some (formA 0x28 d a b (ordCode o ++ 3#3) 0x10)
  | .atomOr o d a b => some (formA 0x28 d a b (ordCode o ++ 4#3) 0x10)
  | .atomXor o d a b => some (formA 0x28 d a b (ordCode o ++ 5#3) 0x10)
  | .atomSwap o d a b => some (formA 0x28 d a b (ordCode o ++ 6#3) 0x10)
  | .atomCas o d a b => some (formA 0x28 d a b (ordCode o ++ 7#3) 0x10)
  | .tlblk a => some (formA 0x28 0 a 0 0 0x18)
  | .tlbul a => some (formA 0x28 0 a 0 0 0x19)
  | .mstep wf r d a b => some (formA 0x29 d a b (boolCode wf ++ rowsCode r ++ 0#2) 0x00)
  | .mcommit d => some (formA 0x29 d 0 0 0 0x01)
  | .jwait a => some (formA 0x29 0 a 0 0 0x02)
  | .jpoll d a => some (formA 0x29 d a 0 0 0x03)
  | .tcfg t => some (formA 0x29 0 0 0 (0#3 ++ accCode t) 0x04)
  | .trel => some (formA 0x29 0 0 0 0 0x05)
  | .tzero a => some (formA 0x29 0 a 0 0 0x06)
  | .dtload a => some (formA 0x29 0 a 0 0 0x07)
  | .ampush n => some (formA 0x29 0 0 0 (0#3 ++ n) 0x08)
  | .amscale f d n => some (formA 0x29 d 0 0 (0#1 ++ qfmtCode f ++ n) 0x09)
  | .cpy d a b => some (formA 0x29 d a b 0 0x0A)
  | .cpy2 d a b => some (formA 0x29 d a b 0 0x0B)
  | .coll d a b => some (formA 0x29 d a b 0 0x0C)
  | .vbci t d m i => some (formI (0x15#5 ++ (btypeCode t).extractLsb' 2 1) d (m ++ (btypeCode t).extractLsb' 0 2) i)
  | .vaddF t d a b m p => some (formV 0x00 (ftypeCode t) d a b m p)
  | .vaddI t d a b m p => some (formV 0x01 (itypeCode t) d a b m p)
  | .vsubF t d a b m p => some (formV 0x02 (ftypeCode t) d a b m p)
  | .vsubI t d a b m p => some (formV 0x03 (itypeCode t) d a b m p)
  | .vmulF t d a b m p => some (formV 0x04 (ftypeCode t) d a b m p)
  | .vmulI t d a b m p => some (formV 0x05 (itypeCode t) d a b m p)
  | .vminF t d a b m p => some (formV 0x06 (ftypeCode t) d a b m p)
  | .vminI t d a b m p => some (formV 0x07 (itypeCode t) d a b m p)
  | .vmaxF t d a b m p => some (formV 0x08 (ftypeCode t) d a b m p)
  | .vmaxI t d a b m p => some (formV 0x09 (itypeCode t) d a b m p)
  | .vabsF t d b m p => some (formV 0x0A (ftypeCode t) d 0 b m p)
  | .vabsI t d b m p => some (formV 0x0B (itypeCode t) d 0 b m p)
  | .vnegF t d b m p => some (formV 0x0C (ftypeCode t) d 0 b m p)
  | .vnegI t d b m p => some (formV 0x0D (itypeCode t) d 0 b m p)
  | .vrsumF t d b m p => some (formV 0x14 (ftypeCode t) d 0 b m p)
  | .vrsumI t d b m p => some (formV 0x15 (itypeCode t) d 0 b m p)
  | .vrmaxF t d b m p => some (formV 0x16 (ftypeCode t) d 0 b m p)
  | .vrmaxI t d b m p => some (formV 0x17 (itypeCode t) d 0 b m p)
  | .vrminF t d b m p => some (formV 0x18 (ftypeCode t) d 0 b m p)
  | .vrminI t d b m p => some (formV 0x19 (itypeCode t) d 0 b m p)
  | .vceqF t d a b m p => some (formV 0x0E (ftypeCode t) (mfield d) a b m p)
  | .vceqI t d a b m p => some (formV 0x0F (itypeCode t) (mfield d) a b m p)
  | .vcltF t d a b m p => some (formV 0x10 (ftypeCode t) (mfield d) a b m p)
  | .vcltI t d a b m p => some (formV 0x11 (itypeCode t) (mfield d) a b m p)
  | .vcleF t d a b m p => some (formV 0x12 (ftypeCode t) (mfield d) a b m p)
  | .vcleI t d a b m p => some (formV 0x13 (itypeCode t) (mfield d) a b m p)
  | .vfma t d a b m p => some (formV 0x1A (ftypeCode t) d a b m p)
  | .vfms t d a b m p => some (formV 0x1B (ftypeCode t) d a b m p)
  | .vfnma t d a b m p => some (formV 0x1C (ftypeCode t) d a b m p)
  | .vdiv t d a b m p => some (formV 0x1D (ftypeCode t) d a b m p)
  | .vsqrt t d b m p => some (formV 0x1E (ftypeCode t) d 0 b m p)
  | .vshl t d a b m p => some (formV 0x20 (itypeCode t) d a b m p)
  | .vshr t d a b m p => some (formV 0x21 (itypeCode t) d a b m p)
  | .vsra t d a b m p => some (formV 0x22 (itypeCode t) d a b m p)
  | .vand t d a b m p => some (formV 0x23 (widthCode t) d a b m p)
  | .vor t d a b m p => some (formV 0x24 (widthCode t) d a b m p)
  | .vxor t d a b m p => some (formV 0x25 (widthCode t) d a b m p)
  | .vsel t d a b m p => some (formV 0x26 (widthCode t) d a b m p)
  | .vmov t d b m p => some (formV 0x27 (widthCode t) d 0 b m p)
  | .vbc t d a m => some (formV 0x28 (widthCode t) d a 0 m 0)
  | .vext t d b a p => some (formV 0x29 (widthCode t) d a b 0 p)
  | .vins t d a b m => some (formV 0x2A (widthCode t) d a b m 0)
  | .vpack t d a b m p => some (formV 0x2B (widthCode t) d a b m p)
  | .vunpk t d b h m p => some (formV 0x2C (widthCode t) d h b m p)
  | .vstq t q b p => some (formV 0x2D (widthCode t) q 0 b 0 p)
  | .vcvt t f d a m => some (formV 0x2E 0 d a (0#1 ++ vtypeCode f) m (vtypeCode t))
  | .vquant t f d a m => some (formV 0x2F (qfmtCode t) d a (0#3 ++ ftypeCode f) m 0)
  | .vdeq t f d a m => some (formV 0x30 (ftypeCode t) d a (0#3 ++ dfmtCode f) m 0)
  | .vamax t n b m p => some (formV 0x31 (ftypeCode t) 0 n b m p)
  | .vfn t f d b m p => some (formV 0x32 (ftypeCode t) d f b m p)
  | .vlut t n d b m p => some (formV 0x33 (ftypeCode t) d n b m p)
  | .mand d a b => some (formV 0x38 0 (mfield d) (mfield a) (mfield b) 0 0)
  | .mor d a b => some (formV 0x39 0 (mfield d) (mfield a) (mfield b) 0 0)
  | .mxor d a b => some (formV 0x3A 0 (mfield d) (mfield a) (mfield b) 0 0)
  | .mnot d a => some (formV 0x3B 0 (mfield d) (mfield a) 0 0 0)
  | .mpopc d a => some (formV 0x3C 0 d (mfield a) 0 0 0)
  | .mfrom d a => some (formV 0x3D 0 (mfield d) a 0 0 0)
  | .mto d a => some (formV 0x3E 0 d (mfield a) 0 0 0)
  | .noticeResend _ _ _ _ => none
  | .moduleReset => none
  | .kernelReplacement _ => none
  | .hotPatch _ _ _ => none
  | .partitionConfig _ _ => none
  | .notifyWrite _ _ => none
  | .apertureWake _ => none
  | .launchPacket _ => none
  | .hostBar2Access _ _ _ => none
  | .admission _ => none
  | .oversubscriptionPark _ => none
  | .placeUnplaced _ => none
  | .handlerStart _ => none
  | .injection _ => none
  | .streamInjection _ => none
  | .messageArrival _ => none
  | .reinjection _ => none
  | .acceptanceArrival _ => none
  | .noticeArrival _ => none
  | .noticeWrite _ => none
  | .replyArrival _ => none
  | .registerWriteArrival _ => none
  | .deferredFill _ => none
  | .streamArrival _ => none
  | .creditReturn _ => none
  | .nameCacheUpdate _ => none
  | .directoryArrival _ => none
  | .directoryUpdate _ => none
  | .sumpArrival _ => none
  | .sweepStart => none
  | .sweepResult _ => none
  | .roundInstant => none
  | .weightUpdateArrival _ => none
  | .phaseStart => none
  | .pairDecision _ => none
  | .swapFreezeEnd => none
  | .swapDrainEnd => none
  | .swapInstall => none
  | .swapResume => none
  | .swapAbort => none
  | .positionUpdateArrival _ => none
  | .forwardPointerExpiry _ => none
  | .roundEnd => none
  | .commitEnd => none
  | .tlbMissReply => none
  | .loadReply _ => none
  | .viewCacheFill _ => none
  | .logPumpSend => none
  | .recordApply _ => none
  | .recordAck _ => none
  | .egressAck _ => none
  | .logRefill => none
  | .atomicExecute _ => none
  | .atomicReturn _ => none
  | .jobStart _ => none
  | .jobComplete _ => none
  | .copyWordWrite => none
  | .collChildArrival _ => none
  | .trapActivationStart => none
  | .asyncErrorReturn _ => none
  | .groupKill _ _ => none
  | .sealConfirmation _ => none
  | .killRestart _ => none
  | .twinHashArrival _ => none
  | .twinHashTimeout => none
  | .correctedError => none
  | .uncorrectableError _ _ => none
  | .flitCrcRetry => none
  | .headerCheckStomp _ => none
  | .preemptionRequest _ => none
  | .preemptionStart => none
  | .resumption _ _ => none
  | .sliceInstant => none
  | .sliceChange => none
  | .ptpMessage _ => none
  | .sleepcWake => none
  | .fabricFlitArrival _ _ => none
  | .fabricEmptyFlit _ => none
  | .fabricLinkFailed _ => none
  | .fabricUnreachable _ => none
  | .podCollectivePacket _ => none
  | .chunkArrival _ => none
  | .chunkAck _ => none
  | .edgeSilenceTimeout _ => none
  | .slackMeasurement _ _ => none
  | .evacuationTimeout => none
  | .counterSnapshot => none
  | .cntTailWrite _ => none
  | .counterRegisterWrite _ _ => none
  | .reservedInstruction _ => none
  | .instructionAddressTrap => none
  | .barrierCompletion _ => none
  | .launchQueueCreate _ _ _ _ => none
  | .gangScheduleWrite _ _ _ => none
  | .apertureGate _ => none

end Sys2Proof
end

