-- ==== Sys2Proof/Machine/Flags.lean ====
section
/-! DEFINITION. Number formats, rounding and the FCSR flags (spec 03): a floating value is unpacked into an exact
dyadic number, an operation computes exactly, and one rounding delivers the result with its flags. Bit patterns are
natural numbers here; the operand forms narrow them to lanes and registers. -/

namespace Sys2Proof.Machine

/-- A set of FCSR flags, NV, DZ, OF, UF, NX from bit 4 down (R27). -/
abbrev Flags := BitVec 5
def Flags.none : Flags := 0
def Flags.nv : Flags := 0b10000
def Flags.dz : Flags := 0b01000
def Flags.of : Flags := 0b00100
def Flags.uf : Flags := 0b00010
def Flags.nx : Flags := 0b00001

/-- The rounding modes of FCSR.RM (R27); the reserved codes are never held (R118). -/
inductive RMode | rne | rtz | rdn | rup | rna
  deriving DecidableEq, Repr

def RMode.ofBits (b : BitVec 3) : RMode :=
  match b.toNat with | 1 => .rtz | 2 => .rdn | 3 => .rup | 4 => .rna | _ => .rne

/-- The formats of R32. -/
inductive Fmt | f32 | f16 | b16 | e5 | e4 | d19
  deriving DecidableEq, Repr

def Fmt.expBits : Fmt → Nat | .f32 => 8 | .f16 => 5 | .b16 => 8 | .e5 => 5 | .e4 => 4 | .d19 => 8
def Fmt.fracBits : Fmt → Nat | .f32 => 23 | .f16 => 10 | .b16 => 7 | .e5 => 2 | .e4 => 3 | .d19 => 10
def Fmt.bias : Fmt → Nat | .f32 => 127 | .f16 => 15 | .b16 => 127 | .e5 => 15 | .e4 => 7 | .d19 => 127
/-- The position of the sign bit. -/
def Fmt.signBit (F : Fmt) : Nat := F.expBits + F.fracBits
/-- The precision p. -/
def Fmt.prec (F : Fmt) : Nat := F.fracBits + 1
/-- The exponent of the smallest normal value, emin = 1 - bias. -/
def Fmt.emin (F : Fmt) : Int := 1 - (F.bias : Int)
/-- The code of the largest finite magnitude (R32). -/
def Fmt.maxCode : Fmt → Nat
  | .f32 => 0x7F7FFFFF | .f16 => 0x7BFF | .b16 => 0x7F7F | .e5 => 0x7B | .e4 => 0x7E | .d19 => 0x3FBFF
/-- The code of +infinity; E4M3 has none, and its NaN code stands here (R33, R34, R46). -/
def Fmt.infCode : Fmt → Nat
  | .f32 => 0x7F800000 | .f16 => 0x7C00 | .b16 => 0x7F80 | .e5 => 0x7C | .e4 => 0x7F | .d19 => 0x3FC00
/-- The canonical NaN (R33). -/
def Fmt.nanCode : Fmt → Nat
  | .f32 => 0x7FC00000 | .f16 => 0x7E00 | .b16 => 0x7FC0 | .e5 => 0x7E | .e4 => 0x7F | .d19 => 0x3FE00

/-- An unpacked value: a NaN (signalling or quiet), an infinity, or sign, magnitude and exponent of m * 2^e. -/
inductive FVal
  | nan (signalling : Bool)
  | inf (neg : Bool)
  | num (neg : Bool) (m : Nat) (e : Int)
  deriving DecidableEq, Repr

/-- The value of a bit pattern (R32 to R34, R40). -/
def Fmt.unpack (F : Fmt) (bits : Nat) : FVal :=
  let neg := bits.testBit F.signBit
  let ex := bits / 2 ^ F.fracBits % 2 ^ F.expBits
  let fr := bits % 2 ^ F.fracBits
  let top := 2 ^ F.expBits - 1
  if F = .e4 then
    if ex = top ∧ fr = 7 then .nan false
    else if ex = 0 then .num neg fr (F.emin - 3)
    else .num neg (fr + 8) ((ex : Int) - F.bias - 3)
  else if ex = top then
    if fr = 0 then .inf neg else .nan (!fr.testBit (F.fracBits - 1))
  else if ex = 0 then .num neg fr (F.emin - F.fracBits)
  else .num neg (fr + 2 ^ F.fracBits) ((ex : Int) - F.bias - F.fracBits)

def FVal.isNan : FVal → Bool | .nan _ => true | _ => false
def FVal.isSnan : FVal → Bool | .nan s => s | _ => false
def FVal.isZero : FVal → Bool | .num _ m _ => m == 0 | _ => false
def FVal.neg : FVal → Bool | .nan _ => false | .inf n => n | .num n _ _ => n
def FVal.negate : FVal → FVal | .nan s => .nan s | .inf n => .inf !n | .num n m e => .num (!n) m e
def FVal.abs : FVal → FVal | .nan s => .nan s | .inf _ => .inf false | .num _ m e => .num false m e

/-- A result and the flags it raises. -/
structure FRes where
  bits : Nat
  flags : Flags
  deriving DecidableEq, Repr

/-- The sign bit of a code. -/
def Fmt.signOf (F : Fmt) (neg : Bool) : Nat := if neg then 2 ^ F.signBit else 0

/-- The code of sig * 2^qe with sig at most 2^p, whose spacing is that of the format (R32). -/
def Fmt.packMag (F : Fmt) (sig : Nat) (qe : Int) : Nat :=
  if sig < 2 ^ F.fracBits then sig
  else if sig < 2 ^ F.prec then (qe + F.bias + F.fracBits).toNat * 2 ^ F.fracBits + (sig - 2 ^ F.fracBits)
  else (qe + 1 + F.bias + F.fracBits).toNat * 2 ^ F.fracBits

/-- Does the rounding take the neighbour farther from zero? `half` compares the discarded part with one half. -/
def roundsUp (rm : RMode) (neg odd exact : Bool) (half : Ordering) : Bool :=
  if exact then false
  else match rm with
    | .rtz => false
    | .rdn => neg
    | .rup => !neg
    | .rne => half = .gt || (half = .eq && odd)
    | .rna => half ≠ .lt

/-- What the rounding of R37 does before the overflow test: the significand, the exponent of its unit, and whether the
result is exact. The magnitude is m * 2^e, plus a part below one unit of m when `sticky` holds. -/
def roundMag (F : Fmt) (rm : RMode) (neg : Bool) (m : Nat) (e : Int) (sticky : Bool) : Nat × Int × Bool :=
  let e0 : Int := (Nat.log2 m : Int) + e
  let ex := if m = 0 then F.emin else max e0 F.emin
  let qe := ex - F.fracBits
  let shift := qe - e
  if shift ≤ 0 then
    let lo := m * 2 ^ (-shift).toNat
    let up := roundsUp rm neg (lo % 2 = 1) (!sticky) .lt
    (if up then lo + 1 else lo, qe, !sticky)
  else
    let s := 2 ^ shift.toNat
    let lo := m / s
    let rem := m % s
    let exact := rem = 0 ∧ ¬ sticky
    let half := if 2 * rem = s then (if sticky then Ordering.gt else .eq) else compare (2 * rem) s
    let up := roundsUp rm neg (lo % 2 = 1) exact half
    (if up then lo + 1 else lo, qe, exact)

/-- The overflow results of R37 for formats with an infinity. -/
def Fmt.overflow (F : Fmt) (rm : RMode) (neg : Bool) : Nat :=
  let toInf := match rm with | .rne | .rna => true | .rtz => false | .rdn => neg | .rup => !neg
  F.signOf neg + (if toInf then F.infCode else F.maxCode)

/-- How FP8 overflow is delivered: as R37's table, or saturated (R46). -/
def Fmt.overflowSat (F : Fmt) (satf8 : Bool) (rm : RMode) (neg : Bool) : Nat :=
  match F with
  | .e4 => F.signOf neg + F.maxCode
  | .e5 => if satf8 then F.signOf neg + F.maxCode else F.overflow rm neg
  | _ => F.overflow rm neg

/-- Round (R37) of a nonzero or zero magnitude, with the flags of R39. -/
def Fmt.round (F : Fmt) (satf8 : Bool) (rm : RMode) (neg : Bool) (m : Nat) (e : Int) (sticky : Bool) : FRes :=
  if m = 0 ∧ ¬ sticky then ⟨F.signOf neg, Flags.none⟩
  else
    let (sig, qe, exact) := roundMag F rm neg m e sticky
    let code := F.packMag sig qe
    if F.maxCode < code then ⟨F.overflowSat satf8 rm neg, Flags.of ||| Flags.nx⟩
    else
      let tiny := code < 2 ^ F.fracBits
      ⟨F.signOf neg + code,
        if exact then Flags.none else if tiny then Flags.uf ||| Flags.nx else Flags.nx⟩

def Fmt.nan (F : Fmt) (flags : Flags) : FRes := ⟨F.nanCode, flags⟩
def Fmt.inf (F : Fmt) (neg : Bool) : FRes := ⟨F.signOf neg + F.infCode, Flags.none⟩
def nvIf (b : Bool) : Flags := if b then Flags.nv else Flags.none

/-- m * 2^(e - low) as a signed integer, for low at most e. -/
def scaled (neg : Bool) (m : Nat) (e low : Int) : Int :=
  let v : Int := (m * 2 ^ (e - low).toNat : Nat)
  if neg then -v else v

/-- The sign of an exact zero sum (R42). -/
def zeroSumSign (rm : RMode) (n1 n2 : Bool) : Bool := if n1 = n2 then n1 else rm = .rdn

/-- a * b + c, computed exactly and rounded once (R39, R41, R42, R44). -/
def Fmt.fma (F : Fmt) (rm : RMode) (a b c : FVal) : FRes :=
  let invalidProduct := (a.isZero && (match b with | .inf _ => true | _ => false)) ||
    (b.isZero && (match a with | .inf _ => true | _ => false))
  let snan := a.isSnan || b.isSnan || c.isSnan
  if invalidProduct then F.nan Flags.nv
  else if a.isNan || b.isNan || c.isNan then F.nan (nvIf snan)
  else
    let pn := a.neg != b.neg
    match a, b, c with
    | .num _ ma ea, .num _ mb eb, .num nc mc ec =>
      let mp := ma * mb
      let ep := ea + eb
      let low := min ep ec
      let s := scaled pn mp ep low + scaled nc mc ec low
      if s = 0 then
        let n := if mp = 0 ∧ mc = 0 then zeroSumSign rm pn nc else decide (rm = .rdn)
        ⟨F.signOf n, Flags.none⟩
      else F.round true rm (s < 0) s.natAbs low false
    | .num .., .num .., .inf n => F.inf n
    | _, _, .inf n => if n = pn then F.inf n else F.nan Flags.nv
    | _, _, _ => F.inf pn

/-- The value one. -/
def FVal.one : FVal := .num false 1 0

def Fmt.add (F : Fmt) (rm : RMode) (a b : FVal) : FRes := F.fma rm a .one b
def Fmt.sub (F : Fmt) (rm : RMode) (a b : FVal) : FRes := F.fma rm a .one b.negate

def Fmt.mul (F : Fmt) (rm : RMode) (a b : FVal) : FRes :=
  if a.isNan || b.isNan then F.nan (nvIf (a.isSnan || b.isSnan))
  else
    let n := a.neg != b.neg
    match a, b with
    | .num _ ma ea, .num _ mb eb => F.round true rm n (ma * mb) (ea + eb) false
    | _, _ => if a.isZero || b.isZero then F.nan Flags.nv else F.inf n

def Fmt.div (F : Fmt) (rm : RMode) (a b : FVal) : FRes :=
  if a.isNan || b.isNan then F.nan (nvIf (a.isSnan || b.isSnan))
  else
    let n := a.neg != b.neg
    match a, b with
    | .num _ ma ea, .num _ mb eb =>
      if mb = 0 then (if ma = 0 then F.nan Flags.nv else ⟨F.signOf n + F.infCode, Flags.dz⟩)
      else
        let k := F.prec + 3 + Nat.log2 mb
        let num := ma * 2 ^ k
        F.round true rm n (num / mb) (ea - eb - k) (num % mb ≠ 0)
    | .num .., _ => ⟨F.signOf n, Flags.none⟩
    | _, .num .. => F.inf n
    | _, _ => F.nan Flags.nv

/-- The integer square root, bit by bit from bit `k` down. -/
def isqrtAux (n : Nat) : Nat → Nat → Nat
  | 0, r => r
  | k + 1, r =>
    let r' := r + 2 ^ k
    isqrtAux n k (if r' * r' ≤ n then r' else r)
def isqrt (n : Nat) : Nat := isqrtAux n (Nat.log2 n / 2 + 1) 0

def Fmt.sqrt (F : Fmt) (rm : RMode) (a : FVal) : FRes :=
  match a with
  | .nan s => F.nan (nvIf s)
  | .inf n => if n then F.nan Flags.nv else F.inf false
  | .num n m e =>
    if m = 0 then ⟨F.signOf n, Flags.none⟩
    else if n then F.nan Flags.nv
    else
      let k := 2 * (F.prec + 4)
      let k := if (e - k) % 2 = 0 then k else k + 1
      let v := m * 2 ^ k
      let r := isqrt v
      F.round true rm false r ((e - k) / 2) (r * r ≠ v)

/-- Exact comparison of two numbers, none of them a NaN. -/
def FVal.cmp : FVal → FVal → Ordering
  | .num na ma ea, .num nb mb eb =>
    let low := min ea eb
    compare (scaled na ma ea low) (scaled nb mb eb low)
  | .inf n, .inf n' => if n = n' then .eq else if n then .lt else .gt
  | .inf n, _ => if n then .lt else .gt
  | _, .inf n => if n then .gt else .lt
  | _, _ => .eq

/-- FMIN and FMAX (R43) on bit patterns: -0 counts as less than +0. -/
def Fmt.minMax (F : Fmt) (isMax : Bool) (x y : Nat) : FRes :=
  let a := F.unpack x
  let b := F.unpack y
  let fl := nvIf (a.isSnan || b.isSnan)
  if a.isNan then (if b.isNan then F.nan fl else ⟨y, fl⟩)
  else if b.isNan then ⟨x, fl⟩
  else
    let less := match a.cmp b with | .lt => true | .gt => false | .eq => a.neg && !b.neg
    ⟨if less != isMax then x else y, fl⟩

/-- The compares of R43. -/
inductive FCmp | eq | lt | le
  deriving DecidableEq, Repr
def Fmt.compare (F : Fmt) (op : FCmp) (x y : Nat) : Bool × Flags :=
  let a := F.unpack x
  let b := F.unpack y
  if a.isNan || b.isNan then
    (false, nvIf (match op with | .eq => a.isSnan || b.isSnan | _ => true))
  else
    (match op, a.cmp b with
      | .eq, .eq => true | .lt, .lt => true | .le, .lt => true | .le, .eq => true | _, _ => false, Flags.none)

/-- FCLASS (R116). -/
def Fmt.classBit (F : Fmt) (x : Nat) : Nat :=
  let subnormal := x / 2 ^ F.fracBits % 2 ^ F.expBits = 0
  match F.unpack x with
  | .nan s => if s then 8 else 9
  | .inf n => if n then 0 else 7
  | .num n m _ =>
    if m = 0 then (if n then 3 else 4)
    else if subnormal then (if n then 2 else 5) else (if n then 1 else 6)

/-- Conversion of a value to a floating format (R45, R46). -/
def Fmt.convert (F : Fmt) (satf8 : Bool) (rm : RMode) (x : FVal) : FRes :=
  match x with
  | .nan s => F.nan (nvIf s)
  | .inf n =>
    match F with
    | .e4 => if satf8 then ⟨F.signOf n + F.maxCode, Flags.of ||| Flags.nx⟩ else F.nan Flags.nv
    | .e5 => if satf8 then ⟨F.signOf n + F.maxCode, Flags.of ||| Flags.nx⟩ else F.inf n
    | _ => F.inf n
  | .num n m e => F.round satf8 rm n m e false

/-- An integer as a value. -/
def FVal.ofInt (i : Int) : FVal := .num (i < 0) i.natAbs 0

/-- A number rounded to an integer, and whether that is exact (R47). -/
def roundInt (rm : RMode) (neg : Bool) (m : Nat) (e : Int) : Int × Bool :=
  if 0 ≤ e then (scaled neg m e 0, true)
  else
    let s := 2 ^ (-e).toNat
    let lo := m / s
    let rem := m % s
    let up := roundsUp rm neg (lo % 2 = 1) (rem = 0) (Ord.compare (2 * rem) s)
    let v := if up then lo + 1 else lo
    (if neg then -(v : Int) else v, rem = 0)

/-- Conversion to an integer type with the given bounds (R47). -/
def toInteger (rm : RMode) (lo hi : Int) (x : FVal) : Int × Flags :=
  match x with
  | .nan _ => (0, Flags.nv)
  | .inf n => (if n then lo else hi, Flags.nv)
  | .num n m e =>
    let (v, exact) := roundInt rm n m e
    if v < lo then (lo, Flags.nv)
    else if hi < v then (hi, Flags.nv)
    else (v, if exact then Flags.none else Flags.nx)

/-- Saturation of an integer to a signed width (R48). -/
def saturate (w : Nat) (i : Int) : Int := max (-(2 ^ (w - 1) : Nat)) (min i ((2 ^ (w - 1) : Nat) - 1))

def ftypeFmt : FType → Fmt | .f32 => .f32 | .f16 => .f16 | .b16 => .b16
/-- The bits of an element of a class F type. -/
def ftypeWidth : FType → Nat | .f32 => 32 | .f16 => 16 | .b16 => 16
def itypeWidth : IType → Nat | .i32 => 32 | .i16 => 16 | .i8 => 8
def widthBits : Width → Nat | .w32 => 32 | .w16 => 16 | .w8 => 8

/-- The scalar and lane operations that round with FCSR.RM (R116, R128). -/
inductive FOp | add | sub | mul | div
  deriving DecidableEq, Repr
def Fmt.binop (F : Fmt) (op : FOp) (rm : RMode) (x y : Nat) : FRes :=
  let a := F.unpack x
  let b := F.unpack y
  match op with
  | .add => F.add rm a b | .sub => F.sub rm a b | .mul => F.mul rm a b | .div => F.div rm a b

/-- The fused forms (R128): a * b + c, a * b - c, c - a * b. -/
inductive FusedOp | fma | fms | fnma
  deriving DecidableEq, Repr
def Fmt.fused (F : Fmt) (op : FusedOp) (rm : RMode) (x y z : Nat) : FRes :=
  let a := F.unpack x
  let b := F.unpack y
  let c := F.unpack z
  match op with
  | .fma => F.fma rm a b c | .fms => F.fma rm a b c.negate | .fnma => F.fma rm a.negate b c

end Sys2Proof.Machine
end

