-- ==== Sys2Proof/Config.lean ====
section
/-! DEFINITION. What the manual leaves open: free values, constants with no body, of which no proof can know a value
(log entries 2, 5, 7, 8, 10, 11, 13, 14, 18, 85, 91), and the fixed sizes of the module (spec 01 R7, R9). -/

namespace Sys2Proof

/-- Free: the cycles that pass during step `n` of the model; timing is not modelled (R6, R27; log 2). -/
opaque Config.elapsed : Nat → Nat
/-- Free: how many of a core's instructions in flight retire as the time of step `n` passes, by step and core (R118; log 5). -/
opaque Config.retires : Nat → Nat → Nat
/-- Free: which of the two f32 values that bracket an exact value VFN delivers in lane `l` at step `n` (R143; log 7). -/
opaque Config.faithfulUp : Nat → Nat → Bool
/-- Free: the 64-bit hash of a replica's output (R357 gives no function; log 8). -/
opaque Config.twinHash : Nat → BitVec 64
/-- Free: a byte of a result range after an error of a pod collective (R383; log 10). -/
opaque Config.errorByte : Nat → Byte
/-- Free: which of the free places in memory the scheduler prefers for something of a launch, by launch, thing and part
(R243, R250, R261; log 11). -/
opaque Config.preferred : Nat → Nat → Nat → Nat
/-- Free: the pages of the overflow log area of a launch's groups (R261; log 11). -/
opaque Config.logPages : Nat → Nat
/-- Free: the slack below which a core is retired, and that below which its die's clock is lengthened (R395; log 18). -/
opaque Config.retirementLimit : Int
opaque Config.clockLimit : Int

/-- Free: the voltage and frequency offsets that the margin planner gives a die at step `n` (R395; log 18). -/
opaque Config.marginOffsets : Nat → Int × Int
/-- Free: what a byte of another module's memory holds before this module writes it, by physical address (R236; log 13). -/
opaque Config.remoteByte : Nat → Byte

/-- Free: whether firmware function `f` is active at step `n` (R393; log 85). -/
opaque Config.firmwareActive : Nat → Nat → Bool
/-- Free: whether the signatures of the table and the firmware verify at a boot at step `n` (R391, R392; log 91). -/
opaque Config.verifies : Nat → Bool
/-- Free: whether the two results of a redundant step that drains at step `n` differ (R298, R333; log 14). -/
opaque Config.redundantMismatch : Nat → Bool

/-- The rows and columns of the mesh (R9). -/
def Config.columns : Nat := 832
def Config.rows : Nat := 800
/-- The depths of a core's injection queues (R171, R193). -/
def Config.requestEntries : Nat := 8
def Config.registerEntries : Nat := 4
def Config.replyEntries : Nat := 2
/-- The words a queue register holds (R19). -/
def Config.queueDepth : Nat := 32
/-- The messages a reorder store holds (R174). -/
def Config.reorderDepth : Nat := 8
/-- The load tags of a core (R274). -/
def Config.loadTags : Nat := 8
/-- The entries of an octet's job queue (R284). -/
def Config.jobQueue : Nat := 16
/-- The lent ranges a core can hold (R295). -/
def Config.lentRanges : Nat := 16
/-- The words that the 8 KiB instruction cache holds (R7). -/
def Config.icacheWords : Nat := 2048
/-- The 4 KiB pages of BAR0 below the counter page, one for each launch queue (R384, R398). -/
def Config.notifyPages : Nat := 14336
/-- The cores that launches may take: the placeable cores beyond them are spares (R10). -/
def Config.guaranteed : Nat := 650000
/-- The bytes of a save frame (R360). -/
def Config.saveFrame : Nat := 45056

end Sys2Proof
end

