-- ==== Sys2Proof/Machine/State.lean ====
section
/-! DEFINITION. The state of the module as plain data: one focus core with its resident group and core state (R12,
spec 02), the other cores, and what the module holds beside them: memory, networks, engines, directory, annealer,
launches, queues and counters. A register has one home; the channel table, the handler table and the bytes of the
mailbox lie in the well (R20). -/

namespace Sys2Proof.Machine

/-- What stops the machine. The spec describes none: every trap, kill, wait and refusal of a message that it gives is a
next state, so nothing raises a fault, and the type has no constructor (safe: nothing is hidden in it). -/
inductive Fault
  deriving DecidableEq, Repr

/-- An instruction without a meaning. -/
inductive Refusal
  /-- Raised by an arm of `exec` for an instruction the model has not reached (safe: it stops). -/
  | notModelled (mnemonic : String)
  deriving DecidableEq, Repr

/-- Memory: addresses strictly rising, no byte equal to what an unlisted address reads as (zero; log 6). -/
abbrev Memory := List Host.Cell

/-- A loop level of a slot (R99): the remaining count and the bounds. -/
structure LoopLevel where
  count : BitVec 32
  start : CodeAddr
  stop : CodeAddr
  deriving DecidableEq, Repr

/-- How far an instruction that has come to issue, and waits, has got. -/
inductive Progress
  | none
  /-- A full/empty instruction in the line of waiters of a word (R115): its word, its ticket, and whether it waits for
  full. -/
  | fullEmpty (word ticket : Nat) (forFull : Bool)
  /-- A REL that has come to issue (R264): the tail it took then, and whether its marker is placed, or waits for a log entry (R278). -/
  | rel (tail : BitVec 32) (placed : Bool)
  /-- A BAR or BARA releasing the log up to a tail before it arrives (R203). -/
  | arriving (level : Nat) (tail : BitVec 32)
  /-- A BAR that has arrived, waiting as a BARW (R162). -/
  | arrived (level : Nat)
  /-- A KILL, SEAL or UNSEAL waiting for its confirmation (R350, R354). -/
  | sealing
  /-- A CPY or CPY2 that translates its shared ranges (R247, R325): what its operands ask for, and the physical addresses of the words
  translated so far, latest first. -/
  | translating (operands : List Nat) (found : List Nat)
  /-- An ANRUN waiting for the commit's end (R352). -/
  | committing
  /-- A SLEEPC asleep; true when the core has woken (R353). -/
  | sleeping (woken : Bool)
  deriving DecidableEq, Repr

/-- The state of a slot (R13, R99, R107, R157, R341). -/
structure Slot where
  active : Bool
  pc : CodeAddr
  g : Vector Word 32
  /-- The active loop levels, outermost first (R99). -/
  levels : List LoopLevel
  latch : Bool
  wait : Nat
  lastIssue : Nat
  /-- The slot's last issue was a YIELD, and its core has not issued since (R106). -/
  yielded : Bool
  susp : Bool
  trapPc : CodeAddr
  trapCause : Word
  trapVal : Word
  /-- Accesses of the slot that have returned an error while it could not trap: load tag and address (R339). -/
  errors : List (Nat × Word)
  /-- The mailbox entry the activation owns (R152). -/
  entry : Option Nat
  progress : Progress
  deriving DecidableEq, Repr

/-- A message: the fields of the header flit (R168) and the payload. -/
structure Msg where
  dest : Name
  source : Name
  mtype : BitVec 8
  cls : BitVec 3
  chan : BitVec 6
  seqd : Bool
  seq : BitVec 16
  len : Nat
  rel : Bool
  tail : BitVec 32
  row : BitVec 5
  rslot : BitVec 8
  otype : BitVec 8
  fwd : BitVec 2
  data : List Byte
  deriving DecidableEq, Repr

/-- The injection queues of a core (R171, R193); a stream message waits in its outbound queue. -/
inductive InjKind | request | register | reply | stream (q : BitVec 3)
  deriving DecidableEq, Repr

/-- Where an injection entry stands (R171, R190). -/
inductive InjStage
  /-- Not yet injected; with a tail, it waits for that tail's publish (R190, R266). -/
  | waiting (tail : Option (BitVec 32))
  /-- Injected and not yet answered. -/
  | sent
  /-- Bounced, to be re-injected (R171). -/
  | bounced
  /-- Answered by a notice that waits for a free mailbox entry (R171): the number of its arrival at the group (R179). -/
  | notice (m : Msg) (stamp : Nat)
  deriving DecidableEq, Repr

structure InjEntry where
  id : Nat
  kind : InjKind
  msg : Msg
  stage : InjStage
  deriving DecidableEq, Repr

/-- The states of a mailbox entry (R152, R172). -/
inductive EntryState
  | free
  /-- Written, waiting for a start: the number of its arrival at the group (R154). -/
  | pending (stamp : Nat)
  | running
  | reserved (forDest : Name)
  deriving DecidableEq, Repr

/-- A queue register (R19). For an outbound queue, `injected` counts the oldest words already injected and not yet
accepted (R176). For an inbound queue, `marks` counts the words of each stream message (R164) and `freed` the words
removed since the last credit return (R176). -/
structure Queue where
  bound : Bool
  chan : BitVec 6
  words : List Word
  injected : Nat
  marks : List Nat
  freed : Nat
  deriving DecidableEq, Repr

/-- An entry of the annealer table (R207). -/
structure AnnEntry where
  count : Nat
  w : Nat
  q : Nat
  peer : Option Coord
  deriving DecidableEq, Repr

/-- The kinds of log entries (R255). -/
inductive LogKind | store | relStore | atomic | relMarker | fenceMarker
  deriving DecidableEq, Repr

/-- The atomic operations (R84). -/
inductive AtomOp | add | min | max | and | or | xor | swap | cas
  deriving DecidableEq, Repr

/-- A log entry: the fields of R255, the sequence numbers merged into it (R259) and how far it has got. -/
structure LogEntry where
  kind : LogKind
  seq : BitVec 32
  /-- The earliest sequence number the record stands for (R259). -/
  firstSeq : BitVec 32
  /-- The block's address, and the home that applies it (R256). A remote address of this module names its main memory
  (R236): `phys` keeps the address as it was translated. -/
  addr : Nat
  phys : Nat
  home : Nat
  mask : BitVec 32
  data : BitVec 256
  aop : AtomOp
  ord : AtomOrd
  gd : GReg
  slot : SlotId
  scope : Scope
  cmp : Word
  /-- The load tag an atomic holds (R274). -/
  tag : Nat
  /-- In the ring, not spilled to the carve-out or the overflow area (R260). -/
  inRing : Bool
  sent : Bool
  egress : Bool
  /-- The bytes that hold something else at their home since it applied the record, as the group has read or acquired there: they are
  forwarded no more (R263, R269; log 125). -/
  passed : BitVec 32 := 0
  deriving DecidableEq, Repr

/-- A range of a well (R295). -/
structure LentRange where
  lo : Nat
  hi : Nat
  jobs : List (Name × Nat)
  deriving DecidableEq, Repr

/-- A job as its batch knows it (R286): its id, a number that no other job of the group has, its target rows (R294), its
outcome, and the writer and tail that a JWAIT acquires (R302). -/
structure JobPart where
  id : BitVec 8
  serial : Nat
  rows : BitVec 32
  done : Bool
  error : BitVec 4
  publish : Option (BitVec 41 × BitVec 32)
  deriving DecidableEq, Repr

/-- A status record of a job or batch (R307, R308): a batch names its jobs in enqueue order, a job itself. -/
structure JobRecord where
  batch : Bool
  id : BitVec 8
  /-- 1 queued, 2 running, or a batch not yet complete, 3 complete (R308). -/
  state : BitVec 2
  kind : BitVec 3
  deliv : BitVec 8
  parts : List JobPart
  deriving DecidableEq, Repr

/-- A page of the address space: base and size exponent (R244, R248). -/
structure Page where
  base : Nat
  s : Nat
  deriving DecidableEq, Repr

/-- A group's part as one of two replicas (R357). -/
structure Twin where
  primary : Bool
  partner : Coord
  /-- The outputs hashed so far, and how many of them the partner's hashes have matched. -/
  made : Nat
  matched : Nat
  /-- The hashes not yet matched, oldest first, with the cycle of each. -/
  hashes : List (BitVec 64 × Nat)
  /-- The primary's messages that wait for their match: output number and injection entry. -/
  waiting : List (Nat × Nat × Msg)
  /-- The records that wait for their match: output number and sequence number. -/
  records : List (Nat × BitVec 32)
  /-- The mailbox entries whose activations ran at the last mismatch: a second one ends the pair. -/
  suspects : List Nat
  deriving DecidableEq, Repr

/-- The group state of R12. -/
structure Group where
  well : Memory
  /-- Bit w: the full/empty bit of well word w, 1 full (R23). -/
  fe : BitVec 4096
  /-- The waiters' next ticket (R115). -/
  ticket : Nat
  tile : Vector Row 32
  hold : BitVec 32
  busy : BitVec 32
  m : Vector Word 8
  slots : Vector Slot 4
  q : Vector Queue 8
  instret : Word
  /-- The instructions that `instret` counts and that have still to retire (R118; log 5). -/
  inFlight : Nat
  self : Word
  posn : Word
  launchReg : Word
  logTail : BitVec 32
  logPub : BitVec 32
  lpat : Word
  tilecfg : AccType
  fmta : BitVec 4
  fmtb : BitVec 4
  scla : BitVec 17
  sclb : BitVec 17
  astride : BitVec 16
  bstride : BitVec 16
  /-- FCSR's flags NV, DZ, OF, UF, NX from bit 4 down (R27). -/
  fflags : BitVec 5
  satf8 : Bool
  rm : BitVec 3
  jobQueued : Nat
  jobLast : BitVec 8
  jobOpen : Nat
  mbox : List EntryState
  /-- The number of the next arrival in the mailbox, by which handlers start in order (R154). -/
  arrivals : Nat
  /-- Entry 0 holds the launch argument, which is no message (R155, R164). -/
  argument : Bool
  reorder : List Msg
  dtable : List (BitVec 19)
  amax : Vector (BitVec 32) 4
  rings : Vector (List (BitVec 32)) 4
  classMask : BitVec 8
  anchored : Bool
  ann : List AnnEntry
  arrive : Vector (BitVec 32) 9
  sent : Nat
  consumed : Nat
  locked : List Page
  logArea : Word
  logOvf : Word
  logLim : Word
  spillOvf : Word
  log : List LogEntry
  openJobs : List JobPart
  records : List JobRecord
  nextJob : BitVec 8
  jobSerial : Nat
  /-- The collectives of each level that the group has issued (R327; log 16). -/
  collNo : Vector Nat 9
  lent : List LentRange
  sealed : Bool
  sysact : Bool
  trapact : Bool
  sys : Bool
  trapSlot : SlotId
  trapQueue : List SlotId
  inj : List InjEntry
  nextInj : Nat
  /-- The spill carve-out's size, from the launch record (R158). -/
  spill : Nat
  /-- The number of the group's launch (LAUNCH.id). -/
  launch : Nat
  /-- Killed without restart (R348). -/
  ended : Bool
  /-- Killed, stopped, and waiting for the supervisor (R346). -/
  stopped : Bool
  preempt : Option Bool
  blockedFor : Nat
  twin : Option Twin
  deriving DecidableEq, Repr

/-- A TLB entry (R244): most recently used first in its list. -/
structure TlbEntry where
  page : Page
  leaf : Word
  locked : Bool
  deriving DecidableEq, Repr

/-- A line of the view cache (R242), by the physical address of its first byte. -/
structure ViewLine where
  addr : Nat
  data : List Byte
  deriving DecidableEq, Repr

/-- The destination of a split-phase access (R274). -/
inductive Dest | g (r : GReg) | v (r : VReg)
  deriving DecidableEq, Repr

/-- An outstanding split-phase access (R274, R275). -/
structure LoadTag where
  tag : Nat
  slot : SlotId
  dest : Dest
  vaddr : Word
  /-- The physical address of each byte, in ascending virtual order; `phys` keeps the addresses as they were translated (R236), and
  `asked` the 256-byte blocks of remote memory that have been asked for (R378). -/
  bytes : List Nat
  phys : List Nat
  asked : List Nat
  /-- The lines that the access reads through the view cache (R242, R275). -/
  lines : List Nat
  /-- An LDA, or an atomic with .acq or .ar: it discards the view cache when it writes its destination (R268). -/
  acquires : Bool
  /-- LOGTAIL at issue: the load waits for the overlapping own records up to there (R262). -/
  bound : BitVec 32
  /-- An atomic: its value comes with ATOMIC_RETURN (R270), for the record of this sequence number. -/
  atomic : Bool
  seq : BitVec 32
  /-- The bytes read, once they have been read. -/
  data : Option (List Byte)
  /-- The lines requested before a discard, or before an own record that overlaps them: not kept (R262, R267). -/
  stale : List Nat
  deriving DecidableEq, Repr

/-- A page miss (R247): the slot whose access waits, the address, and whether that access still waits. -/
structure Miss where
  slot : SlotId
  addr : Word
  live : Bool
  deriving DecidableEq, Repr

/-- A forward pointer (R222). -/
structure ForwardPtr where
  name : Name
  target : Coord
  since : Nat
  deriving DecidableEq, Repr

/-- A core's counters (R396), each at most 2^48 - 1. -/
structure Counters where
  ccyc : Nat
  cinst : Nat
  evc : Vector Nat 4
  saturated : Bool
  deriving DecidableEq, Repr
/-- Nothing counted (R399). -/
def Counters.zero : Counters := { ccyc := 0, cinst := 0, evc := Vector.replicate 4 0, saturated := false }

/-- The steps of a swap (R216). -/
inductive SwapStage | locked | frozen | drained | installed
  deriving DecidableEq, Repr

structure SwapState where
  partner : Coord
  since : Nat
  stage : SwapStage
  /-- One of the two cores held no group at the lock: the other is being evacuated (R395). -/
  single : Bool := false
  deriving DecidableEq, Repr

/-- Where traffic in flight is going. -/
inductive Place
  | core (c : Coord)
  | directory
  | sump
  | fabric (module : Nat)
  deriving DecidableEq, Repr

/-- A memory access that crosses the fabric (R378). -/
inductive Access
  /-- A load of this module, by the tag that its core gave it, or its record, by writer and sequence number. -/
  | load (tag : Nat)
  | record (writer : BitVec 41) (seq : BitVec 32)
  /-- The words that a job of the copy unit reads (R299, R378). -/
  | copy (owner : Name) (serial : Nat)
  /-- A load that another module asks for, under its own number, and the bytes it is answered with; none for an error. -/
  | read (id addr n : Nat)
  | data (id : Nat) (bytes : List Byte)
  /-- A record that another module sends, and its acknowledgement, or an atomic's old value. -/
  | write (writer : BitVec 41) (entry : LogEntry)
  | done (writer : BitVec 41) (seq : BitVec 32) (old : Option Word) (error : Bool)
  deriving DecidableEq, Repr

/-- What a network carries (R170, R187). -/
inductive Traffic
  | msg (m : Msg)
  /-- An acceptance of the entry `id` of the named group (R171). -/
  | accept (dst : Name) (id : Nat)
  | bounce (dst : Name) (id : Nat)
  /-- A notice returning to its sender's entry `id` (R171), or 0 when that entry has been freed (R174). -/
  | notice (m : Msg) (id : Nat)
  | credit (dst : Name) (chan : BitVec 6) (n : Nat)
  | nameUpdate (name : Name) (module : Nat) (at_ : Coord)
  /-- The position that a swap leaves a group at, with the group's count of moves (R183, R219). -/
  | dirUpdate (name : Name) (at_ : Coord) (moves : Nat)
  | weight (dst : Name) (name : Name) (chan : BitVec 6) (p : Nat) (at_ : Coord)
  | position (dst : Name) (name : Name) (chan : BitVec 6) (at_ : Coord)
  /-- The hash of a replica's output, on its way to its partner's core (R357). -/
  | twinHash (hash : BitVec 64)
  /-- An access on its way to a fabric port or from one, with bits [14:8] of its device offset (R375, R378). -/
  | access (offset : Nat) (a : Access)
  /-- The directory's report, to a sender on another module, that its reply has been discarded (R172). -/
  | discarded (dst : Name)
  deriving DecidableEq, Repr

structure Packet where
  place : Place
  /-- The sender's injection entry, for a message that may be answered. -/
  id : Nat
  /-- The core that injected the traffic. -/
  source : Coord
  body : Traffic
  /-- The header check has failed once, and the message has been resent (R356). -/
  stomped : Bool := false
  /-- The resent copy has failed too, and takes another route (R356, R372). -/
  rerouted : Bool := false
  /-- Traffic that a port held, or the sump kept, and lets go before what arrives later (R186, R232). -/
  released : Bool := false
  /-- The sump has accepted it: its sender's entry is free (R185). -/
  accepted : Bool := false
  /-- A copy, for the secondary of a twin, of what the primary has accepted (R357). -/
  copy : Bool := false
  /-- For traffic that leaves by the fabric: the core on the other module, if the sender knows it (R379). -/
  far : Option Coord := none
  /-- The other module that `source` stands on, for traffic that came by the fabric (R379). -/
  away : Option Nat := none
  deriving DecidableEq, Repr

/-- A core: its place, its resident group (which stands at its group-reset values while the core is vacant), and the
core state of R12. -/
structure Core where
  at_ : Coord
  vacant : Bool
  retired : Bool
  grp : Group
  tlb : List TlbEntry
  names : List (Name × Nat × Coord)
  view : List ViewLine
  frontier : List (BitVec 41 × BitVec 32)
  tags : List LoadTag
  fnCopies : Vector (Option Nat) 4
  /-- The instruction cache: the words that it holds, by launch and address, most recently fetched first (R7, R12). -/
  icache : List (Nat × CodeAddr)
  /-- The slots that a latency, and those that a well bank, keep from issuing since the core's last turn (R92, R113). -/
  latency : BitVec 4
  banks : BitVec 4
  forwards : List ForwardPtr
  counters : Counters
  /-- Messages held at the port during a freeze (R182, R232). -/
  held : List Packet
  /-- Register writes that wait at the port for busy to clear (R178). -/
  fills : List Packet
  swap : Option SwapState
  /-- The wake deadline of a core whose clocks SLEEPC gates (R353). -/
  asleep : Option Word
  /-- The page misses, in the order in which they began: the translation service serves the first (R247). -/
  misses : List Miss
  discarded : Nat
  refusedOrder : Nat
  /-- Being evacuated since the given cycle (R395). -/
  evacuating : Option Nat
  /-- Links of the router that have been marked failed (R356). -/
  failedLinks : Nat
  deriving DecidableEq, Repr

/-- An operand of a step: the owner's name, base, row stride, bytes of a row and rows (R289, R310). -/
structure Operand where
  owner : Name
  base : Nat
  stride : Nat
  width : Nat
  rows : Nat
  deriving DecidableEq, Repr

/-- An end of a copy (R299, R323). -/
inductive Endpoint
  | well (owner : Name) (addr : Nat)
  /-- A shared range: the physical address of each 8-byte word, by word number. -/
  | shared (words : List Nat)
  deriving DecidableEq, Repr

/-- A matrix step (R288 to R291): what it sampled, its operands and their copied scale bytes, whether it has lent its
ranges, and the operand rows that a redundant step copied at its start (R298). -/
structure StepJob where
  wf : Bool
  red : Bool
  row0 : Nat
  rows : Nat
  cols : Nat
  k : Nat
  fmta : BitVec 4
  fmtb : BitVec 4
  acc : AccType
  a : Operand
  b : Operand
  scla : Option (List Byte)
  sclb : Option (List Byte)
  lent : Bool
  held : Option (List (List Byte) × List (List Byte))
  deriving DecidableEq, Repr

/-- A copy (R299, R325): the number of words moved so far, the destinations that failed, and the tail of its last
record (R302). -/
structure CopyJob where
  two : Bool
  rows : Nat
  width : Nat
  sstride : Nat
  dstride : Nat
  fill : Bool
  src : Endpoint
  dests : List Endpoint
  next : Nat
  failed : List Bool
  tail : BitVec 32
  /-- How many source words have been asked for where they stand on another module, or leave by a port (R236, R378). -/
  asked : Nat := 0
  deriving DecidableEq, Repr

/-- A collective block (R327). -/
structure CollBlock where
  op : Nat
  fn : Nat
  type : Nat
  level : Nat
  count : Nat
  buf : Nat
  res : Nat
  tag : BitVec 32
  deriving DecidableEq, Repr

/-- What a member has received of a child: the members that it stands for, and their vectors (gather), or the one
combined vector. -/
structure CollPart where
  child : Nat
  members : List Nat
  vectors : List (Nat × List Byte)
  deriving DecidableEq, Repr

/-- A member's part of a collective (R327 to R329): `sent` when its vector has left for the parent, `taken` when the
parent has it, and the result that comes down. -/
structure CollJob where
  block : CollBlock
  launch : Nat
  unit : Nat
  /-- Which of its member's collectives over the unit it is, counted from 1: the members' parts of one number are one collective (log
  16). -/
  number : Nat
  member : Nat
  parent : Option Nat
  child : Nat
  nchild : Nat
  parts : List CollPart
  sent : Bool
  taken : Bool
  result : Option (List Byte)
  /-- The groups that have been sealed since the job was enqueued (R328). -/
  lost : List Name := []
  /-- The cycles that the tree edges to its children have added (R330). -/
  edges : Nat := 0
  deriving DecidableEq, Repr

/-- What a job does (R284). -/
inductive JobKind
  | step (j : StepJob)
  | tzero (mask : BitVec 32)
  | dtload (entries : List (BitVec 19))
  | copy (j : CopyJob)
  | coll (j : CollJob)
  deriving DecidableEq, Repr

structure Job where
  owner : Name
  at_ : Coord
  id : BitVec 8
  serial : Nat
  running : Bool
  error : BitVec 4
  kind : JobKind
  /-- The cycles of its unit that have been counted (R397, R401). -/
  spent : Nat := 0
  /-- The cycles that the waits of R295, R300 and R260 have added (R304). -/
  waited : Nat := 0
  /-- Where its group stands now: a group with a job that does not pin it may move (R213). -/
  now : Coord := at_
  deriving DecidableEq, Repr

/-- An octet (R9, R284): its number o = 2c + h (R326), its job queue, the core each unit served last, and the copy
unit's log. -/
structure Octet where
  number : Nat
  jobs : List Job
  lastMatrix : Nat
  lastCopy : Nat
  copyTail : BitVec 32
  deriving DecidableEq, Repr

/-- A writer key (R258). -/
abbrev WriterKey := BitVec 41

/-- A log record in flight to its home (R257), or on its way back. -/
inductive RecStage | toHome | ack | egressAck | atomReturn (old : Word)
  /-- The home has found the atomic's word damaged (R339, R355). -/
  | atomError
  deriving DecidableEq, Repr

structure FlightRecord where
  writer : WriterKey
  entry : LogEntry
  stage : RecStage
  deriving DecidableEq, Repr

/-- The directory's record of a group (R183, R184). -/
inductive Residence | resident (c : Coord) | preempted | parked | unplaced | released
  deriving DecidableEq, Repr

structure DirEntry where
  name : Name
  residence : Residence
  sealed : Bool
  ended : Bool
  moving : Bool
  held : List Packet
  /-- The group's count of moves at the position recorded, and that which the swap under way will leave (R183). -/
  moves : Nat := 0
  awaits : Nat := 0
  /-- The counts of R164 of a group that has not been created: the sump has refused messages for it (R185). -/
  sent : Nat := 0
  consumed : Nat := 0
  deriving DecidableEq, Repr

/-- A save frame (R360): the saved group and its place in main memory. -/
structure SaveFrame where
  name : Name
  base : Nat
  cycle : Word
  /-- Register writes and stream words with hold and busy both set stay in the sump queue (R305). -/
  grp : Group
  deriving DecidableEq, Repr

/-- A level of a launch (R158). -/
structure Level where
  count : Nat
  domain : Nat
  fence : Nat
  deriving DecidableEq, Repr

structure ChannelDecl where
  chan : Nat
  kind : Nat
  weight : Nat
  queue : Nat
  peer : Nat
  deriving DecidableEq, Repr

structure Kind where
  first : Nat
  count : Nat
  entry : CodeAddr
  image : Memory
  channels : List ChannelDecl
  deriving DecidableEq, Repr

/-- A lease (R158, R249): its range and the physical frame of each 4 KiB page. -/
structure Lease where
  kind : Nat
  module : Nat
  base : Nat
  size : Nat
  frames : List Nat
  image : List Byte
  deriving DecidableEq, Repr

/-- A launch in progress (R158, R160). -/
structure Launch where
  id : Nat
  part : Nat
  groups : Nat
  base : Nat
  gen : BitVec 8
  mbox : Nat
  spill : Nat
  logArea : Nat
  levels : List Level
  kinds : List Kind
  leases : List Lease
  code : List IWord
  args : List Byte
  sys : Bool
  twin : BitVec 16
  gang : Nat
  saveBase : Nat
  saveSize : Nat
  completion : Nat
  queue : Nat
  rel : Bool
  kills : Nat
  /-- The instance of level 1's domain that each level-1 unit has taken (R160). -/
  instances : List Nat
  /-- The groups that wait for a core, in the order in which they became unplaced (R161). -/
  unplaced : List Nat
  admitted : Bool
  /-- The last sweep's sample (R164): all idle, sent, consumed; and the one before. -/
  sample : Option (Bool × Nat × Nat)
  previous : Option (Bool × Nat × Nat)
  ended : Bool
  deriving DecidableEq, Repr

/-- A launch queue (R385): its ring, the port and function that its notify page is mapped to, its capture latch with the
pending bit (R389), and the write index that the processor has. -/
structure LaunchQueue where
  id : Nat
  part : Nat
  port : Nat
  fn : Nat
  /-- The number of its 4 KiB page in BAR0 of the function (R384). -/
  page : Nat
  base : Nat
  log2 : Nat
  system : Bool
  readIdx : BitVec 32
  latched : BitVec 32
  pending : Bool
  announced : BitVec 32
  gated : Bool
  stopped : Bool
  /-- The rel-marked packets started and not completed (R388). -/
  pendingRel : List Nat
  deriving DecidableEq, Repr

/-- A function of a PCIe port (R384): 0 is the physical one, 1 to 16 are virtual, each for a partition; its host DMA window in
main memory (R392). -/
structure HostFunction where
  port : Nat
  number : Nat
  part : Nat
  base : Nat
  size : Nat
  deriving DecidableEq, Repr

/-- An MSI-X vector that has been raised (R384, R388). -/
structure Interrupt where
  port : Nat
  fn : Nat
  vector : BitVec 6
  deriving DecidableEq, Repr

/-- The modes of the annealer (R206). -/
inductive AnnMode | off | live | dryRun | commit
  deriving DecidableEq, Repr

/-- The annealer of the partition (R206, R228): its registers, the writes that take effect at the next round start
(R229), the trace ring (R226) and the round in progress. -/
structure Annealer where
  tempCurrent : BitVec 32
  tempStart : BitVec 32
  alpha : BitVec 8
  floor : BitVec 32
  seed : BitVec 32
  period : BitVec 32
  round : BitVec 24
  head : BitVec 8
  left : BitVec 20
  best : Bool
  wsrc : Bool
  mode : AnnMode
  pendingRegs : List (Nat × Word)
  pendingWeights : List (Name × Nat × Nat)
  reloadTemp : Bool
  ring : List (BitVec 256)
  shadow : List (Name × Coord)
  bestPlacement : List (Name × Coord)
  bestEnergy : Nat
  /-- CYCLE at the last round instant handled (R211). -/
  instant : Nat
  inRound : Bool
  /-- The mode that the round in progress began in. -/
  roundMode : AnnMode
  /-- The next phase to start; the pairs of the phase in progress that have not decided, by their lower core, with their
  change of energy (R210); and the phases since the commit began (R225). -/
  phase : Nat
  pairs : List (Coord × Int)
  phases : Nat
  energy : Nat
  accepted : Nat
  rejected : Nat
  busy : Nat
  aborted : Nat
  deriving DecidableEq, Repr

/-- What a snapshot has latched (R399): its cycle, CNTCTL and the CNTSELs of the interval it closes, and the counters of the cores. -/
structure Snapshot where
  cycle : Nat
  ctl : Word
  sel : Vector Word 4
  cores : List (Coord × Counters)
  /-- The counters of each counting core that the list leaves out. -/
  absent : Counters
  /-- The dies of the partition, and its retired cores, at that instant. -/
  dies : List Nat
  retired : List Coord
  deriving DecidableEq, Repr

/-- The counter page (R398), with the writes that take effect at the next snapshot. -/
structure CounterPage where
  ctl : Word
  sel : Vector Word 4
  ringBase : Word
  ringSize : BitVec 16
  lost : BitVec 16
  head : BitVec 16
  tail : BitVec 16
  pending : List (Nat × Word)
  /-- The snapshots latched and not yet written, oldest first (R399). -/
  latched : List Snapshot
  /-- The counters of each counting core of the partition that State does not list: one that has held no group and met nothing yet (log 144). -/
  absent : Counters
  deriving DecidableEq, Repr

/-- A kill record (R349). -/
structure KillRecord where
  name : Name
  launch : Nat
  ordinal : Nat
  cause : BitVec 8
  restarted : Bool
  lostWrites : Bool
  lostState : Bool
  slots : BitVec 4
  oldCore : Coord
  newCore : Option Coord
  cycle : Word
  value : Word
  logTail : BitVec 32
  logPub : BitVec 32
  replayed : Nat
  lost : Nat
  deriving DecidableEq, Repr

/-- The gang schedule (R365): the slice whose instant came last, -1 before t0; the gang that runs; whether a change of slice is under
way (R366), and the gang that ran before it. -/
structure GangSchedule where
  origin : Nat
  length : Nat
  gangs : Nat
  slice : Int
  current : Nat
  changing : Bool
  last : Nat
  deriving DecidableEq, Repr

/-- Traffic of one flow on a fabric link (R374): class, the module at the far end, the number of its first fabric flit in the
flow, how many fabric flits it is, and the credits by class that its header returns, each of them the acknowledgement of a flit. -/
structure Flit where
  vc : Nat
  module : Nat
  /-- The port that its flow runs on; a resent flit may take another (R376). -/
  flow : Nat
  number : Nat
  count : Nat
  returns : List (Nat × Nat)
  packet : Packet
  deriving DecidableEq, Repr

/-- A fabric port (R373, R374): whether its link has failed, the credits of each class, those that it owes for the flits taken,
the next number of each flow of the port (class and module) in and out, the retry buffer, what a failed link leaves to be sent again
(R376), and what arrives. -/
structure FabricPort where
  failed : Bool
  credits : Vector Nat 8
  owed : Vector Nat 8
  taken : List (Nat × Nat × Nat)
  nextSend : List (Nat × Nat × Nat)
  retry : List Flit
  again : List Flit
  incoming : List Flit
  deriving DecidableEq, Repr

/-- A chunk on a tree edge of a collective, or its acknowledgement (R382): the edge to a child, or to the parent. -/
structure Chunk where
  coll : Nat
  edge : Option Nat
  number : Nat
  data : List Byte
  ack : Bool
  deriving DecidableEq, Repr

/-- A pod collective on this module (R380 to R383). -/
structure PodCollective where
  id : Nat
  queue : Nat
  op : Nat
  fn : Nat
  type : Nat
  count : Nat
  nmod : Nat
  tag : BitVec 32
  /-- The entry index of this module, the module of its parent, and its children by child index. -/
  entry : Nat
  parent : Option Nat
  children : List (Nat × Nat)
  src : Nat
  res : Nat
  completion : Nat
  /-- The chunks held in the combining buffer (R382). -/
  held : List Chunk
  /-- The next chunk to combine. -/
  next : Nat
  /-- The results that have come down from the parent (all-reduce), or the vectors that have come up (gather). -/
  got : List Nat
  /-- How many chunks of a gather pass through here. -/
  expect : Nat
  /-- The chunks sent and not yet acknowledged, with their data. -/
  unacked : List Chunk
  /-- The error that it ends with, once the unit's records are acknowledged; 0 while there is none (R383). -/
  error : Nat
  deriving DecidableEq, Repr

/-- A vector that a member of a collective passes to its parent (R328). -/
structure CollVector where
  block : CollBlock
  owner : Name
  launch : Nat
  unit : Nat
  number : Nat
  parent : Nat
  member : Nat
  child : Nat
  members : List Nat
  vectors : List (Nat × List Byte)
  deriving DecidableEq, Repr

/-- One collective: a launch, a level, a unit of it, and which of the unit's collectives it is (log 16). -/
structure CollId where
  launch : Nat
  level : Nat
  unit : Nat
  number : Nat
  deriving DecidableEq, Repr
/-- A member's part of a collective that has ended with code 5, waiting on a sealed member, or with 6, at or below a mismatch (R328). -/
structure CollFailure where
  coll : CollId
  member : Nat
  parent : Option Nat
  error : Nat
  deriving DecidableEq, Repr

/-- The role of some firmware cores, numbered row by row from `first`, the partition they serve, and the classes that their firewall
registers admit beside 6 and 7 (R390). -/
structure RoleEntry where
  first : Nat
  count : Nat
  role : Role
  part : Nat
  classes : BitVec 8
  deriving DecidableEq, Repr

/-- The update methods (R393). -/
inductive UpdateMethod | kernel | patch
  deriving DecidableEq, Repr

/-- The preserved-state table (R393): the queues mapped, the page tables, as the leases of each launch, and the connections of
the fabric ports. -/
structure Preserved where
  queues : List Nat
  tables : List (Nat × List Lease)
  connections : List Nat
  deriving DecidableEq, Repr

/-- The signed configuration table (R391), what the boot ROM has locked (R392), and the firmware's versions (R393). -/
structure Board where
  module : Nat
  /-- The width of the firmware column in cluster columns, 1 to 4, less 1 (R10). -/
  fwCols : BitVec 2
  pod : List Nat
  roles : List RoleEntry
  method : UpdateMethod
  /-- The cores that the table lists as retired: a retirement enters it at the next signed update (R395). -/
  retired : List Coord
  /-- The margin plan: voltage and frequency offsets by die (R395). -/
  margins : List (Nat × Int × Int)
  /-- The power and thermal ceilings (R392). -/
  ceilings : Nat × Nat
  /-- The pairs of partitions between which the egress filters let messages pass (R392, R394). -/
  egress : List (Nat × Nat)
  /-- The partitions, each with the modules to which the fabric's egress filters let its messages pass (R392, R394). -/
  podEgress : List (Nat × Nat)
  /-- The partitions of the table: number, dies and CISTAREA; the one without a list holds the dies that no other lists (R391). -/
  partitions : List (Nat × List Nat × Nat)
  /-- The host DMA windows that each function of each port may have (R392). -/
  windows : List HostFunction
  locked : Bool
  /-- Verification has failed at the last boot, as the status register of the PCIe function reports (R392). -/
  failed : Bool
  kernel : Nat
  /-- The function-table entries that patches have replaced, for the cores of a role (R393). -/
  patches : List (Role × Nat × Nat)
  preserved : Option Preserved
  /-- The clusters whose slack lies below the table's limit: the clock of their dies is lengthened (R395). -/
  slow : List Nat
  deriving DecidableEq, Repr

/-- The width of the firmware column in cluster columns (R10). -/
def Board.fwWidth (b : Board) : Nat := b.fwCols.toNat + 1

/-- A partition (R394): its dies, its CISTAREA (R237), its annealer, counter page, gang schedule and kill records, with the
main-memory offset of its kill ring and the records that the ring holds (R349; log 74), and the ranges of main memory that
are mapped for the partition itself, for its queues, records and save areas (R386; log 82). -/
structure Partition where
  id : Nat
  dies : List Nat
  cistArea : Nat
  ann : Annealer
  ctr : CounterPage
  gang : GangSchedule
  kills : List KillRecord
  killBase : Nat
  killSize : Nat
  mapped : List (Nat × Nat)
  deriving DecidableEq, Repr

/-- What moves next: a core, the slots that a latency, and those that a well bank, keep from issuing this time, and an
event in place of an instruction (log 1, 4). -/
structure Turn where
  core : Coord
  held : BitVec 4
  bank : BitVec 4 := 0
  event : Option Instr
  deriving DecidableEq, Repr

/-- The module. -/
structure State where
  /-- The focus core: the one whose instruction or event this step is. -/
  core : Core
  others : List Core
  /-- The slot whose instruction is executed, and the word at its program counter. -/
  k : SlotId
  ir : IWord
  /-- The instruction that came to issue, or the event tried, had to wait (R92): nothing changed but what coming to
  issue does (a place in a line of waiters, a REL marker). -/
  stalled : Bool
  agenda : List Turn
  ticks : Nat
  cycle : Nat
  /-- Physical memory (R235), by physical address. -/
  mem : Memory
  poisoned : List Nat
  /-- The 8-byte pool words whose full/empty bit is empty (R240); no access of this spec tests or changes one (R274). -/
  poolEmpty : List Nat
  net : List Packet
  records : List FlightRecord
  /-- The latest sequence number each home has applied for a writer (R258). -/
  homeSeq : List (WriterKey × Nat × BitVec 32)
  octets : List Octet
  collVectors : List CollVector
  collFailures : List CollFailure
  directory : List DirEntry
  sump : List (Name × Packet)
  frames : List SaveFrame
  launches : List Launch
  lastGen : BitVec 8
  /-- For each index issued: its last generation and the cycle of its release, if released (R150). -/
  indexes : List (Nat × BitVec 8 × Option Nat)
  nextLaunch : Nat
  queues : List LaunchQueue
  functions : List HostFunction
  interrupts : List Interrupt
  /-- The data of the host's last read through BAR2 (R384). -/
  hostData : Word
  /-- The private areas in main memory (R243, R261): launch, base and size. -/
  areas : List (Nat × Nat × Nat)
  /-- The cycle of the last sweep (R164). -/
  lastSweep : Nat
  /-- The partition that holds every die no other one lists, and the others. -/
  part0 : Partition
  parts : List Partition
  /-- The module's PTP time less its CYCLE time, in ns (R365). -/
  ptpOffset : Int
  ports : List FabricPort
  colls : List PodCollective
  chunks : List Chunk
  chunksOut : List Chunk
  /-- The collectives that have ended here: a chunk that is sent again is acknowledged and discarded (R382). -/
  collsDone : List Nat
  unitTail : BitVec 32
  /-- The records of the collective unit that have not been sent, oldest first (R257, R383). -/
  unitLog : List LogEntry
  board : Board
  /-- The signed configuration table in the boot flash (R391). -/
  flash : Board
  deriving DecidableEq, Repr

/-! ## Reset values -/

/-- An idle slot (R29, R103). -/
def Slot.reset : Slot :=
  { active := false, pc := 0, g := Vector.replicate 32 0, levels := [], latch := false, wait := 0, lastIssue := 0, yielded := false,
    susp := false, trapPc := 0, trapCause := 0, trapVal := 0, errors := [], entry := none, progress := .none }

def Queue.reset : Queue := { bound := false, chan := 0, words := [], injected := 0, marks := [], freed := 0 }

def AnnEntry.reset : AnnEntry := { count := 0, w := 0, q := 0, peer := none }

/-- Group reset (R29): everything at the Reset values of the field maps; what comes from the launch is zero here (log
3), with one mailbox entry, the least depth of R64. -/
def Group.reset : Group :=
  { well := [], fe := BitVec.allOnes 4096, ticket := 0, tile := Vector.replicate 32 0, hold := 0, busy := 0,
    m := Vector.replicate 8 0, slots := Vector.replicate 4 Slot.reset, q := Vector.replicate 8 Queue.reset,
    instret := 0, inFlight := 0, self := 0, posn := 0, launchReg := 0, logTail := 0, logPub := 0,
    lpat := BitVec.ofNat 64 (0xFAC688 * 32), tilecfg := .f32, fmta := 0, fmtb := 0, scla := 0, sclb := 0,
    astride := 0, bstride := 0, fflags := 0, satf8 := true, rm := 0, jobQueued := 0, jobLast := 0, jobOpen := 0,
    mbox := [.free], arrivals := 0, argument := false, reorder := [], dtable := List.replicate 256 0, amax := Vector.replicate 4 0,
    rings := Vector.replicate 4 [], classMask := 0, anchored := false, ann := List.replicate 64 AnnEntry.reset,
    arrive := Vector.replicate 9 0, sent := 0, consumed := 0, locked := [], logArea := 0, logOvf := 0, logLim := 0,
    spillOvf := 0, log := [], openJobs := [], records := [], nextJob := 1, jobSerial := 0, collNo := Vector.replicate 9 0, lent := [], sealed := false,
    sysact := false, trapact := false, sys := false, trapSlot := 0, trapQueue := [], inj := [], nextInj := 1,
    spill := 0, launch := 0, ended := false, stopped := false, preempt := none, blockedFor := 0, twin := none }

/-- A core that holds no group, with empty core state. -/
def Core.empty (c : Coord) : Core :=
  { at_ := c, vacant := true, retired := false, grp := Group.reset, tlb := [], names := [], view := [], frontier := [],
    tags := [], fnCopies := Vector.replicate 4 none, icache := [], latency := 0, banks := 0, forwards := [],
    counters := Counters.zero, held := [], fills := [],
    swap := none, asleep := none, misses := [], discarded := 0, refusedOrder := 0, evacuating := none,
    failedLinks := 0 }

/-- The annealer's registers at partition boot (R228). -/
def Annealer.reset : Annealer :=
  { tempCurrent := 0x4000, tempStart := 0x4000, alpha := 0xF0, floor := 1, seed := 0, period := 0x100000, round := 0,
    head := 0, left := 0, best := false, wsrc := false, mode := .off, pendingRegs := [], pendingWeights := [],
    reloadTemp := false, ring := List.replicate 256 0, shadow := [], bestPlacement := [], bestEnergy := 0,
    instant := 0, inRound := false, roundMode := .off, phase := 0, pairs := [], phases := 0, energy := 0, accepted := 0, rejected := 0, busy := 0, aborted := 0 }

/-- The counter page at reset (R398): every event counter selects every slot. -/
def CounterPage.reset : CounterPage :=
  { ctl := 0, sel := Vector.replicate 4 0xF0000, ringBase := 0, ringSize := 0, lost := 0, head := 0, tail := 0,
    pending := [], latched := [], absent := Counters.zero }

def FabricPort.reset : FabricPort :=
  { failed := false, credits := Vector.replicate 8 128, owed := Vector.replicate 8 0, taken := [], nextSend := [],
    retry := [], again := [], incoming := [] }

/-- The first placeable core under the default firmware column (R10, R160). -/
def firstCore : Coord := { x := 4, y := 0 }

def GangSchedule.reset : GangSchedule := { origin := 0, length := 50000000, gangs := 1, slice := 0, current := 0, changing := false, last := 0 }

/-- A partition as it boots; its kill ring lies at the end of main memory (log 74), and a 64th of main memory is mapped for it (log 82). -/
def Partition.reset (id : Nat) (dies : List Nat) : Partition :=
  { id := id, dies := dies, cistArea := 1, ann := Annealer.reset, ctr := CounterPage.reset, gang := GangSchedule.reset, kills := [],
    killBase := 2 ^ 39 - 2 ^ 16 * (id % 64 + 1), killSize := 1024,
    mapped := [(2 ^ 33 * (id % 64), if id % 64 = 63 then 2 ^ 33 - 2 ^ 22 else 2 ^ 33)] }

/-- A port's physical function; every window is main memory below the kill rings (log 83). -/
def HostFunction.reset (port : Nat) : HostFunction := { port := port, number := 0, part := 0, base := 0, size := 2 ^ 39 - 2 ^ 22 }

/-- A table that gives every core of the default firmware column a role: one core of each sole role, a translation core for each band
of 100 rows, and supervisors and sump managers on the others (log 84). -/
def Board.roles0 : List RoleEntry :=
  let one (first count : Nat) (r : Role) : RoleEntry := { first := first, count := count, role := r, part := 0, classes := 0 }
  [one 0 1 .hypervisor, one 1 1 .annealerDriver, one 2 1 .launchProcessing, one 3 1 .counters] ++
  (List.range 8).flatMap fun i => [one (400 * i + 4) 1 .translation,
    one (400 * i + 5) (if i = 7 then 395 else 399) (if i % 2 = 0 then .supervisor else .sumpManager)]
/-- The windows of the physical function and the 16 virtual ones of each port (R384; log 83). -/
def Board.windows0 : List HostFunction :=
  (List.range 17).flatMap fun n => [{ HostFunction.reset 0 with number := n }, { HostFunction.reset 1 with number := n }]
/-- The table of log 84, with the module number 0 in a pod of its own. -/
def Board.reset : Board :=
  { module := 0, fwCols := 0, pod := [0], roles := Board.roles0, method := .kernel, retired := [], margins := [], ceilings := (0, 0),
    egress := [], podEgress := [(0, 0)], partitions := [(0, [], 1)], windows := Board.windows0, locked := true, failed := false, kernel := 0,
    patches := [], preserved := none, slow := [] }
/-- What is in force while the table is absent: nothing that it would give (R391). -/
def Board.absent : Board :=
  { Board.reset with roles := [], podEgress := [], partitions := [], windows := [], failed := true }

/-- The module right after module reset: no group, no launch, nothing listed in memory, CYCLE zero (R27, R392). The
focus stands at the first placeable core. Where the spec gives no reset value the log's entry 3 names the one here. -/
def State.reset : State :=
  { core := Core.empty firstCore, others := [], k := 0, ir := 0, stalled := false, agenda := [], ticks := 0, cycle := 0,
    mem := [], poisoned := [], poolEmpty := [], net := [], records := [], homeSeq := [], octets := [], collVectors := [],
    collFailures := [], directory := [], sump := [], frames := [], launches := [], lastGen := 0, indexes := [], nextLaunch := 1,
    queues := [], functions := [HostFunction.reset 0, HostFunction.reset 1, { HostFunction.reset 0 with number := 1 }, { HostFunction.reset 1 with number := 1 }], interrupts := [], hostData := 0, areas := [], lastSweep := 0, part0 := Partition.reset 0 [], parts := [], ptpOffset := 0,
    ports := List.replicate 48 FabricPort.reset, colls := [], chunks := [], chunksOut := [], collsDone := [], unitTail := 0, unitLog := [],
    board := Board.reset, flash := Board.reset }

end Sys2Proof.Machine
end

