-- ==== Sys2Proof/Machine/Ops.lean ====
section
/-! DEFINITION. The named operations over memory, registers, slots and the resident group: bytes and memory (R1),
register access (R13, R18), the end of a word (R101, R102), events (R107), local accesses (R109 to R111), activations
(R152 to R155), taking a trap and returning from one (R335, R344), and kills (R345 to R348). -/

namespace Sys2Proof.Machine

/-- The outcome of a meaning. -/
abbrev Result := Host.Outcome State Fault Refusal

/-! ## Bytes and memory -/

/-- The number that bytes stand for, little-endian (R1). -/
def leNat : List Byte → Nat
  | [] => 0
  | b :: rest => b.toNat + 256 * leNat rest
/-- The low `n` bytes of a number, little-endian (R1). -/
def leBytes : Nat → Nat → List Byte
  | 0, _ => []
  | n + 1, v => BitVec.ofNat 8 v :: leBytes n (v / 256)

/-- One byte; an unlisted address reads as zero (log 6). -/
def Memory.read : Memory → Nat → Byte
  | [], _ => 0
  | (a, b) :: rest, x => if x = a then b else Memory.read rest x
/-- The memory without the byte at an address. -/
def Memory.without : Memory → Nat → Memory
  | [], _ => []
  | (a, b) :: rest, x => if x = a then Memory.without rest x else (a, b) :: Memory.without rest x
/-- The memory with a byte at an address that it does not list. -/
def Memory.insert : Memory → Nat → Byte → Memory
  | [], x, v => [(x, v)]
  | (a, b) :: rest, x, v => if x < a then (x, v) :: (a, b) :: rest else (a, b) :: Memory.insert rest x v
/-- Write one byte, keeping the canonical form. -/
def Memory.write (m : Memory) (x : Nat) (v : Byte) : Memory :=
  if v = 0 then Memory.without m x else Memory.insert (Memory.without m x) x v
/-- Every address at or above `lo`, rising, with no zero byte. -/
def Memory.wfFrom : Nat → Memory → Bool
  | _, [] => true
  | lo, (a, b) :: rest => decide (lo ≤ a) && decide (b ≠ 0) && Memory.wfFrom (a + 1) rest
/-- The canonical form. -/
def Memory.wf (m : Memory) : Bool := m.wfFrom 0
/-- `n` bytes from address `a` up. -/
def Memory.readN (m : Memory) (a : Nat) : Nat → List Byte
  | 0 => []
  | n + 1 => m.read a :: Memory.readN m (a + 1) n
/-- Bytes stored from address `a` up. -/
def Memory.writeN (m : Memory) (a : Nat) : List Byte → Memory
  | [] => m
  | b :: rest => Memory.writeN (m.write a b) (a + 1) rest
/-- The little-endian number in `n` bytes. -/
def Memory.nat (m : Memory) (a n : Nat) : Nat := leNat (m.readN a n)
/-- A memory that holds the given bytes from address zero. -/
def Memory.ofBytes (bs : List Byte) : Memory := Memory.writeN [] 0 bs
/-- Bits of a number. -/
def bits (v hi lo : Nat) : Nat := v / 2 ^ lo % 2 ^ (hi + 1 - lo)

/-- A list with its `i`-th entry replaced. -/
def listSet {α : Type} : List α → Nat → α → List α
  | [], _, _ => []
  | _ :: rest, 0, v => v :: rest
  | x :: rest, i + 1, v => x :: listSet rest i v
/-- A list without its `i`-th entry. -/
def listDrop {α : Type} : List α → Nat → List α
  | [], _ => []
  | _ :: rest, 0 => rest
  | x :: rest, i + 1 => x :: listDrop rest i
/-- The numbers from 0 below `n`. -/
def upTo (n : Nat) : List Nat := List.range n

/-! ## The focus core and its group -/

/-- Store bytes into physical memory, and clear the poison of every word written whole (R355). -/
def State.writePhys (p : Nat) (bs : List Byte) (s : State) : State :=
  { s with mem := s.mem.writeN p bs,
           poisoned := s.poisoned.filter fun w => !(decide (p ≤ 8 * w) && decide (8 * w + 8 ≤ p + bs.length)) }

def State.grp (s : State) : Group := s.core.grp
def State.mapCore (f : Core → Core) (s : State) : State := { s with core := f s.core }
def State.mapGrp (f : Group → Group) (s : State) : State := { s with core := { s.core with grp := f s.core.grp } }
/-- The name of a group (R150). -/
def Group.name (g : Group) : Name := g.self.setWidth 40
/-- The die of a core, 8dy + dx (R9, R399). -/
def dieOf (c : Coord) : Nat := 8 * (c.y / 100) + c.x / 104
/-- The partition of a core (R394). -/
def State.partAt (c : Coord) (s : State) : Partition := (s.parts.find? fun p => p.dies.contains (dieOf c)).getD s.part0
/-- A core that counts events: not one of the firmware column, nor a retired one (R396). -/
def Core.counting (w : Nat) (c : Core) : Bool := !c.retired && decide (4 * w ≤ c.at_.x)
/-- A core that State does not list: it has held no group, and counts what each of these counts (R396; log 144). -/
def State.unlisted (c : Coord) (s : State) : Core :=
  { Core.empty c with counters := if (Core.empty c).counting s.board.fwWidth then (s.partAt c).ctr.absent else Counters.zero }
/-- Make the core at `c` the focus. -/
def State.focus (c : Coord) (s : State) : State :=
  if s.core.at_ = c then s
  else
    match s.others.find? (fun x => x.at_ = c) with
    | some x => { s with core := x, others := s.others.map (fun y => if y.at_ = c then s.core else y) }
    | none => { s with core := s.unlisted c, others := s.core :: s.others }
/-- Do something at the core `c`, and return to the focus core. -/
def State.atCore (c : Coord) (f : State → State) (s : State) : State := (f (s.focus c)).focus s.core.at_
/-- All cores known, the focus core first. -/
def State.cores (s : State) : List Core := s.core :: s.others
/-- Do something to every group, resident or saved. -/
def State.mapGroups (f : Group → Group) (s : State) : State :=
  { s with core := { s.core with grp := f s.core.grp }, others := s.others.map (fun c => { c with grp := f c.grp }),
           frames := s.frames.map fun x => { x with grp := f x.grp } }
/-- Lending ends for the steps that `p` selects, by issuer and job (R295). -/
def Group.unlend (p : Name × Nat → Bool) (g : Group) : Group :=
  { g with lent := (g.lent.map fun r => { r with jobs := r.jobs.filter fun j => !p j }).filter fun r => !r.jobs.isEmpty }
/-- The group is the secondary of two replicas (R357). -/
def Group.isSecondary (g : Group) : Bool := match g.twin with | some t => !t.primary | none => false
/-- The core that holds a group; of two replicas, the primary's (R357). -/
def State.holder (n : Name) (s : State) : Option Core :=
  s.cores.find? (fun c => !c.vacant && c.grp.name == n && !c.grp.isSecondary)
/-- Change the state of a group, resident (both replicas of a twin) or saved. -/
def State.mapGroup (n : Name) (f : Group → Group) (s : State) : State :=
  let onCore (c : Core) : Core := if !c.vacant && c.grp.name == n then { c with grp := f c.grp } else c
  { s with core := onCore s.core, others := s.others.map onCore,
           frames := s.frames.map fun x => if x.name = n then { x with grp := f x.grp } else x }

def State.coreAt (c : Coord) (s : State) : Option Core := s.cores.find? fun x => x.at_ = c
def State.mapAt (c : Coord) (f : Core → Core) (s : State) : State :=
  if s.core.at_ = c then { s with core := f s.core } else { s with others := s.others.map fun x => if x.at_ = c then f x else x }

/-- Do something at the focus core, and if its group is a primary, at the secondary too (R357). -/
def State.bothReplicas (f : State → State) (s : State) : State :=
  match s.grp.twin with
  | some t => if t.primary then (f s).atCore t.partner f else f s
  | none => f s
/-- The ceiling of a 48-bit counter (R397). -/
def counterMax : Nat := 2 ^ 48 - 1
/-- CINST counts `n` instructions that retire (R396, R397). -/
def Counters.addInst (n : Nat) (c : Counters) : Counters :=
  { c with cinst := min (c.cinst + n) counterMax, saturated := c.saturated || counterMax < c.cinst + n }
/-- `n` instructions of the core's group that are in flight retire (R118, R396). -/
def Core.retires (w n : Nat) (c : Core) : Core :=
  { c with grp := { c.grp with inFlight := c.grp.inFlight - n }
           counters := if c.counting w then c.counters.addInst (min n c.grp.inFlight) else c.counters }
/-- All of them have retired (R217, R358). -/
def Core.retiresAll (w : Nat) (c : Core) : Core := c.retires w c.grp.inFlight
/-- The core loses its group, what the group had in flight has retired, and a core that is being evacuated is retired (R395). -/
def Core.vacate (w : Nat) (c : Core) : Core :=
  let c := c.retiresAll w
  { Core.empty c.at_ with retired := c.retired || c.evacuating.isSome, names := c.names, forwards := c.forwards,
                          counters := c.counters, icache := c.icache, discarded := c.discarded, refusedOrder := c.refusedOrder,
                          failedLinks := c.failedLinks }

/-! ## Partitions (R394) -/

/-- The partition of the focus core. -/
def State.part (s : State) : Partition := s.partAt s.core.at_
def State.partById (id : Nat) (s : State) : Partition := (s.parts.find? fun p => p.id = id).getD s.part0
def State.mapPart (id : Nat) (f : Partition → Partition) (s : State) : State :=
  { s with part0 := if s.part0.id = id then f s.part0 else s.part0, parts := s.parts.map fun p => if p.id = id then f p else p }
/-- The annealer of the focus core's partition. -/
def State.ann (s : State) : Annealer := s.part.ann
def State.mapAnn (f : Annealer → Annealer) (s : State) : State := s.mapPart s.part.id fun p => { p with ann := f p.ann }

/-! ## Slots and registers -/

def Group.slot (g : Group) (k : SlotId) : Slot := g.slots.get k.toFin
def Group.mapSlot (k : SlotId) (f : Slot → Slot) (g : Group) : Group :=
  { g with slots := g.slots.set k.toNat (f (g.slot k)) k.isLt }
/-- Do something to each slot, lowest first. -/
def Group.mapSlots (f : SlotId → Slot → Slot) (g : Group) : Group :=
  (((g.mapSlot 0 (f 0)).mapSlot 1 (f 1)).mapSlot 2 (f 2)).mapSlot 3 (f 3)
/-- The issuing slot. -/
def State.slot (s : State) : Slot := s.core.grp.slot s.k
def State.mapSlot (f : Slot → Slot) (s : State) : State := s.mapGrp (·.mapSlot s.k f)
def State.mapSlotOf (k : SlotId) (f : Slot → Slot) (s : State) : State := s.mapGrp (·.mapSlot k f)

/-- A general register; g0 reads as zero (R13). -/
def Slot.get (sl : Slot) (r : GReg) : Word := if r = 0 then 0 else sl.g.get r.toFin
/-- Write a general register; a write to g0 is discarded (R13). -/
def Slot.set (sl : Slot) (r : GReg) (v : Word) : Slot :=
  if r = 0 then sl else { sl with g := sl.g.set r.toNat v r.isLt }
def State.getG (s : State) (r : GReg) : Word := s.slot.get r
def State.setG (s : State) (r : GReg) (v : Word) : State := s.mapSlot (·.set r v)

/-- A mask register; m0 reads as all ones (R18). -/
def Group.mask (g : Group) (r : MReg) : Word := if r = 0 then BitVec.allOnes 64 else g.m.get r.toFin
/-- Write a mask register; a write to m0 is discarded (R18). -/
def Group.setMask (g : Group) (r : MReg) (v : Word) : Group :=
  if r = 0 then g else { g with m := g.m.set r.toNat v r.isLt }

/-- A tile row (R15). -/
def Group.row (g : Group) (r : VReg) : Row := g.tile.get r.toFin
def Group.setRow (g : Group) (r : VReg) (v : Row) : Group := { g with tile := g.tile.set r.toNat v r.isLt }
/-- A row is ready while its hold and busy bits are clear (R17). -/
def Group.ready (g : Group) (r : VReg) : Bool := !g.hold.getLsbD r.toNat && !g.busy.getLsbD r.toNat
/-- The bytes of a row, byte 0 first (R15). -/
def rowBytes (r : Row) : List Byte := leBytes 128 r.toNat
def rowOfBytes (bs : List Byte) : Row := BitVec.ofNat 1024 (leNat bs)

/-- A queue register (R19). -/
def Group.queue (g : Group) (q : BitVec 3) : Queue := g.q.get q.toFin
def Group.setQueue (g : Group) (q : BitVec 3) (v : Queue) : Group := { g with q := g.q.set q.toNat v q.isLt }

/-! ## Counters (R396 to R401) -/

def Counters.bumpAt (sel : Vector Word 4) (slot : Option SlotId) (code n : Nat) (i : Fin 4) (c : Counters) : Counters :=
  let w := sel.get i
  let counts := w.getLsbD 31 && (w.setWidth 10).toNat == code &&
    (match slot with | some k => w.getLsbD (16 + k.toNat) | none => true)
  if counts then
    let v := c.evc.get i + n
    { c with evc := c.evc.set i.val (min v counterMax) i.isLt, saturated := c.saturated || counterMax < v }
  else c
/-- Count `n` occurrences of an event code at the focus core, for a slot or for none. -/
def State.count (code n : Nat) (slot : Option SlotId) (s : State) : State :=
  s.mapCore fun c =>
    if c.counting s.board.fwWidth then
      { c with counters := [(0 : Fin 4), 1, 2, 3].foldl (fun a i => a.bumpAt s.part.ctr.sel slot code n i) c.counters }
    else c

/-! ## The end of a word (R99 to R102, R118) -/

/-- The end processing of R101 for word W on the active levels, innermost first: the levels left and the next word. -/
def endLoops (w : CodeAddr) : List LoopLevel → List LoopLevel × CodeAddr
  | [] => ([], w + 1)
  | l :: outer =>
    if w = l.stop then
      if 1 < l.count.toNat then ({ l with count := l.count - 1 } :: outer, l.start) else endLoops w outer
    else (l :: outer, w + 1)
/-- A word that transfers no control completes (R101). -/
def Slot.finish (sl : Slot) : Slot :=
  let r := endLoops sl.pc sl.levels.reverse
  { sl with levels := r.1.reverse, pc := r.2, progress := .none }
/-- Control is transferred to `t` (R102). -/
def Slot.jump (t : CodeAddr) (sl : Slot) : Slot :=
  { sl with pc := t, progress := .none, levels := sl.levels.filter fun l => decide (l.start ≤ t) && decide (t ≤ l.stop) }
/-- An instruction has completed, and retires as its latency passes (R27, R118; log 5). -/
def State.retire (s : State) : State :=
  s.mapGrp fun g => { g with instret := g.instret + 1, inFlight := g.inFlight + 1 }
/-- An instruction that waits for its completion, a returned access, or a TRAP retires at once (R118, R396). -/
def State.retireNow (s : State) : State :=
  s.mapCore fun c => { c with grp := { c.grp with instret := c.grp.instret + 1 },
                              counters := if c.counting s.board.fwWidth then c.counters.addInst 1 else c.counters }
/-- The instruction completes and the slot goes on with the next word. -/
def State.finish (s : State) : State := (s.mapSlot Slot.finish).retire
/-- The same for an instruction whose description makes it wait for its completion: it retires as it completes (R118). -/
def State.finishNow (s : State) : State := (s.mapSlot Slot.finish).retireNow
/-- The instruction completes and transfers control to `t`. -/
def State.jump (t : CodeAddr) (s : State) : State := (s.mapSlot (Slot.jump t)).retire
/-- gd takes a value and the instruction completes. -/
def State.result (d : GReg) (v : Word) (s : State) : State := (s.setG d v).finish
/-- The instruction, or the event, has to wait; nothing else changes (R92). -/
def State.stall (s : State) : State := { s with stalled := true }

/-! ## Events (R107) -/

def Slot.notify (sl : Slot) : Slot :=
  { sl with latch := true, progress := match sl.progress with | .sleeping _ => .sleeping true | p => p }
/-- An event sets the latch of every slot of the group, and wakes a core that SLEEPC gates (R107, R353). -/
def State.raise (s : State) : State := s.mapGrp (·.mapSlots fun _ sl => sl.notify)
/-- A change made by a slot itself is an event for the others (R107). -/
def State.raiseOthers (s : State) : State := s.mapGrp (·.mapSlots fun k sl => if k = s.k then sl else sl.notify)

/-! ## Privilege (R334) -/

/-- A core of the firmware column (R10), which runs privileged by its role. -/
def State.firmwareCore (s : State) : Bool := s.core.at_.x < 4 * s.board.fwWidth
def State.privileged (s : State) : Bool :=
  s.firmwareCore || s.grp.sys || (s.k == 3 && (s.grp.trapact || s.grp.sysact))
def State.systemLevel (s : State) : Bool := s.firmwareCore || s.grp.sys || (s.k == 3 && s.grp.sysact)

/-! ## The directory (R183) -/

def State.dirEntry (n : Name) (s : State) : Option DirEntry := s.directory.find? (fun e => e.name = n)
def State.mapDir (n : Name) (f : DirEntry → DirEntry) (s : State) : State :=
  { s with directory := s.directory.map fun e => if e.name = n then f e else e }

/-! ## The mailbox and activations (R152 to R155) -/

/-- The local address of a mailbox entry (R152). -/
def mboxAddr (i : Nat) : Nat := 0x800 + 160 * i
/-- The handler-table entry of a type (R24). -/
def Group.handler (g : Group) (t : Nat) : Nat := g.well.nat (0x400 + 4 * t) 4
/-- The type of the message in a mailbox entry: byte 10 of its header (R168). -/
def Group.entryType (g : Group) (i : Nat) : Nat := (g.well.read (mboxAddr i + 10)).toNat
/-- The launch-argument entry is not a message (R155, R164). -/
def Group.isArgument (g : Group) (i : Nat) : Bool := g.argument && i == 0
/-- The slot class that the handler entry of a pending message holds, if it is enabled (R24, R153). -/
def Group.entryClass (g : Group) (i : Nat) : Option SlotId :=
  let e := g.handler (g.entryType i)
  if e.testBit 31 then
    match bits e 30 29 with | 1 => some 1 | 2 => some 2 | _ => none
  else none
/-- Free a mailbox entry; unless it held the launch argument, a message is consumed (R164). -/
def Group.freeEntry (i : Nat) (g : Group) : Group :=
  { g with mbox := listSet g.mbox i .free, consumed := if g.isArgument i then g.consumed else g.consumed + 1,
           argument := g.argument && i != 0,
           twin := g.twin.map fun (t : Twin) => { t with suspects := t.suspects.filter (· ≠ i) } }
/-- The lowest-numbered free entry. -/
def Group.freeMbox (g : Group) : Option Nat := g.mbox.findIdx? (fun e => e == .free)

/-- An idle slot after an activation: its general registers and loop levels are discarded (R105); its trap registers, which
nothing clears, keep their values (R341). -/
def Slot.idle (sl : Slot) : Slot :=
  { Slot.reset with
    lastIssue := sl.lastIssue, trapPc := sl.trapPc, trapCause := sl.trapCause, trapVal := sl.trapVal }
/-- A slot at the start of an activation: registers and loop counters zero, latch clear (R13, R103, R107, R157). -/
def Slot.start (pc : CodeAddr) (sl : Slot) : Slot := { sl.idle with active := true, pc := pc }
/-- Slot 1 or 2 starts the handler of mailbox entry i (R154, R155). -/
def Group.startHandler (k : SlotId) (i : Nat) (g : Group) : Group :=
  let e := g.handler (g.entryType i)
  let h := g.well.nat (mboxAddr i) 32
  let g4 := bits h 87 80 + bits h 90 88 * 2 ^ 8 + bits h 96 91 * 2 ^ 11 + bits h 120 113 * 2 ^ 17
  { (g.mapSlot k fun sl =>
      { ((((sl.start (BitVec.ofNat 24 e)).set 2 (BitVec.ofNat 64 (mboxAddr i))).set 3
          (BitVec.ofNat 64 (bits h 79 40))).set 4 (BitVec.ofNat 64 g4)) with entry := some i }) with
    mbox := listSet g.mbox i .running }
/-- Slot 0 starts main with the launch-argument entry (R155). -/
def Group.startMain (entry : CodeAddr) (g : Group) : Group :=
  g.mapSlot 0 fun sl =>
    { ((((sl.start entry).set 2 0x800).set 3 g.self).set 4 ((g.launchReg.setWidth 32).setWidth 64)) with entry := some 0 }
/-- The slot's activation ends: registers and levels are discarded, its mailbox entry is freed, and the end is an event
for the other slots (R105, R107, R152). -/
def State.endActivation (s : State) : State :=
  let e := s.slot.entry
  let s := s.mapSlot Slot.idle
  let s := match e with | some i => s.mapGrp (Group.freeEntry i) | none => s
  s.raiseOthers
/-- Pending messages whose handler entry is disabled, or of class 0 or 3, are discarded (R153, R154). -/
def Group.discardable (g : Group) : List Nat :=
  (upTo g.mbox.length).filter fun i => (match g.mbox[i]? with | some (.pending _) => true | _ => false) && (g.entryClass i).isNone
def State.discardDisabled (s : State) : State :=
  let l := s.grp.discardable
  if l.isEmpty then s
  else
    let s := s.mapGrp fun g => l.foldl (fun g i => g.freeEntry i) g
    (s.mapCore fun c => { c with discarded := c.discarded + l.length }).count 0x052 l.length none

/-! ## Kills (R345 to R349) -/

/-- The entry word of the group's kind (R158). -/
def State.mainEntry (s : State) : CodeAddr :=
  let ord := bits s.grp.launchReg.toNat 31 0
  match s.launches.find? (fun l => l.id = s.grp.launch) with
  | some l => ((l.kinds.find? (fun k => k.first ≤ ord && ord < k.first + k.count)).map (·.entry)).getD 0
  | none => 0

/-- The partition whose ring holds the kill records of a group: its launch's (R349). -/
def State.killPart (g : Group) (s : State) : Nat := ((s.launches.find? fun l => l.id = g.launch).map (·.part)).getD s.part0.id

def EntryState.held : EntryState → Bool
  | .pending _ | .running => true
  | _ => false
def InjStage.isNotice : InjStage → Bool | .notice _ _ => true | _ => false

def LogEntry.isMarker (e : LogEntry) : Bool := match e.kind with | .relMarker | .fenceMarker => true | _ => false
def LogEntry.isRecord (e : LogEntry) : Bool := !e.isMarker
/-- An answer to a packet: traffic back to the core that sent it, which may stand on another module (R171, R379). -/
def Packet.answer (here : Coord) (id : Nat) (b : Traffic) (p : Packet) : Packet :=
  match p.away with
  | some m => { place := .fabric m, id := id, source := here, body := b, far := some p.source }
  | none => { place := .core p.source, id := id, source := here, body := b }
/-- The packet carries a message for the group, or a notice of one that it has sent. -/
def Packet.isFor (n : Name) (p : Packet) : Bool := match p.body with | .msg m => m.dest == n | .notice m _ => m.source == n | _ => false
/-- The numbers of the messages that have not been accepted or answered, even by what is on its way back (R348): those of the injection
entries, and the replies of a primary that wait for their match, whose entries are free (R193, R357). -/
def Group.withdrawn (net : List Packet) (g : Group) : List Nat :=
  let answered (id : Nat) : Bool := net.any fun p =>
    match p.body with
    | .accept n i => n == g.name && i == id
    | .notice m i => m.source == g.name && i == id
    | _ => false
  let unmatched := ((g.twin.map (·.waiting)).getD []).map fun w => w.2.1
  (g.inj.filter fun e => !e.stage.isNotice && !answered e.id).map (·.id) ++ unmatched.filter fun i => !g.inj.any fun e => decide (e.id = i)
/-- Withdrawn messages are never delivered: their copies leave the network, the ports and the directory (R348). -/
def State.recall (n : Name) (ids : List Nat) (s : State) : State :=
  let stays (p : Packet) : Bool := match p.body with | .msg m => m.source != n || !ids.contains p.id | _ => true
  let port (c : Core) : Core := { c with held := c.held.filter stays, fills := c.fills.filter stays }
  { s with core := port s.core, others := s.others.map port, net := s.net.filter stays,
           directory := s.directory.map fun e => { e with held := e.held.filter stays },
           sump := s.sump.filter fun e => stays e.2 }
/-- A group ended without restart settles its counts at once (R348): what it holds is consumed, what it had not got
accepted is withdrawn, and it counts as idle. -/
def Group.settle (portHeld : Nat) (ids : List Nat) (g : Group) : Group :=
  let boxes := ((upTo g.mbox.length).filter fun i => ((g.mbox[i]?).map EntryState.held).getD false && !g.isArgument i).length
  let streams := [(0 : BitVec 3), 1, 2, 3].foldl (fun n q => n + (g.queue q).marks.length) 0
  let notices := (g.inj.filter fun e => e.stage.isNotice).length
  { g with
    consumed := g.consumed + boxes + g.reorder.length + streams + notices + portHeld
    sent := g.sent - ids.length
    mbox := g.mbox.map fun _ => .free
    argument := false
    reorder := []
    inj := []
    q := Vector.replicate 8 Queue.reset
    twin := none
    ended := true
    stopped := true }

/-- A message ends at a group that has ended: consumed by its state, or, if it was never created, at its entry (R164, R348). -/
def State.countConsumed (n : Name) (s : State) : State :=
  if (s.holder n).isSome || s.frames.any (fun x => x.name == n) then s.mapGroup n fun g => { g with consumed := g.consumed + 1 }
  else s.mapDir n fun e => { e with consumed := e.consumed + 1 }
/-- What waits in the sump for a group that ends has ended there: each message is consumed (R348). -/
def State.endSump (n : Name) (s : State) : State :=
  let mine := s.sump.filter fun e => e.1 = n
  mine.foldl (fun s e => if e.2.isFor n then s.countConsumed n else s) { s with sump := s.sump.filter fun e => decide (e.1 ≠ n) }

/-- What the sealing of a group does to a job that names it (R301, R309): a step or a copy that has still to read its well ends
with code 3; a destination that is being written fails. A collective notes it (R328). -/
def Job.loseOwner (n : Name) (j : Job) : Job :=
  let lost (j : Job) : Job := if j.error = 0 then { j with error := 3 } else j
  match j.kind with
  | .step x => if (x.a.owner = n ∨ x.b.owner = n) ∧ x.held.isNone then lost j else j
  | .copy x =>
    let words := x.rows * (x.width / 8)
    let isWell (e : Endpoint) : Bool := match e with | .well o _ => o == n | .shared _ => false
    if x.next < words then
      let dead := (x.failed.zip x.dests).map fun d => d.1 || (j.running && decide (0 < x.next) && isWell d.2)
      let j : Job := { j with kind := .copy { x with failed := dead } }
      if isWell x.src then lost j else j
    else j
  | .coll x => { j with kind := .coll { x with lost := n :: x.lost } }
  | _ => j
def State.loseOwner (n : Name) (s : State) : State :=
  { s with octets := s.octets.map fun o => { o with jobs := o.jobs.map (·.loseOwner n) } }

/-- The vectors that a killed member has on their way to its parents are dropped (R328). -/
def State.dropVectors (n : Name) (s : State) : State := { s with collVectors := s.collVectors.filter fun v => decide (v.owner ≠ n) }

/-- The 64 bytes of a kill record (R349). -/
def KillRecord.image (k : KillRecord) : List Byte :=
  let core (c : Coord) : Nat := c.x + c.y * 2 ^ 16
  let flag (b : Bool) (n : Nat) : Nat := if b then n else 0
  leBytes 8 k.name.toNat ++ leBytes 4 k.launch ++ leBytes 4 k.ordinal ++
    leBytes 1 k.cause.toNat ++ leBytes 1 (flag k.restarted 1 + flag k.lostWrites 2 + flag k.lostState 4) ++
    leBytes 1 k.slots.toNat ++ leBytes 1 0 ++ leBytes 4 (core k.oldCore) ++ leBytes 4 ((k.newCore.map core).getD 0) ++ leBytes 4 0 ++
    leBytes 8 k.cycle.toNat ++ leBytes 8 k.value.toNat ++ leBytes 4 k.logTail.toNat ++ leBytes 4 k.logPub.toNat ++
    leBytes 4 k.replayed ++ leBytes 4 k.lost
/-- The record of a kill, as the group stands; a system activation runs in slot 3 (R349, R359). -/
def Group.killRecord (cause : Nat) (restart : Bool) (core : Coord) (value cycle : Word) (g : Group) : KillRecord :=
  { name := g.name, launch := bits g.launchReg.toNat 63 32, ordinal := bits g.launchReg.toNat 31 0,
    cause := BitVec.ofNat 8 cause, restarted := restart, lostWrites := false, lostState := cause == 0x46,
    slots := [(0 : SlotId), 1, 2, 3].foldl (fun b k => if (g.slot k).active || (k == 3 && g.sysact) then b ||| (1#4 <<< k.toNat) else b) 0,
    oldCore := core, newCore := none, cycle := cycle,
    value := if cause = 0x40 ∨ cause = 0x41 ∨ cause = 0x42 then value else 0,
    logTail := g.logTail, logPub := g.logPub, replayed := (g.log.filter (·.isRecord)).length, lost := 0 }
/-- The supervisor writes the latest kill record of a name into the partition's kill ring, in the order of the kills, a full
ring from its start again (R349; log 74), and the launch counts it (R387). -/
def State.writeKill (part : Nat) (n : Name) (s : State) : State :=
  let p := s.partById part
  match (upTo p.kills.length).reverse.find? fun i => (p.kills[i]?).any fun k => k.name == n with
  | none => s
  | some i =>
    match p.kills[i]? with
    | some k =>
      let s := s.writePhys (0x1000000000 + p.killBase + 64 * (i % p.killSize)) k.image
      { s with launches := s.launches.map fun (l : Launch) => if !l.ended && l.id % 2 ^ 32 == k.launch then { l with kills := l.kills + 1 } else l }
    | none => s
/-- A kill is recorded. The record of a group that ends is written at once; that of one that restarts, when it has (R346). -/
def State.addKill (part : Nat) (k : KillRecord) (s : State) : State :=
  let s := s.mapPart part fun p => { p with kills := p.kills ++ [k] }
  if k.restarted then s else s.writeKill part k.name

/-- A slot after the group has resumed (R107, R157, R358): an instruction that waited is evaluated again; a marker of REL
stays. -/
def Slot.resumed (tail : BitVec 32) (sl : Slot) : Slot :=
  let sl := { sl.notify with wait := 0 }
  { sl with progress := match sl.progress with
      | .fullEmpty _ _ _ => .none
      | .rel _ placed => .rel tail placed
      | .arriving _ _ => .none
      | .translating _ _ => .none
      | p => p }
def Group.resumeSlots (g : Group) : Group := g.mapSlots fun _ sl => sl.resumed g.logTail
/-- An entry of the directory is no longer moving: the arrivals it held go on (R183). -/
def State.settleEntry (n : Name) (f : DirEntry → DirEntry) (s : State) : State :=
  let held := ((s.dirEntry n).map (·.held)).getD []
  { s.mapDir n (fun e => { f e with moving := false, held := [] }) with net := s.net ++ held }
/-- A slot of a core that has one (R219): a vacant core resumes nothing. -/
def Core.resumed (x : Core) : Core := if x.vacant then { x with swap := none } else { x with swap := none, grp := x.grp.resumeSlots }
/-- Let the traffic that the port held go, in the order of its arrival: it comes up before anything that arrives later (R182,
R219, R232). -/
def State.releasePort (c : Coord) (s : State) : State :=
  match s.coreAt c with
  | none => s
  | some x =>
    let back := (x.fills ++ x.held).map fun (p : Packet) => { p with place := .core c, released := true }
    { s.mapAt c (fun x => { x with held := [], fills := [] }) with net := back ++ s.net }
/-- The core at `c` loses its group. In a swap it keeps its lock, and what its port holds, until the swap ends, and the group's directory
entry is no longer moving (R216, R220). -/
def State.leaveCore (c : Coord) (s : State) : State :=
  match s.coreAt c with
  | none => s
  | some x =>
    if x.swap.isNone then (s.releasePort c).mapAt c (Core.vacate s.board.fwWidth)
    else (s.settleEntry x.grp.name id).mapAt c fun x => { x.vacate s.board.fwWidth with swap := x.swap, held := x.held, fills := x.fills }
/-- One core of a pair resumes. -/
def State.unlock (c : Coord) (s : State) : State :=
  (s.mapAt c Core.resumed).releasePort c
/-- The swap of the focus core aborts (R220): both cores resume their own contexts, with an event and wait counts of zero like
every resumption after a freeze (R107, R157; log 75). The round that runs counts it, that of an evacuation too (log 136). -/
def State.abortSwap (s : State) : State :=
  match s.core.swap with
  | none => s
  | some w =>
    let a := s.core.at_
    let names := ((s.coreAt a).toList ++ (s.coreAt w.partner).toList).filter (fun x => !x.vacant) |>.map fun x => x.grp.name
    let s := names.foldl (fun s n => s.settleEntry n id) s
    let s := ((s.unlock a).unlock w.partner).mapAnn fun x => { x with aborted := x.aborted + 1 }
    (s.count 0x061 1 none).atCore w.partner (State.count 0x061 1 none)

/-- What a kill does to the group on the focus core, in the order of R346: the name is sealed, a pre-emption is abandoned
(R359), every slot stops, outstanding returns are discarded, the octet drops the core's jobs, and the record is begun. A group
that restarts stays stopped until KILL_RESTART; what its port held arrives at a sealed name. One that does not is ended and
its counts are settled, what waits in the sump for it among them (R348); the senders of what its port held are told that it has ended there, and traffic for others goes
on (R221). -/
def State.killHere (cause : Nat) (value : Word) (restart : Bool) (s : State) : State :=
  let s : State := match s.core.swap with | some w => if w.stage = SwapStage.installed then s else s.abortSwap | none => s
  let g := s.grp
  let n := g.name
  let record := g.killRecord cause restart s.core.at_ value (BitVec.ofNat 64 s.cycle)
  let held := s.core.fills ++ s.core.held
  let ends := if restart then [] else held.filter (Packet.isFor n)
  let goOn := (if restart then held else held.filter fun p => !p.isFor n).map fun p => { p with place := .core s.core.at_, released := true }
  let answers := ends.filterMap fun p =>
    match p.body with
    | .msg m => if m.cls = 1 ∨ p.accepted then none else
        some (p.answer s.core.at_ p.id (.accept m.source p.id))
    | _ => none
  let ids := if restart then [] else g.withdrawn s.net
  let part := s.part.id
  let s : State := (((s.mapGroups (Group.unlend fun j => j.1 == n)).recall n ids).loseOwner n).dropVectors n
  let s : State := { s with
    directory := s.directory.map fun (e : DirEntry) => if e.name = n then { e with sealed := true, ended := !restart } else e
    octets := s.octets.map fun o => { o with jobs := o.jobs.filter fun j => j.owner ≠ n }
    net := goOn ++ s.net ++ answers }
  let s := (s.addKill part record).mapCore fun c =>
    { c with
      tags := [], misses := [], asleep := none, held := [], fills := []
      grp :=
        if restart then { c.grp with sealed := true, stopped := true, preempt := none, sysact := false }
        else { ((c.grp.settle ends.length ids).mapSlots fun _ sl => sl.idle) with
               sealed := true, trapact := false, sysact := false, trapQueue := [], preempt := none } }
  if restart then s else s.endSump n
/-- A kill of the group on the focus core. Of two replicas the secondary is given up, and the primary's state is the
group's (R357). -/
def State.kill (cause : Nat) (value : Word) (restart : Bool) (s : State) : State :=
  match s.grp.twin with
  | none => s.killHere cause value restart
  | some t =>
    let c := s.core.at_
    let stale (p : Packet) : Bool :=
      match p.body with | .twinHash _ => p.place == .core c || p.place == .core t.partner | _ => false
    let s : State := { s with net := s.net.filter fun p => !stale p }
    if t.primary then (s.mapAt t.partner (Core.vacate s.board.fwWidth)).killHere cause value restart
    else (s.mapCore (Core.vacate s.board.fwWidth)).atCore t.partner (State.killHere cause value restart)

/-! ## Traps (R335 to R344) -/

/-- Start slot 3 on the oldest pending trap, if slot 3 is idle and no system activation has begun (R335): the trap entry stands at
0x07C4. -/
def State.startTrap (s : State) : State :=
  match s.grp.trapQueue with
  | [] => s
  | k :: rest =>
    if (s.grp.slot 3).active || s.grp.sysact then s
    else
      let e := s.grp.handler 0xF1
      let t := s.grp.slot k
      if e.testBit 31 then
        s.mapGrp fun g =>
          { (g.mapSlot 3 fun sl =>
              (((sl.start (BitVec.ofNat 24 e)).set 2 t.trapCause).set 3 t.trapVal).set 4 (k.setWidth 64)) with
            trapQueue := rest, trapSlot := k, trapact := true }
      else s.kill 0x42 t.trapVal false
/-- TrapTake for slot k (R335): the slot stops and its trap registers are written; a trap in slot 3 kills the group;
otherwise slot 3 starts as soon as it is idle. DESIGN CHOICE (log 94): a trap taken at a BAR that has arrived and waits drops its arrival's
progress, so that after ERET it arrives again (R162, R203, R339). -/
def State.takeTrap (k : SlotId) (cause : Word) (pc : CodeAddr) (v : Word) (s : State) : State :=
  let s := s.mapSlotOf k fun sl =>
    { sl with susp := true, trapPc := pc, trapCause := cause, trapVal := v, progress := .none, wait := 0 }
  -- an access of the slot that waited for a page no longer waits (R247)
  let s := s.mapCore fun c => { c with misses := c.misses.map fun m => if m.slot = k then { m with live := false } else m }
  if k = 3 then s.kill 0x41 v false
  else (s.mapGrp fun g => { g with trapQueue := g.trapQueue ++ [k] }).startTrap
/-- The group of the focus core may take the trap of an error that has returned: it runs, and is not frozen (R221, R339). -/
def State.canTrap (s : State) : Bool := !s.core.vacant && !s.grp.stopped && s.core.swap.isNone && !s.grp.sysact
/-- An instruction that has been issued, and completes when another unit confirms it (R350, R352, R353). -/
def Progress.issued : Progress → Bool
  | .sealing | .committing | .sleeping _ => true
  | _ => false
/-- The slot runs, and stands at an instruction boundary (R339). -/
def Slot.atBoundary (sl : Slot) : Bool := sl.active && !sl.susp && !sl.progress.issued
/-- Each slot that can takes the trap of its oldest access that has returned an error (R339). -/
def State.takeErrors (s : State) : State :=
  [(0 : SlotId), 1, 2, 3].foldl (fun s k =>
    let sl := s.grp.slot k
    match sl.errors with
    | [] => s
    | (tag, a) :: rest =>
      if !sl.atBoundary || !s.canTrap then s
      else
        (s.mapSlotOf k fun sl => { sl with errors := rest }).takeTrap k (BitVec.ofNat 64 (2 ^ 63 + tag % 8 * 2 ^ 8 + 0x0E)) sl.pc a) s
/-- A trap of the issuing slot at its own word. -/
def State.trap (code : Nat) (v : Word) (s : State) : State :=
  s.takeTrap s.k (BitVec.ofNat 64 code) s.slot.pc v
/-- The instruction word, the value of traps whose field a names no general register (R337). -/
def State.irVal (s : State) : Word := s.ir.setWidth 64
def State.illegal (v : Word) (s : State) : State := s.trap 0x03 v
def State.privTrap (s : State) : State := s.trap 0x02 s.irVal
def State.reservedTrap (s : State) : State := s.trap 0x01 s.irVal

/-- A trap found by a check: its code and value. -/
abbrev Failure := Option (Nat × Word)
/-- Take the trap of a failing check, or go on. -/
def State.check (f : Failure) (go : State → State) (s : State) : State :=
  match f with
  | some (c, v) => s.trap c v
  | none => go s
/-- Go on at system level, or take the privileged-instruction trap (R91, R334). -/
def State.asSystem (go : State → State) (s : State) : State := if s.systemLevel then go s else s.privTrap

/-! ## Local accesses (R109, R110) -/

/-- The well range of the log carve-out, LOGAREA (R261). -/
def Group.logCarve (g : Group) : Nat × Nat := (bits g.logArea.toNat 31 16, bits g.logArea.toNat 13 0)
/-- Do n bytes at a meet m bytes at b? -/
def overlaps (a n b m : Nat) : Bool := decide (a < b + m) && decide (b < a + n) && decide (0 < n) && decide (0 < m)
/-- Well protection (R21). -/
def Group.protected (g : Group) (store : Bool) (a n : Nat) : Bool :=
  let l := g.logCarve
  overlaps a n l.1 l.2 || (store && (overlaps a n 0 0x400 || overlaps a n 0x800 (160 * g.mbox.length)))
/-- CheckLocal (R109) on an exact address, with the TRAPVAL of a failure. -/
def Group.checkLocal (g : Group) (store : Bool) (a : Int) (n align : Nat) (v : Word) : Failure :=
  if a < 0 ∨ 0x10000 < a + n then some (0x04, v)
  else if a.toNat % align ≠ 0 then some (0x05, v)
  else if g.protected store a.toNat n then some (0x06, v)
  else none
/-- The local address of a base register and an offset (R20, R76). -/
def State.localAddr (s : State) (a : GReg) (imm : BitVec 16) : Word := s.getG a + imm.signExtend 64

/-- The physical address behind a local address of the overflow window (R22, R243). -/
def Group.windowAddr (g : Group) (a : Nat) : Nat := bits g.spillOvf.toNat 51 15 * 2 ^ 15 + (a - 0x8000)
/-- One byte of the local space. -/
def State.localByte (s : State) (a : Nat) : Byte :=
  if a < 0x8000 then s.grp.well.read a else s.mem.read (s.grp.windowAddr a)
def State.localBytes (s : State) (a : Nat) : Nat → List Byte
  | 0 => []
  | n + 1 => s.localByte a :: State.localBytes s (a + 1) n
/-- A write into the well discards copy i of a user table if it touches the table (R148). DESIGN CHOICE (log 120): also where the bytes stay
as they were. -/
def Core.dropCopy (a n : Nat) (c : Core) (i : Fin 4) : Core :=
  match c.fnCopies.get i with
  | some t => if overlaps a n t 3088 then { c with fnCopies := c.fnCopies.set i.val none i.isLt } else c
  | none => c
def Core.dropCopies (a n : Nat) (c : Core) : Core := [(0 : Fin 4), 1, 2, 3].foldl (fun c i => c.dropCopy a n i) c
/-- A byte as the well keeps it: bits [79:40] of a channel-table entry, and [26:24] of a handler-table entry, read as zero (R24,
R167). -/
def keptByte (a : Nat) (b : Byte) : Byte :=
  if a < 0x400 ∧ 5 ≤ a % 16 ∧ a % 16 < 10 then 0 else if 0x400 ≤ a ∧ a < 0x800 ∧ a % 4 = 3 then b &&& 0xF8 else b
/-- A well image as the well keeps it. -/
def placedBytes (m : Memory) : Memory := m.filterMap fun c => if keptByte c.1 c.2 = 0 then none else some (c.1, keptByte c.1 c.2)
def keptBytes : Nat → List Byte → List Byte
  | _, [] => []
  | a, b :: rest => keptByte a b :: keptBytes (a + 1) rest
/-- Store bytes into the well of the focus core, by any agent. -/
def State.writeWell (a : Nat) (bs : List Byte) (s : State) : State :=
  s.mapCore fun c =>
    let c := c.dropCopies a bs.length
    { c with grp := { c.grp with well := c.grp.well.writeN a (keptBytes a bs) } }
/-- Change the focus core's group in a way that writes channel c's entry, a write into the well (R148, R167). -/
def State.mapTable (c : BitVec 6) (f : Group → Group) (s : State) : State :=
  s.mapCore fun x => { x.dropCopies (16 * c.toNat) 16 with grp := f x.grp }
/-- Store bytes into the local space, split at the window's boundary (R110). -/
def State.storeLocal (a : Nat) (bs : List Byte) (s : State) : State :=
  let inWell := bs.take (0x8000 - a)
  let s := if inWell.isEmpty then s else s.writeWell a inWell
  let rest := bs.drop (0x8000 - a)
  if rest.isEmpty then s
  else s.writePhys (s.grp.windowAddr (max a 0x8000)) rest
/-- A write of the group's own instructions waits while it touches a lent range (R295). -/
def Group.lentAt (g : Group) (a n : Nat) : Bool := g.lent.any fun r => overlaps a n r.lo (r.hi - r.lo)

/-! ## Full/empty bits (R23) -/

/-- Is well word w full? -/
def Group.isFull (g : Group) (w : Nat) : Bool := g.fe.getLsbD w
def Group.setFull (w : Nat) (full : Bool) (g : Group) : Group :=
  { g with fe := if full then g.fe ||| (1#4096 <<< w) else g.fe &&& ~~~(1#4096 <<< w) }

/-! ## Floating-point state (R28, R38) -/

def State.rmode (s : State) : RMode := RMode.ofBits s.grp.rm
/-- Raise FCSR flags: they are sticky (R28). -/
def State.raiseFlags (f : Flags) (s : State) : State := s.mapGrp fun g => { g with fflags := g.fflags ||| f }

end Sys2Proof.Machine
end

