-- ==== Sys2Proof/Machine/Alu.lean ====
section
/-! DEFINITION. The integer register and immediate instructions (spec 06 R95, R96; spec 03 R31, R49). None of the
register operations traps or raises a flag. -/

namespace Sys2Proof.Machine

/-! ## Shared operations on 64-bit values -/
/-- A truth value as a register value. -/
def ofBool (b : Bool) : Word := if b then 1 else 0
/-- gd takes f of ga and gb, and the instruction completes (R95). -/
def State.alu2 (d a b : GReg) (f : Word → Word → Word) (s : State) : State := s.result d (f (s.getG a) (s.getG b))
/-- gd takes f of ga, and the instruction completes. -/
def State.alu1 (d a : GReg) (f : Word → Word) (s : State) : State := s.result d (f (s.getG a))
/-- The signed quotient of R31. -/
def divS (a b : Word) : Word := if b = 0 then BitVec.allOnes 64 else BitVec.ofInt 64 (Int.tdiv a.toInt b.toInt)
def divU (a b : Word) : Word := if b = 0 then BitVec.allOnes 64 else a / b
/-- The signed remainder of R31. -/
def remS (a b : Word) : Word := if b = 0 then a else BitVec.ofInt 64 (Int.tmod a.toInt b.toInt)
def remU (a b : Word) : Word := if b = 0 then a else a % b
/-- The shift amount in the low six bits (R95). -/
def shamt (b : Word) : Nat := b.toNat % 64
/-- Leading zeros from bit `n` down; 64 of them when the word is zero. -/
def clzFrom (a : Word) : Nat → Nat
  | 0 => 0
  | n + 1 => if a.getLsbD n then 0 else 1 + clzFrom a n
/-- Trailing zeros from bit 0 up, over `n` bits. -/
def ctzFrom (a : Word) (i : Nat) : Nat → Nat
  | 0 => 0
  | n + 1 => if a.getLsbD i then 0 else 1 + ctzFrom a (i + 1) n
/-- The one bits among the low `n`. -/
def onesBelow (a : Word) : Nat → Nat
  | 0 => 0
  | n + 1 => (if a.getLsbD n then 1 else 0) + onesBelow a n
def popc (a : Word) : Word := BitVec.ofNat 64 (onesBelow a 64)
/-- A shift by an immediate: nonzero imm[15:6] is an illegal operand with the word in TRAPVAL (R49, R91). -/
def State.shiftImm (d a : GReg) (imm : BitVec 16) (f : Word → Nat → Word) (s : State) : State :=
  if imm.extractLsb' 6 10 ≠ 0 then s.illegal s.irVal
  else s.result d (f (s.getG a) (imm.toNat % 64))

/-! ## Register operations -/
/-- ADD (R95). -/
def execAdd (d a b : GReg) (s : State) : Result := .next (s.alu2 d a b fun a b => a + b)
/-- SUB (R95). -/
def execSub (d a b : GReg) (s : State) : Result := .next (s.alu2 d a b fun a b => a - b)
/-- AND (R95). -/
def execAnd (d a b : GReg) (s : State) : Result := .next (s.alu2 d a b fun a b => a &&& b)
/-- OR (R95). -/
def execOr (d a b : GReg) (s : State) : Result := .next (s.alu2 d a b fun a b => a ||| b)
/-- XOR (R95). -/
def execXor (d a b : GReg) (s : State) : Result := .next (s.alu2 d a b fun a b => a ^^^ b)
/-- ANDN (R95). -/
def execAndn (d a b : GReg) (s : State) : Result := .next (s.alu2 d a b fun a b => a &&& ~~~b)
/-- ORN (R95). -/
def execOrn (d a b : GReg) (s : State) : Result := .next (s.alu2 d a b fun a b => a ||| ~~~b)
/-- SLL (R95). -/
def execSll (d a b : GReg) (s : State) : Result := .next (s.alu2 d a b fun a b => a <<< shamt b)
/-- SRL (R95). -/
def execSrl (d a b : GReg) (s : State) : Result := .next (s.alu2 d a b fun a b => a >>> shamt b)
/-- SRA (R95). -/
def execSra (d a b : GReg) (s : State) : Result := .next (s.alu2 d a b fun a b => a.sshiftRight (shamt b))
/-- ROL (R95). -/
def execRol (d a b : GReg) (s : State) : Result := .next (s.alu2 d a b fun a b => a.rotateLeft (shamt b))
/-- ROR (R95). -/
def execRor (d a b : GReg) (s : State) : Result := .next (s.alu2 d a b fun a b => a.rotateRight (shamt b))
/-- MUL (R95). -/
def execMul (d a b : GReg) (s : State) : Result := .next (s.alu2 d a b fun a b => a * b)
/-- MULH (R95). -/
def execMulh (d a b : GReg) (s : State) : Result := .next (s.alu2 d a b fun a b => BitVec.ofInt 64 (a.toInt * b.toInt / 2 ^ 64))
/-- MULHU (R95). -/
def execMulhu (d a b : GReg) (s : State) : Result := .next (s.alu2 d a b fun a b => BitVec.ofNat 64 (a.toNat * b.toNat / 2 ^ 64))
/-- DIV (R31). -/
def execDiv (d a b : GReg) (s : State) : Result := .next (s.alu2 d a b fun a b => divS a b)
/-- DIVU (R31). -/
def execDivu (d a b : GReg) (s : State) : Result := .next (s.alu2 d a b fun a b => divU a b)
/-- REM (R31). -/
def execRem (d a b : GReg) (s : State) : Result := .next (s.alu2 d a b fun a b => remS a b)
/-- REMU (R31). -/
def execRemu (d a b : GReg) (s : State) : Result := .next (s.alu2 d a b fun a b => remU a b)
/-- MIN (R95). -/
def execMin (d a b : GReg) (s : State) : Result := .next (s.alu2 d a b fun a b => if a.slt b then a else b)
/-- MAX (R95). -/
def execMax (d a b : GReg) (s : State) : Result := .next (s.alu2 d a b fun a b => if a.slt b then b else a)
/-- MINU (R95). -/
def execMinu (d a b : GReg) (s : State) : Result := .next (s.alu2 d a b fun a b => if a.ult b then a else b)
/-- MAXU (R95). -/
def execMaxu (d a b : GReg) (s : State) : Result := .next (s.alu2 d a b fun a b => if a.ult b then b else a)
/-- SLT (R95). -/
def execSlt (d a b : GReg) (s : State) : Result := .next (s.alu2 d a b fun a b => ofBool (a.slt b))
/-- SLTU (R95). -/
def execSltu (d a b : GReg) (s : State) : Result := .next (s.alu2 d a b fun a b => ofBool (a.ult b))
/-- SEQ (R95). -/
def execSeq (d a b : GReg) (s : State) : Result := .next (s.alu2 d a b fun a b => ofBool (a == b))
/-- SNE (R95). -/
def execSne (d a b : GReg) (s : State) : Result := .next (s.alu2 d a b fun a b => ofBool (a != b))
/-- MOVZ (R95): otherwise gd is unchanged. -/
def execMovz (d a b : GReg) (s : State) : Result :=
  .next (if s.getG b = 0 then s.result d (s.getG a) else s.finish)
/-- MOVNZ (R95): otherwise gd is unchanged. -/
def execMovnz (d a b : GReg) (s : State) : Result :=
  .next (if s.getG b ≠ 0 then s.result d (s.getG a) else s.finish)
/-- CLZ (R95). -/
def execClz (d a : GReg) (s : State) : Result := .next (s.alu1 d a fun a => BitVec.ofNat 64 (clzFrom a 64))
/-- CTZ (R95). -/
def execCtz (d a : GReg) (s : State) : Result := .next (s.alu1 d a fun a => BitVec.ofNat 64 (ctzFrom a 0 64))
/-- POPC (R95). -/
def execPopc (d a : GReg) (s : State) : Result := .next (s.alu1 d a fun a => popc a)
/-- BREV (R95). -/
def execBrev (d a : GReg) (s : State) : Result := .next (s.alu1 d a fun a => a.reverse)
/-- BSWAP (R95). -/
def execBswap (d a : GReg) (s : State) : Result := .next (s.alu1 d a fun a => BitVec.ofNat 64 (leNat (leBytes 8 a.toNat).reverse))
/-- SXB (R95). -/
def execSxb (d a : GReg) (s : State) : Result := .next (s.alu1 d a fun a => (a.setWidth 8).signExtend 64)
/-- SXH (R95). -/
def execSxh (d a : GReg) (s : State) : Result := .next (s.alu1 d a fun a => (a.setWidth 16).signExtend 64)
/-- SXW (R95). -/
def execSxw (d a : GReg) (s : State) : Result := .next (s.alu1 d a fun a => (a.setWidth 32).signExtend 64)
/-- ZXW (R95). -/
def execZxw (d a : GReg) (s : State) : Result := .next (s.alu1 d a fun a => (a.setWidth 32).setWidth 64)

/-! ## Immediate operations (R96) -/
/-- ADDI (R96, R49). -/
def execAddi (d a : GReg) (imm : BitVec 16) (s : State) : Result := .next (s.alu1 d a fun a => a + imm.signExtend 64)
/-- ANDI (R96, R49). -/
def execAndi (d a : GReg) (imm : BitVec 16) (s : State) : Result := .next (s.alu1 d a fun a => a &&& imm.setWidth 64)
/-- ORI (R96, R49). -/
def execOri (d a : GReg) (imm : BitVec 16) (s : State) : Result := .next (s.alu1 d a fun a => a ||| imm.setWidth 64)
/-- XORI (R96, R49). -/
def execXori (d a : GReg) (imm : BitVec 16) (s : State) : Result := .next (s.alu1 d a fun a => a ^^^ imm.setWidth 64)
/-- SLTI (R96, R49). -/
def execSlti (d a : GReg) (imm : BitVec 16) (s : State) : Result := .next (s.alu1 d a fun a => ofBool (a.slt (imm.signExtend 64)))
/-- SLTIU (R96, R49). -/
def execSltiu (d a : GReg) (imm : BitVec 16) (s : State) : Result := .next (s.alu1 d a fun a => ofBool (a.ult (imm.signExtend 64)))
/-- LIH (R96): the sign extension of imm << 16. -/
def execLih (d : GReg) (imm : BitVec 16) (s : State) : Result :=
  .next (s.result d ((imm ++ (0 : BitVec 16)).signExtend 64))
/-- SLLI (R96, R49). -/
def execSlli (d a : GReg) (imm : BitVec 16) (s : State) : Result := .next (s.shiftImm d a imm fun a n => a <<< n)
/-- SRLI (R96, R49). -/
def execSrli (d a : GReg) (imm : BitVec 16) (s : State) : Result := .next (s.shiftImm d a imm fun a n => a >>> n)
/-- SRAI (R96, R49). -/
def execSrai (d a : GReg) (imm : BitVec 16) (s : State) : Result := .next (s.shiftImm d a imm fun a n => a.sshiftRight n)
/-- RORI (R96, R49). -/
def execRori (d a : GReg) (imm : BitVec 16) (s : State) : Result := .next (s.shiftImm d a imm fun a n => a.rotateRight n)

end Sys2Proof.Machine
end

