-- ==== Sys2Proof/Machine/Channels.lean ====
section
/-! DEFINITION. Channel-table entries (R167), header flits (R168), injection entries (R171), and words entering and
leaving the queue registers with the credits they return (R176, R196). -/

namespace Sys2Proof.Machine

/-! ## Channel-table entries -/

/-- The fields of a channel-table entry (R167). -/
structure Chan where
  txseq : Nat
  rxseq : Nat
  credits : Nat
  queue : Nat
  weight : Nat
  kind : Nat
  isOpen : Bool
  peer : Name
  deriving DecidableEq, Repr

def Chan.closed : Chan := ⟨0, 0, 0, 0, 0, 0, false, 0⟩
/-- The 128-bit value of an entry (R167). -/
def Chan.encode (c : Chan) : Nat :=
  c.peer.toNat + (if c.isOpen then 2 ^ 80 else 0) + c.kind * 2 ^ 81 + c.weight * 2 ^ 83 + c.queue * 2 ^ 87 +
    c.credits * 2 ^ 90 + c.rxseq * 2 ^ 96 + c.txseq * 2 ^ 112
def Chan.decode (v : Nat) : Chan :=
  ⟨bits v 127 112, bits v 111 96, bits v 95 90, bits v 89 87, bits v 86 83, bits v 82 81, v.testBit 80, BitVec.ofNat 40 v⟩
/-- Entry c occupies well bytes 16c to 16c + 15 (R167). -/
def Group.chan (g : Group) (c : BitVec 6) : Chan := Chan.decode (g.well.nat (16 * c.toNat) 16)
def Group.setChan (c : BitVec 6) (v : Chan) (g : Group) : Group :=
  { g with well := g.well.writeN (16 * c.toNat) (leBytes 16 v.encode) }
/-- The kinds of a channel (R167). -/
def Chan.isMessage (c : Chan) : Bool := c.isOpen && c.kind == 0
def Chan.isStream (c : Chan) : Bool := c.isOpen && c.kind == 1
def Chan.isRegister (c : Chan) : Bool := c.isOpen && c.kind == 2

/-! ## Header flits and mailbox images -/

/-- A message with every field the descriptor does not give at its plain value (R168). -/
def Msg.plain (dest source : Name) (mtype : BitVec 8) (cls : BitVec 3) (data : List Byte) : Msg :=
  { dest := dest, source := source, mtype := mtype, cls := cls, chan := 0, seqd := false, seq := 0, len := data.length,
    rel := false, tail := 0, row := 0, rslot := 0xFF, otype := 0, fwd := 0, data := data }
/-- The header flit as a 256-bit number, the check field reading as zero (R168). -/
def Msg.header (m : Msg) : Nat :=
  m.dest.toNat + m.source.toNat * 2 ^ 40 + m.mtype.toNat * 2 ^ 80 + m.cls.toNat * 2 ^ 88 + m.chan.toNat * 2 ^ 91 +
    m.seq.toNat * 2 ^ 97 + m.len * 2 ^ 113 + (if m.rel then 2 ^ 121 else 0) + m.tail.toNat * 2 ^ 128 +
    m.row.toNat * 2 ^ 176 + (if m.seqd then 2 ^ 181 else 0) + m.fwd.toNat * 2 ^ 182 + m.rslot.toNat * 2 ^ 184 +
    m.otype.toNat * 2 ^ 192
/-- The message that a header and a payload image hold (R168). -/
def Msg.ofImage (h : Nat) (payload : List Byte) : Msg :=
  { dest := BitVec.ofNat 40 h, source := BitVec.ofNat 40 (bits h 79 40), mtype := BitVec.ofNat 8 (bits h 87 80),
    cls := BitVec.ofNat 3 (bits h 90 88), chan := BitVec.ofNat 6 (bits h 96 91), seqd := h.testBit 181,
    seq := BitVec.ofNat 16 (bits h 112 97), len := bits h 120 113, rel := h.testBit 121,
    tail := BitVec.ofNat 32 (bits h 159 128), row := BitVec.ofNat 5 (bits h 180 176),
    rslot := BitVec.ofNat 8 (bits h 191 184), otype := BitVec.ofNat 8 (bits h 199 192),
    fwd := BitVec.ofNat 2 (bits h 183 182), data := payload.take (bits h 120 113) }
/-- The 160 bytes of a mailbox entry: the header and the payload, the unused bytes zero (R152, R169). -/
def Msg.image (m : Msg) : List Byte :=
  leBytes 32 m.header ++ m.data ++ List.replicate (128 - m.data.length) 0

/-! ## Injection entries -/

/-- The entries of one injection queue that are in use. -/
def Group.inUse (g : Group) (k : InjKind) : Nat := (g.inj.filter fun e => e.kind == k).length
def Group.injFree (g : Group) (k : InjKind) : Bool :=
  match k with
  | .request => g.inUse k < Config.requestEntries
  | .register => g.inUse k < Config.registerEntries
  | .reply => g.inUse k < Config.replyEntries
  | .stream _ => true
/-- Take an injection entry; a releasing message waits for the LOGTAIL read now (R190). Sent adds 1 (R164). -/
def Group.inject (k : InjKind) (m : Msg) (g : Group) : Group :=
  let e : InjEntry := { id := g.nextInj, kind := k, msg := m, stage := .waiting (if m.rel then some g.logTail else none) }
  { g with inj := g.inj ++ [e], nextInj := g.nextInj + 1, sent := g.sent + 1 }
/-- Sequence a message on channel c (R169). -/
def Group.sequence (c : BitVec 6) (m : Msg) (g : Group) : Msg × Group :=
  let e := g.chan c
  ({ m with seqd := true, seq := BitVec.ofNat 16 e.txseq }, g.setChan c { e with txseq := (e.txseq + 1) % 2 ^ 16 })

/-! ## The networks -/

/-- Where a sender routes traffic for a name (R181): by its name cache, or to the directory home; another module's
names leave by the fabric (R183). -/
def State.route (n : Name) (s : State) : Place :=
  match s.core.names.find? (fun e => e.1 = n) with
  | some (_, m, c) => if m = s.board.module then .core c else .fabric m
  | none =>
    let m := bits n.toNat 39 28
    if m = s.board.module then .directory else .fabric m
/-- The core that a sender knows for a name of another module (R379). -/
def State.farCore (n : Name) (s : State) : Option Coord :=
  (s.core.names.find? fun e => e.1 = n).bind fun e => if e.2.1 = s.board.module then none else some e.2.2
def State.emit (p : Packet) (s : State) : State := { s with net := s.net ++ [p] }
def State.emitTo (n : Name) (id : Nat) (b : Traffic) (s : State) : State :=
  s.emit { place := s.route n, id := id, source := s.core.at_, body := b, far := s.farCore n }
/-- Answer a packet, from the router of a given core (R171, R183). -/
def State.answerBy (here : Coord) (p : Packet) (id : Nat) (b : Traffic) (s : State) : State := s.emit (p.answer here id b)
/-- Answer a packet from the focus core (R171, R182). -/
def State.answer (p : Packet) (id : Nat) (b : Traffic) (s : State) : State := s.answerBy s.core.at_ p id b
/-- The module that a name gives (R150, R183). -/
def deviceOf (n : Name) : Nat := bits n.toNat 39 28

/-- The name that traffic is for. -/
def Traffic.to? (b : Traffic) : Option Name :=
  match b with
  | .msg m => some m.dest
  | .accept n _ => some n
  | .bounce n _ => some n
  | .notice m _ => some m.source
  | .credit n _ _ => some n
  | .weight n _ _ _ _ => some n
  | .position n _ _ _ => some n
  | .discarded n => some n
  | _ => none
/-- The class that traffic travels on (R170). -/
def Traffic.class (b : Traffic) : Nat :=
  match b with
  | .msg m => m.cls.toNat
  | .accept .. | .bounce .. | .notice .. | .credit .. => 1
  | .access _ (.data ..) | .access _ (.done ..) => 5
  | .access .. => 4
  | _ => 6

/-! ## Queue words -/

/-- Take `n` words off the marks of the stream messages that hold them: the marks left, and how many messages ended. -/
def takeMarks : List Nat → Nat → List Nat × Nat
  | [], _ => ([], 0)
  | w :: rest, n => if w ≤ n then let r := takeMarks rest (n - w); (r.1, r.2 + 1) else ((w - n) :: rest, 0)
/-- Remove the n oldest words of an inbound queue: messages whose last word leaves are consumed (R164), and credits
return when 8 or more words are freed or the queue becomes empty (R176). DESIGN CHOICE (log 57): the secondary of a twin frees its
words too and returns no credit, for its outputs go no further than their hash (R357). -/
def State.dequeue (q : BitVec 3) (n : Nat) (s : State) : State :=
  let v := s.grp.queue q
  let r := takeMarks v.marks n
  let words := v.words.drop n
  let freed := v.freed + n
  let pay := decide (8 ≤ freed) || words.isEmpty
  let s := s.mapGrp fun g =>
    { g.setQueue q { v with words := words, marks := r.1, freed := if pay then 0 else freed } with
      consumed := g.consumed + r.2 }
  if pay && !s.grp.isSecondary then s.emitTo (s.grp.chan v.chan).peer 0 (.credit (s.grp.chan v.chan).peer v.chan freed) else s
/-- Append words to a queue register. -/
def Group.enqueue (q : BitVec 3) (ws : List Word) (g : Group) : Group :=
  let v := g.queue q
  g.setQueue q { v with words := v.words ++ ws }
def isInbound (q : BitVec 5) : Bool := q.toNat < 4
def isOutbound (q : BitVec 5) : Bool := 4 ≤ q.toNat && q.toNat < 8
/-- The failure of an access to a queue that is unbound, of the wrong direction or out of range (R83, R177). -/
def Group.queueFault (g : Group) (inbound : Bool) (q : BitVec 5) : Failure :=
  if (if inbound then isInbound q else isOutbound q) && (g.queue (q.setWidth 3)).bound then none
  else some (0x03, q.setWidth 64)

end Sys2Proof.Machine
end

