-- ==== Sys2Proof/Machine/Log.lean ====
section
/-! DEFINITION. Physical memory and homes (spec 15 R235 to R238, R256), the store log (spec 16 R252 to R261), releases and
the view cache (R242, R262 to R268), and the records in flight between a log and its homes (R257, R258, R270). -/

namespace Sys2Proof.Machine

/-! ## The physical map (R235, R236) -/

/-- The regions of the physical map. -/
inductive Region | pool (cluster off : Nat) | cistern (slice off : Nat) | main (off : Nat) | far (off : Nat) | remote (module off : Nat) | reserved
  deriving DecidableEq, Repr
def regionOf (a : Nat) : Region :=
  if a < 0x100000000 then .reserved
  else if a < 0x1A2800000 then .pool ((a - 0x100000000) / 0x10000) (a % 0x10000)
  else if a < 0x200000000 then .reserved
  else if a < 0x48A000000 then .cistern ((a - 0x200000000) / 0x40000) (a % 0x40000)
  else if a < 0x1000000000 then .reserved
  else if a < 0x9000000000 then .main (a - 0x1000000000)
  else if a < 0x100000000000 then .reserved
  else if a < 0x140000000000 then .far (a - 0x100000000000)
  else if a < 0x8000000000000 then .reserved
  else .remote (bits a 50 39) (bits a 38 0)
/-- The home of an address (R256), as a number: the region, then the pool quarter, slice bank, device or channel. -/
def homeOf (a : Nat) : Nat :=
  match regionOf a with
  | .pool c b => 2 ^ 40 + 4 * c + bits b 6 5
  | .cistern c b => 2 * 2 ^ 40 + 8 * c + bits b 7 5
  | .main o => 3 * 2 ^ 40 + bits o 14 8
  | .far o => 4 * 2 ^ 40 + bits o 12 8
  | .remote m o => 5 * 2 ^ 40 + 128 * m + bits o 14 8
  | .reserved => 0
def isRemote (a : Nat) : Bool := match regionOf a with | .remote _ _ => true | _ => false
/-- The view cache holds lines of cistern, main, far and remote memory (R242). -/
def viewable (a : Nat) : Bool := match regionOf a with | .pool _ _ => false | .reserved => false | _ => true
/-- A byte that no access reaches: a reserved range, the part of a cistern slice beyond the addressable one (R235, R237). -/
def State.unreachable (s : State) (a : Nat) : Bool :=
  match regionOf a with
  | .reserved => true
  | .cistern c b => decide (0x2000 * (s.partAt ⟨4 * (c % 208), 4 * (c / 208)⟩).cistArea ≤ b)
  | _ => false
/-- The one address of a byte that two physical addresses name: a remote address of this module is its main memory (R236). -/
def State.norm (s : State) (a : Nat) : Nat :=
  match regionOf a with
  | .remote m o => if m = s.board.module then 0x1000000000 + o else a
  | _ => a
/-- What a byte of memory holds before anything is written: another module's bytes are free values (log 13). -/
def initialByte (p : Nat) : Byte := if isRemote p then Config.remoteByte p else 0
/-- A byte at its home. `mem` lists how memory differs from what it held at first. -/
def State.homeByte (s : State) (a : Nat) : Byte := s.mem.read (s.norm a) ^^^ initialByte (s.norm a)
/-- Bytes from an address up as `mem` keeps them. -/
def memBytes : Nat → List Byte → List Byte
  | _, [] => []
  | p, b :: rest => (b ^^^ initialByte p) :: memBytes (p + 1) rest
/-- Write bytes at their home. -/
def State.writeHome (a : Nat) (bs : List Byte) (s : State) : State := s.writePhys (s.norm a) (memBytes (s.norm a) bs)
/-- The home of a physical address (R256). -/
def State.homeAt (s : State) (a : Nat) : Nat := homeOf (s.norm a)
/-- A home on another module (R264). -/
def LogEntry.away (e : LogEntry) : Bool := decide (5 * 2 ^ 40 ≤ e.home)
/-- The other module that a home lies on. -/
def homeModule (h : Nat) : Option Nat := if 5 * 2 ^ 40 ≤ h then some ((h - 5 * 2 ^ 40) / 128) else none
/-- A record for a translated address. -/
def State.addressed (e : LogEntry) (s : State) : LogEntry :=
  { e with phys := e.addr, addr := s.norm e.addr, home := s.homeAt e.addr }

/-! ## Sequence numbers and entries (R252 to R254) -/

/-- a is earlier than b (R252). -/
def seqEarlier (a b : BitVec 32) : Bool := 1 ≤ (b - a).toNat && (b - a).toNat < 2 ^ 31
def seqUpTo (a t : BitVec 32) : Bool := a == t || seqEarlier a t
/-- The 64-byte image of an entry that is spilled (R255). -/
def LogEntry.image (e : LogEntry) : BitVec 512 :=
  let kind : BitVec 4 := match e.kind with | .store => 0 | .relStore => 1 | .atomic => 2 | .relMarker => 3 | .fenceMarker => 4
  let aop : BitVec 3 :=
    match e.aop with | .add => 0 | .min => 1 | .max => 2 | .and => 3 | .or => 4 | .xor => 5 | .swap => 6 | .cas => 7
  let ord : BitVec 2 := match e.ord with | .none => 0 | .acq => 1 | .rel => 2 | .ar => 3
  let scope : BitVec 1 := match e.scope with | .device => 0 | .pod => 1
  e.data ++ e.mask ++ e.seq ++ BitVec.ofNat 52 e.phys ++ kind ++ aop ++ ord ++ e.gd ++ e.slot ++ scope ++ e.cmp ++ 0#59
/-- What a record makes known outside its group, which a replica hashes (R357): its image but for the slot and the register that take an
atomic's old value. -/
def LogEntry.content (e : LogEntry) : BitVec 512 := ({ e with gd := 0, slot := 0 } : LogEntry).image
/-- A releasing record (R254). -/
def LogEntry.releasing (e : LogEntry) : Bool :=
  match e.kind, e.ord with | .relStore, _ => true | .atomic, .rel => true | .atomic, .ar => true | _, _ => false
def LogEntry.acquiring (e : LogEntry) : Bool :=
  match e.kind, e.ord with | .atomic, .acq => true | .atomic, .ar => true | _, _ => false
def LogEntry.orderingPoint (e : LogEntry) : Bool := e.isMarker || e.releasing
/-- The physical addresses of the bytes that a record writes. -/
def LogEntry.touches (e : LogEntry) (a : Nat) : Bool :=
  e.isRecord && decide (e.addr ≤ a) && decide (a < e.addr + 32) && e.mask.getLsbD (a - e.addr)
/-- Byte i of a record's block. -/
def LogEntry.byte (e : LogEntry) (i : Nat) : Byte := e.data.extractLsb' (8 * i) 8

/-! ## The log as a queue (R258 to R261) -/

/-- The entries that fit: the ring, the carve-out and the overflow log area (R260). -/
def Group.logCapacity (g : Group) : Nat := 64 + bits g.logArea.toNat 13 0 / 64 + bits g.logLim.toNat 31 0 / 64
def Group.ringCount (g : Group) : Nat := (g.log.filter (·.inRing)).length
def Group.spilled (g : Group) : Bool := g.log.any fun e => !e.inRing
/-- There is room for k more entries: behind a spilled entry only outside the ring, for the oldest entries move into it first
(R260). -/
def Group.logRoom (g : Group) (k : Nat) : Bool :=
  g.log.length + k ≤ g.logCapacity && (!g.spilled || g.log.length - g.ringCount + k ≤ g.logCapacity - 64)
/-- Take the next place of the log (R260). -/
def Group.push (e : LogEntry) (g : Group) : Group :=
  { g with log := g.log ++ [{ e with inRing := !g.spilled && decide (g.ringCount < 64) }] }
/-- The image of the i-th entry outside the ring: in the log carve-out, and past its end in the overflow log area, each in the
order of the log from the area's first byte (R255, R260; log 28). -/
def State.storeEntry (i : Nat) (e : LogEntry) (s : State) : State :=
  let n := bits s.grp.logArea.toNat 13 0 / 64
  let image := leBytes 64 e.image.toNat
  if i < n then s.writeWell (bits s.grp.logArea.toNat 31 16 + 64 * i) image
  else s.writeHome (bits s.grp.logOvf.toNat 51 12 * 4096 + 64 * (i - n)) image
/-- The images of the entries outside the ring. -/
def State.layOutLog (s : State) : State :=
  let out := s.grp.log.filter fun e => !e.inRing
  (upTo out.length).foldl (fun s i => match out[i]? with | some e => s.storeEntry i e | none => s) s
/-- An entry joins the log; one that finds the ring full is spilled, and counted (R260, R401). -/
def State.push (e : LogEntry) (s : State) : State :=
  let n := (s.grp.log.filter fun e => !e.inRing).length
  let s := s.mapGrp (Group.push e)
  if s.grp.spilled then (s.storeEntry n e).count 0x042 1 none else s
/-- Entries have left the log: the others that stand outside the ring close up, if any of the `n` that stood there have left. -/
def State.relay (n : Nat) (s : State) : State := if (s.grp.log.filter fun e => !e.inRing).length = n then s else s.layOutLog
/-- Move the oldest spilled entry into the ring (R260). -/
def refill : List LogEntry → List LogEntry
  | [] => []
  | e :: rest => if e.inRing then e :: refill rest else { e with inRing := true } :: rest

/-- Does every byte of mask n lie in one 8-byte word that mask o touches (R259)? -/
def sameWord (o n : BitVec 32) : Bool :=
  [0, 1, 2, 3].any fun w =>
    let word : BitVec 32 := 0xFF#32 <<< (8 * w)
    n &&& ~~~word == 0 && o &&& word != 0
/-- The bytes that a mask selects of n, and the others of o. -/
def mergeData (mask : BitVec 32) (o n : BitVec 256) : BitVec 256 :=
  (upTo 32).foldl (fun d i =>
    if mask.getLsbD i then (d &&& ~~~(0xFF#256 <<< (8 * i))) ||| (n &&& (0xFF#256 <<< (8 * i))) else d) o
/-- Merge a store record into the oldest-to-newest list of a log, newest first here (R259): nothing that stands between
may be an ordering point, an atomic, or a record to the same home. -/
def mergeInto (n : LogEntry) : List LogEntry → Option (List LogEntry)
  | [] => none
  | o :: older =>
    if o.kind = .store ∧ o.inRing ∧ !o.sent ∧ o.addr = n.addr ∧ sameWord o.mask n.mask then
      some ({ o with data := mergeData n.mask o.data n.data, mask := o.mask ||| n.mask, seq := n.seq } :: older)
    else if o.orderingPoint ∨ o.kind = .atomic ∨ o.home = n.home then none
    else (mergeInto n older).map (o :: ·)
/-- Does a record overlap the line of n bytes at a? -/
def LogEntry.overlapsRange (e : LogEntry) (a n : Nat) : Bool := (upTo n).any fun i => e.touches (a + i)
/-- Appending a record discards the view-cache lines that it overlaps, and their fills in flight (R262). -/
def Core.dropLines (e : LogEntry) (c : Core) : Core :=
  { c with
    view := c.view.filter fun l => !e.overlapsRange l.addr 64
    tags := c.tags.map fun t => { t with stale := (t.lines.filter fun l => e.overlapsRange l 64) ++ t.stale } }
/-- A replica hashes an output and passes the hash to its partner (R357; log 8). -/
def State.twinOutput (v : Nat) (s : State) : State :=
  match s.grp.twin with
  | none => s
  | some t =>
    let h := Config.twinHash v
    let u : Twin := { t with made := t.made + 1, hashes := t.hashes ++ [(h, s.cycle)] }
    { s.mapGrp fun g => { g with twin := some u } with
      net := s.net ++ [{ place := .core t.partner, id := 0, source := s.core.at_, body := .twinHash h }] }
/-- A replica's record waits for the match of its hash (R357). -/
def Group.holdRecord (q : BitVec 32) (g : Group) : Group :=
  { g with twin := g.twin.map fun t => { t with records := t.records ++ [(t.made, q)] } }
/-- The hash of the record with this sequence number has not been matched. -/
def Group.unmatched (q : BitVec 32) (g : Group) : Bool := match g.twin with | some t => t.records.any fun r => r.2 == q | none => false
/-- Append a record: it takes the next sequence number, and merges where R259 lets it (R252). -/
def State.appendRecord (e : LogEntry) (s : State) : State :=
  let q := s.grp.logTail + 1
  let e := { s.addressed e with seq := q, firstSeq := q }
  let s := (s.mapCore (·.dropLines e)).count 0x040 1 none
  let s := (s.mapGrp fun g => { g with logTail := q }).twinOutput e.content.toNat
  let s := s.mapGrp (Group.holdRecord q)
  match (if e.kind = .store then mergeInto e s.grp.log.reverse else none) with
  | some l => (s.mapGrp fun g => { g with log := l.reverse }).count 0x041 1 none
  | none => s.push e
/-- A plain store record for a block. DESIGN CHOICE (log 113): the fields of R255 that do not apply to a store or a marker are 0. -/
def storeRecord (kind : LogKind) (addr : Nat) (mask : BitVec 32) (data : BitVec 256) : LogEntry :=
  { kind := kind, seq := 0, firstSeq := 0, addr := addr, phys := addr, home := 0, mask := mask, data := data, aop := .add, ord := .none, gd := 0,
    slot := 0, scope := .device, cmp := 0, tag := 0, inRing := true, sent := false, egress := false }
/-- Place a marker: it takes the sequence number of the last record before it (R254, R255). -/
def State.pushMarker (kind : LogKind) (scope : Scope) (s : State) : State :=
  s.push { (storeRecord kind 0 0 0) with seq := s.grp.logTail, firstSeq := s.grp.logTail, scope := scope }

/-! ## Releases (R264 to R266) -/

/-- Every record up to t is acknowledged, or at device scope, a remote one by the fabric port (R259, R264). -/
def Group.released (g : Group) (scope : Scope) (t : BitVec 32) : Bool :=
  g.log.all fun e => !e.isRecord || !seqUpTo e.firstSeq t || (scope == .device && e.away && e.egress)
/-- Publish a tail, unless a later one is published already (R264). -/
def Group.publish (t : BitVec 32) (g : Group) : Group := if seqEarlier g.logPub t then { g with logPub := t } else g

/-! ## The view cache and acquires (R242, R267, R268) -/

/-- The writer key of a group (R258). -/
def Group.key (g : Group) : WriterKey := g.name.setWidth 41
/-- The home of an own record has applied it, and its acknowledgement has not come. -/
def State.applied (s : State) (e : LogEntry) : Bool :=
  s.records.any fun r => r.writer == s.grp.key && r.entry.seq == e.seq && r.stage != .toHome
/-- The group knows from now on what stands at the homes of the bytes that `p` selects: an applied own record whose byte something else
has replaced there is not forwarded again (R263, R269; log 125). -/
def State.outdate (p : Nat → Bool) (s : State) : State :=
  let replaced (e : LogEntry) (i : Nat) : Bool := e.touches (e.addr + i) && p (e.addr + i) && s.homeByte (e.addr + i) != e.byte i
  let note (e : LogEntry) : LogEntry :=
    if s.applied e then { e with passed := (upTo 32).foldl (fun b i => if replaced e i then b ||| (1#32 <<< i) else b) e.passed } else e
  s.mapGrp fun g => { g with log := g.log.map note }
/-- An acquire discards the whole view cache, and the lines in flight are not kept (R267); later loads return what it has acquired, or
newer values (R269). -/
def State.discardView (s : State) : State :=
  ((s.mapCore fun c => { c with view := [], tags := c.tags.map fun t => { t with stale := t.lines } }).outdate fun _ => true).count 0x045 1 none
/-- Acquire a writer at a tail (R267): a frontier entry whose tail is t or later makes it complete at once. -/
def State.acquire (w : WriterKey) (t : BitVec 32) (s : State) : State :=
  match s.core.frontier.find? (fun e => e.1 = w) with
  | some (_, u) =>
    let front (v : BitVec 32) : State := s.mapCore fun c => { c with frontier := (w, v) :: c.frontier.filter fun e => decide (e.1 ≠ w) }
    if seqUpTo t u then front u else (front t).discardView
  | none => (s.mapCore fun c => { c with frontier := ((w, t) :: c.frontier).take 8 }).discardView

/-! ## Acknowledgements (R257, R258) -/

/-- A record at position i of the log may be sent (R257). -/
def Group.sendable (g : Group) (i : Nat) : Bool :=
  match g.log[i]? with
  | none => false
  | some r =>
    let before := g.log.take i
    let h := r.home
    r.inRing && r.isRecord && !r.sent && !g.isSecondary && !g.unmatched r.seq &&
    decide ((g.log.filter fun e => e.isRecord && e.sent && e.home == h).length < 4) &&
    !(before.any fun e => e.isRecord && !e.sent && e.home == h) &&
    !(r.releasing && before.any (·.isRecord)) && !(before.any (·.orderingPoint))
/-- The oldest sendable record. -/
def Group.nextSend (g : Group) : Option Nat := (upTo g.log.length).find? g.sendable
/-- Acknowledged records leave the log with the markers that retire, and releasing records publish (R258, R265). -/
def Group.acknowledge (p : LogEntry → Bool) (g : Group) : Group :=
  let g := (g.log.filter fun e => p e && e.releasing).foldl (fun g e => g.publish e.seq) g
  { g with log := (g.log.filter fun e => !(e.isRecord && p e)).dropWhile (·.isMarker) }
/-- The focus core's group takes an acknowledgement, and the images of its spilled entries follow (R255, R258). -/
def State.acknowledge (p : LogEntry → Bool) (s : State) : State :=
  (s.mapGrp (Group.acknowledge p)).relay (s.grp.log.filter fun e => !e.inRing).length
/-- Do something at the focus core and at the other replica's, if its group has one (R357). -/
def State.eachReplica (f : State → State) (s : State) : State :=
  match s.grp.twin with
  | some t => (f s).atCore t.partner f
  | none => f s
/-- The latest sequence number that a home has applied for a writer (R258). -/
def State.appliedSeq (s : State) (w : WriterKey) (h : Nat) : Option (BitVec 32) :=
  (s.homeSeq.find? fun e => e.1 == w && e.2.1 == h).map (·.2.2)
/-- An engine's writer key has bit 40 set (R258). -/
def isEngineKey (w : WriterKey) : Bool := w.getLsbD 40
/-- A duplicate of a group's record (R258). -/
def State.isDuplicate (s : State) (r : FlightRecord) : Bool :=
  !isEngineKey r.writer &&
    match s.appliedSeq r.writer r.entry.home with
    | some q => !seqEarlier q r.entry.seq
    | none => false
/-- The home notes the sequence number applied; it keeps none for an engine (R258). -/
def State.noteApplied (r : FlightRecord) (s : State) : State :=
  if isEngineKey r.writer then s
  else
    let h := r.entry.home
    { s with homeSeq := (r.writer, h, r.entry.seq) :: s.homeSeq.filter fun e => !(e.1 == r.writer && e.2.1 == h) }
/-- Write the masked bytes of a record at its home (R258). -/
def State.applyBytes (e : LogEntry) (s : State) : State :=
  (upTo 4).foldl (fun s w =>
    if (e.mask >>> (8 * w)).setWidth 8 = (0xFF : BitVec 8) then
      s.writeHome (e.addr + 8 * w) ((upTo 8).map fun i => e.byte (8 * w + i))
    else (upTo 8).foldl (fun s i => if e.mask.getLsbD (8 * w + i) then s.writeHome (e.addr + 8 * w + i) [e.byte (8 * w + i)] else s) s) s
/-- An earlier record of the writer to the same home is still on its way (R257). -/
def State.overtakes (s : State) (n : Nat) : Bool :=
  match s.records[n]? with
  | none => true
  | some r => (s.records.take n).any fun x =>
      x.writer == r.writer && x.entry.home == r.entry.home && x.stage == .toHome
/-- The new value of an atomic (R279). -/
def atomValue (op : AtomOp) (old v c : Word) : Word :=
  match op with
  | .add => old + v
  | .min => if v.slt old then v else old
  | .max => if old.slt v then v else old
  | .and => old &&& v
  | .or => old ||| v
  | .xor => old ^^^ v
  | .swap => v
  | .cas => if old = c then v else old

end Sys2Proof.Machine
end

