-- ==== Sys2Proof/Machine/Image.lean ====
section
/-! DEFINITION. The save image of a group (spec 22 R360, R361): how it is written, how it is read back (R363), and changes of a
saved group, which change its image. -/

namespace Sys2Proof.Machine

/-- The physical address of a main-memory offset (R235). -/
def mainAt (off : Nat) : Nat := 0x1000000000 + off
/-- Bytes into main memory at an offset. -/
def State.writeMain (off : Nat) (bs : List Byte) (s : State) : State := s.writeHome (mainAt off) bs
/-- A number of n bytes in main memory. -/
def State.mainNat (s : State) (off n : Nat) : Nat := s.mem.nat (mainAt off) n

/-! ## The registers of a group (R26, R27) -/

def accCode : AccType → Nat | .f32 => 0 | .i32 => 1 | .f16 => 2 | .b16 => 3
def accOf : Nat → AccType | 0 => .f32 | 1 => .i32 | 2 => .f16 | _ => .b16
/-- QSTAT: the counts of the queues, six bits each, and their bound bits. -/
def Group.qstat (g : Group) : Nat :=
  [(0 : BitVec 3), 1, 2, 3, 4, 5, 6, 7].foldl (fun n q =>
    n + (g.queue q).words.length * 2 ^ (6 * q.toNat) + (if (g.queue q).bound then 2 ^ (48 + q.toNat) else 0)) 0
/-- The remaining count of level n of a slot (R14). -/
def Slot.lc (sl : Slot) (n : Nat) : Nat := ((sl.levels[n]?).map (·.count.toNat)).getD 0
/-- The user system registers 0x02 to 0x11, which the whole group shares. -/
def Group.reg (n : Nat) (g : Group) : Option Word :=
  match n with
  | 0x02 => some g.self
  | 0x03 => some g.posn
  | 0x04 => some g.launchReg
  | 0x05 => some (g.logTail.setWidth 64)
  | 0x06 => some (g.logPub.setWidth 64)
  | 0x07 => some g.lpat
  | 0x08 => some (BitVec.ofNat 64 (accCode g.tilecfg))
  | 0x09 => some (g.fmta.setWidth 64)
  | 0x0A => some (g.fmtb.setWidth 64)
  | 0x0B => some (g.scla.setWidth 64)
  | 0x0C => some (g.sclb.setWidth 64)
  | 0x0D => some (g.astride.setWidth 64)
  | 0x0E => some (g.bstride.setWidth 64)
  | 0x0F => some (BitVec.ofNat 64 (g.fflags.toNat * 2 ^ 16 + (if g.satf8 then 2 ^ 8 else 0) + g.rm.toNat))
  | 0x10 => some (BitVec.ofNat 64 g.qstat)
  | 0x11 => some (BitVec.ofNat 64 (min g.jobQueued 16 * 2 ^ 16 + g.jobLast.toNat * 2 ^ 8 + min g.jobOpen 255))
  | _ => none

/-! ## Writing the image -/

/-- A section: its header and its body of 8-byte fields (R361). -/
def saveSection (code : Nat) (fields : List Nat) : List Byte :=
  leBytes 8 (code + 8 * fields.length * 2 ^ 32) ++ fields.flatMap (leBytes 8)
def Slot.saveFields (k : SlotId) (sl : Slot) : List Nat :=
  [k.toNat, sl.pc.toNat] ++ (upTo 31).map (fun i => (sl.get (BitVec.ofNat 5 (i + 1))).toNat) ++ (upTo 3).map sl.lc ++
    (upTo 3).flatMap (fun i => [((sl.levels[i]?).map (·.start.toNat)).getD 0, ((sl.levels[i]?).map (·.stop.toNat)).getD 0]) ++
    [if sl.susp then 1 else 0, sl.trapPc.toNat, sl.trapCause.toNat, sl.trapVal.toNat]
/-- The status word (R308). -/
def JobRecord.word (r : JobRecord) : Word :=
  let shown := (r.parts.find? fun p => p.error ≠ 0).orElse fun _ => r.parts.getLast?
  let id := (shown.map (·.id.toNat)).getD r.id.toNat
  let error := (shown.map (·.error.toNat)).getD 0
  let tail := if r.batch then 0 else ((shown.bind (·.publish)).map fun x => x.2.toNat).getD 0
  BitVec.ofNat 64 (tail * 2 ^ 32 + r.deliv.toNat * 2 ^ 24 + id * 2 ^ 16 + error * 2 ^ 12 + r.kind.toNat * 2 ^ 9 + r.state.toNat)
/-- The two fields of a status record in an image: its id word (R307) and its status word. -/
def JobRecord.saveFields (r : JobRecord) : List Nat := [(if r.batch then 0x100 else 0) + r.id.toNat, r.word.toNat]
def EntryState.code : EntryState → Nat | .free => 0 | .pending _ => 1 | .running => 2 | .reserved n => 3 + n.toNat * 2 ^ 8
/-- The 20 fields of a message (R361): its header words of 8 bytes and its payload's. -/
def Msg.saveFields (m : Msg) : List Nat := (upTo 20).map fun i => leNat ((m.image.drop (8 * i)).take 8)
def coordCode (c : Coord) : Nat := c.x + c.y * 2 ^ 16
/-- The user system registers 0x01 to 0x11, in number order; every instruction of a group that is saved has retired (R118,
R358). -/
def Group.savedRegs (g : Group) : List Nat := g.instret.toNat :: (upTo 16).map fun i => ((g.reg (i + 2)).map (·.toNat)).getD 0
/-- The sections of a group's image, in ascending order of code (R361). -/
def Group.saveSections (g : Group) : List Byte :=
  let flag (b : Bool) : Nat := if b then 1 else 0
  let slots := ([(0 : SlotId), 1, 2].filter fun k => (g.slot k).active).flatMap fun k => saveSection 1 ((g.slot k).saveFields k)
  let registers := saveSection 2 ((upTo 7).map (fun i => (g.mask (BitVec.ofNat 3 (i + 1))).toNat) ++ g.savedRegs ++
    [g.classMask.toNat, flag g.anchored, flag g.sys, g.logArea.toNat, g.logOvf.toNat, g.logLim.toNat, g.spillOvf.toNat])
  let queues := ((upTo 8).filter fun i => (g.queue (BitVec.ofNat 3 i)).bound).flatMap fun i =>
    let v := g.queue (BitVec.ofNat 3 i)
    saveSection 3 ([i, v.words.length] ++ v.words.map (·.toNat) ++ [(g.chan v.chan).credits])
  let reorder := saveSection 4 (g.reorder.length :: g.reorder.flatMap Msg.saveFields)
  let scaling := saveSection 5 (g.dtable.map (·.toNat) ++ (upTo 4).map (fun i => (g.amax[i]?.getD 0).toNat) ++
    (upTo 4).flatMap fun i => let r := g.rings[i]?.getD []; r.length :: r.map (·.toNat))
  let annealer := saveSection 6 (g.ann.flatMap fun e => [e.count, e.w, e.q, (e.peer.map coordCode).getD 0])
  let engine := saveSection 7 (g.openJobs.length :: g.openJobs.map (·.id.toNat) ++ g.lent.length :: g.lent.flatMap (fun r => [r.lo, r.hi]) ++
    g.records.flatMap JobRecord.saveFields)
  let launch := saveSection 8 ((upTo 8).map (fun i => (g.arrive[i + 1]?.getD 0).toNat) ++ [g.sent, g.consumed] ++
    g.mbox.map EntryState.code ++ g.locked.map fun p => p.base + p.s)
  slots ++ registers ++ queues ++ reorder ++ scaling ++ annealer ++ engine ++ launch ++ saveSection 0 []
/-- A save frame from 0x9200 up: hold and busy, the header words, and the sections (R360). -/
def Group.saveTail (g : Group) (cycle : Nat) : List Byte :=
  let sections := g.saveSections
  leBytes 4 g.hold.toNat ++ leBytes 4 g.busy.toNat ++ leBytes 4 (0x9240 + sections.length) ++ leBytes 4 1 ++
    leBytes 8 g.name.toNat ++ leBytes 8 cycle ++ leBytes 8 g.posn.toNat ++ leBytes 24 0 ++ sections
/-- The bytes of a save frame (R360). -/
def Group.saveImage (g : Group) (cycle : Nat) : List Byte :=
  g.well.readN 0 0x8000 ++ leBytes 512 g.fe.toNat ++ (upTo 32).flatMap (fun i => rowBytes (g.row (BitVec.ofNat 5 i))) ++ g.saveTail cycle
/-- The sections of a group fit a frame (R360). -/
def Group.imageFits (g : Group) : Bool := decide (0x9240 + g.saveSections.length ≤ Config.saveFrame)

/-! ## Reading the image (R363) -/

/-- The 8-byte fields of a body. -/
def bodyFields : Nat → List Byte → List Nat
  | 0, _ => []
  | n + 1, bs => leNat (bs.take 8) :: bodyFields n (bs.drop 8)
/-- The sections before the end section: code and body (R361); at most as many as the fuel. -/
def readSections : Nat → List Byte → List (Nat × List Nat)
  | 0, _ => []
  | fuel + 1, bs =>
    let h := leNat (bs.take 8)
    let n := bits h 63 32 / 8
    if bits h 15 0 = 0 then [] else (bits h 15 0, bodyFields n (bs.drop 8)) :: readSections fuel (bs.drop (8 + 8 * n))
/-- Field i of a body. -/
def fieldAt (f : List Nat) (i : Nat) : Nat := f[i]?.getD 0
/-- A slot as its section gives it: a level with a count is active (R99). -/
def Slot.load (f : List Nat) (sl : Slot) : Slot :=
  { sl with
    active := true
    pc := BitVec.ofNat 24 (fieldAt f 1)
    g := Vector.ofFn fun r : Fin 32 => if r.val = 0 then 0 else BitVec.ofNat 64 (fieldAt f (r.val + 1))
    levels := (upTo 3).filterMap fun i =>
      if fieldAt f (33 + i) = 0 then none
      else some { count := BitVec.ofNat 32 (fieldAt f (33 + i)), start := BitVec.ofNat 24 (fieldAt f (36 + 2 * i)),
                  stop := BitVec.ofNat 24 (fieldAt f (37 + 2 * i)) }
    susp := fieldAt f 42 != 0
    trapPc := BitVec.ofNat 24 (fieldAt f 43)
    trapCause := BitVec.ofNat 64 (fieldAt f 44) &&& 0x80000000000007FF
    trapVal := BitVec.ofNat 64 (fieldAt f 45) }
/-- The registers, their reserved bits reading as zero (R3); QSTAT and the job counts follow from the queues and the batches. Every
instruction of a group that is saved has retired (R358). -/
def Group.loadRegs (f : List Nat) (g : Group) : Group :=
  let fcsr : Word := BitVec.ofNat 64 (fieldAt f 21)
  { g with
    m := Vector.ofFn fun r : Fin 8 => if r.val = 0 then g.m.get r else BitVec.ofNat 64 (fieldAt f (r.val - 1))
    instret := BitVec.ofNat 64 (fieldAt f 7), inFlight := 0, self := BitVec.ofNat 64 (fieldAt f 8 % 2 ^ 40), posn := BitVec.ofNat 64 (fieldAt f 9)
    launchReg := BitVec.ofNat 64 (fieldAt f 10), logTail := BitVec.ofNat 32 (fieldAt f 11), logPub := BitVec.ofNat 32 (fieldAt f 12)
    lpat := BitVec.ofNat 64 (fieldAt f 13 % 2 ^ 29), tilecfg := accOf (fieldAt f 14 % 4)
    fmta := BitVec.ofNat 4 (fieldAt f 15), fmtb := BitVec.ofNat 4 (fieldAt f 16)
    scla := BitVec.ofNat 17 (fieldAt f 17), sclb := BitVec.ofNat 17 (fieldAt f 18)
    astride := BitVec.ofNat 16 (fieldAt f 19) &&& 0xFFF8, bstride := BitVec.ofNat 16 (fieldAt f 20) &&& 0xFFF8
    fflags := fcsr.extractLsb' 16 5, satf8 := fcsr.getLsbD 8, rm := fcsr.setWidth 3
    jobLast := BitVec.ofNat 8 (bits (fieldAt f 23) 15 8)
    classMask := BitVec.ofNat 8 (fieldAt f 24), anchored := fieldAt f 25 != 0, sys := fieldAt f 26 != 0
    logArea := BitVec.ofNat 64 (fieldAt f 27) &&& 0xFFFF3FFF, logOvf := BitVec.ofNat 64 (fieldAt f 28) &&& 0xFFFFFFFFFF000
    logLim := BitVec.ofNat 64 (fieldAt f 29 % 2 ^ 32), spillOvf := BitVec.ofNat 64 (fieldAt f 30) &&& 0xFFFFFFFFF8000 }
/-- A bound queue's words, and the credits of its channel. -/
def Group.loadQueue (f : List Nat) (g : Group) : Group :=
  let q := BitVec.ofNat 3 (fieldAt f 0)
  let n := fieldAt f 1
  let v := g.queue q
  let g := g.setQueue q { v with bound := true, words := ((f.drop 2).take n).map (BitVec.ofNat 64) }
  g.setChan v.chan { (g.chan v.chan) with credits := fieldAt f (2 + n) % 64 }
/-- A message of the reorder store, from its 20 fields. -/
def Msg.loadFields (f : List Nat) : Msg :=
  let bs := (f.take 20).flatMap (leBytes 8)
  Msg.ofImage (leNat (bs.take 32)) (bs.drop 32)
/-- Rings of amax values, each a count and its entries. -/
def readRings : Nat → List Nat → List (List (BitVec 32))
  | 0, _ => []
  | n + 1, [] => [] :: readRings n []
  | n + 1, c :: rest => (rest.take c).map (BitVec.ofNat 32) :: readRings n (rest.drop c)
def Group.loadScaling (f : List Nat) (g : Group) : Group :=
  let rings := readRings 4 (f.drop 260)
  { g with
    dtable := (f.take 256).map (BitVec.ofNat 19)
    amax := Vector.ofFn fun i : Fin 4 => BitVec.ofNat 32 (fieldAt f (256 + i.val))
    rings := Vector.ofFn fun i : Fin 4 => rings[i.val]?.getD [] }
def coordOf (v : Nat) : Option Coord := if v = 0 then none else some { x := v % 2 ^ 16, y := v / 2 ^ 16 }
def Group.loadAnn (f : List Nat) (g : Group) : Group :=
  { g with ann := (upTo 64).map fun i =>
      { count := fieldAt f (4 * i), w := fieldAt f (4 * i + 1), q := fieldAt f (4 * i + 2), peer := coordOf (fieldAt f (4 * i + 3)) } }
/-- A mailbox entry's state; the image does not hold the number of a pending one's arrival (log 26). -/
def EntryState.load (old : EntryState) (v : Nat) : EntryState :=
  match v % 256 with
  | 0 => .free
  | 1 => (match old with | .pending t => .pending t | _ => .pending 0)
  | 2 => .running
  | _ => .reserved (BitVec.ofNat 40 (v / 256))
def Group.loadLaunch (f : List Nat) (g : Group) : Group :=
  let n := g.mbox.length
  { g with
    arrive := Vector.ofFn fun i : Fin 9 => if i.val = 0 then g.arrive.get i else BitVec.ofNat 32 (fieldAt f (i.val - 1))
    sent := fieldAt f 8
    consumed := fieldAt f 9
    mbox := (upTo n).map fun i => ((g.mbox[i]?).getD .free).load (fieldAt f (10 + i))
    locked := (f.drop (10 + n)).map fun v => { base := v / 4096 * 4096, s := v % 4096 } }
/-- A status record from its id word and its status word, under the writer that a former one published as. -/
def JobRecord.ofWords (former : Option (BitVec 41 × BitVec 32)) (id w : Nat) : JobRecord :=
  { batch := id.testBit 8, id := BitVec.ofNat 8 id, state := BitVec.ofNat 2 w, kind := BitVec.ofNat 3 (w / 2 ^ 9), deliv := BitVec.ofNat 8 (w / 2 ^ 24)
    parts := [{ id := BitVec.ofNat 8 (w / 2 ^ 16), serial := 0, rows := 0, done := true, error := BitVec.ofNat 4 (w / 2 ^ 12)
                publish := former.map fun x => (x.1, BitVec.ofNat 32 (w / 2 ^ 32)) }] }
/-- Record i of an image (R307, R308). The frame's structured state holds what the record's words do not say (log 25, 26): it stands while
the words are those that it gives; words that differ stand for one job. -/
def JobRecord.load (old : Option JobRecord) (id w : Nat) : JobRecord :=
  match old with
  | some r => if r.saveFields = [id, w] then r else JobRecord.ofWords (r.parts.findSome? (·.publish)) id w
  | none => JobRecord.ofWords none id w
/-- Open job i of an image, which names its id alone. -/
def JobPart.load (old : Option JobPart) (id : Nat) : JobPart :=
  match old with
  | some p => { p with id := BitVec.ofNat 8 id }
  | none => { id := BitVec.ofNat 8 id, serial := 0, rows := 0, done := true, error := 0, publish := none }
/-- The open batch, the lent ranges and the status records (R361). The steps that lend a range are those of the frame's structured
state; a range whose batches have ended since is lent no more (R295; log 25). -/
def Group.loadEngine (f : List Nat) (g : Group) : Group :=
  let n := fieldAt f 0
  let m := fieldAt f (1 + n)
  let rs := f.drop (2 + n + 2 * m)
  { g with
    openJobs := (upTo n).map fun i => JobPart.load g.openJobs[i]? (fieldAt f (1 + i))
    jobOpen := min 255 n
    lent := (upTo m).filterMap fun i => g.lent.find? fun r => r.lo == fieldAt f (2 + n + 2 * i) && r.hi == fieldAt f (3 + n + 2 * i)
    records := (upTo (rs.length / 2)).map fun i => JobRecord.load g.records[i]? (fieldAt rs (2 * i)) (fieldAt rs (2 * i + 1)) }
/-- What a section of an image changes in a group (R361). -/
def Group.loadSection (e : Nat × List Nat) (g : Group) : Group :=
  let f := e.2
  match e.1 with
  | 1 => g.mapSlot (BitVec.ofNat 2 (fieldAt f 0)) (Slot.load f)
  | 2 => g.loadRegs f
  | 3 => g.loadQueue f
  | 4 => { g with reorder := (upTo (fieldAt f 0)).map fun i => Msg.loadFields (f.drop (1 + 20 * i)) }
  | 5 => g.loadScaling f
  | 6 => g.loadAnn f
  | 7 => g.loadEngine f
  | 8 => g.loadLaunch f
  | _ => g
/-- The group as its image in main memory gives it (R360, R363); what the image does not hold is the frame's structured state (log
25). -/
def State.loadFrame (x : SaveFrame) (s : State) : Group :=
  let a := mainAt x.base
  let g : Group := { x.grp with
    well := placedBytes ((s.mem.filter fun c => decide (a ≤ c.1) && decide (c.1 < a + 0x8000)).map fun c => (c.1 - a, c.2))
    fe := BitVec.ofNat 4096 (s.mem.nat (a + 0x8000) 512)
    tile := Vector.ofFn fun n : Fin 32 => rowOfBytes (s.mem.readN (a + 0x8200 + 128 * n.val) 128)
    hold := BitVec.ofNat 32 (s.mem.nat (a + 0x9200) 4)
    busy := BitVec.ofNat 32 (s.mem.nat (a + 0x9204) 4) }
  let sections := readSections 24 (s.mem.readN (a + 0x9240) (min (s.mem.nat (a + 0x9208) 4) Config.saveFrame - 0x9240))
  let listed (k : SlotId) : Bool := sections.any fun e => e.1 == 1 && fieldAt e.2 0 == k.toNat
  let g := [(0 : SlotId), 1, 2].foldl (fun g k => if (g.slot k).active && !listed k then g.mapSlot k Slot.idle else g) g
  sections.foldl (fun g e => g.loadSection e) g

/-! ## A saved group that changes (R164, R185, R362) -/

/-- A saved group, and its image from hold up, as it now stands. -/
def State.storeFrame (x : SaveFrame) (s : State) : State :=
  ({ s with frames := s.frames.map fun (y : SaveFrame) => if y.name = x.name then x else y } : State).writeMain (x.base + 0x9200)
    (x.grp.saveTail x.cycle.toNat)
/-- Change a saved group, as its image gives it. -/
def State.mapSaved (n : Name) (f : Group → Group) (s : State) : State :=
  match s.frames.find? (fun x => x.name = n) with
  | none => s
  | some x => s.storeFrame { x with grp := f (s.loadFrame x) }
/-- Change what the image of a group holds, whether the group is resident or saved. -/
def State.mapHeld (n : Name) (f : Group → Group) (s : State) : State :=
  if s.frames.any (fun x => x.name == n) then s.mapSaved n f else s.mapGroup n f

end Sys2Proof.Machine
end

