-- ==== Sys2Proof/Machine/Delivery.lean ====
section
/-! DEFINITION. The events of message delivery (spec 09 R171 to R187, spec 10 R190, R191, spec 08 R154, spec 12 R230): what
leaves a core, what becomes of an arrival, the directory and the sump. An event that is not due changes nothing. -/

namespace Sys2Proof.Machine

/-! ## Groups wherever they stand -/

/-- The focus core holds a running group of this name. -/
def State.isHere (s : State) (n : Name) : Bool := !s.core.vacant && s.grp.name == n
/-- The port holds inbound traffic while a swap has the core locked, or a pre-emption has begun (R182, R216, R358). -/
def State.portHolds (s : State) : Bool := s.core.swap.isSome || (s.grp.preempt.isSome && s.grp.sysact)
/-- Use an entry of the name cache: it becomes the most recently used, and a miss is counted (R181, R401). -/
def State.useName (n : Name) (s : State) : State :=
  match s.core.names.find? (fun e => e.1 = n) with
  | some e => s.mapCore fun c => { c with names := e :: c.names.filter fun x => decide (x.1 ≠ n) }
  | none => s.count 0x071 1 none
/-- Write a name's core into the name cache; a full cache loses its least recently used entry (R181). -/
def Core.learn (n : Name) (m : Nat) (at_ : Coord) (c : Core) : Core :=
  { c with names := ((n, m, at_) :: c.names.filter fun x => decide (x.1 ≠ n)).take 16 }

/-! ## Leaving a core (R171, R176, R190) -/

/-- The flits of a message (R169). -/
def Msg.flits (m : Msg) : Nat := 1 + (m.len + 31) / 32
/-- A message that is injected sequenced, or injected again, counts its flits on its channel (R207). -/
def Group.countFlits (m : Msg) (g : Group) : Group :=
  if m.seqd then
    match g.ann[m.chan.toNat]? with
    | some e => { g with ann := listSet g.ann m.chan.toNat { e with count := min 65535 (e.count + m.flits) } }
    | none => g
  else g
/-- The packet goes back to its sender, from the router of a given core, as a notice for its entry `id` (R171, R173, R184). -/
def State.returnBy (here : Coord) (t : BitVec 8) (id : Nat) (p : Packet) (m : Msg) (s : State) : State :=
  s.answerBy here p id (.notice { m with mtype := t, otype := m.mtype } id)
def State.returnAs (t : BitVec 8) (id : Nat) (p : Packet) (m : Msg) (s : State) : State := s.returnBy s.core.at_ t id p m
/-- A message that a group has sent or holds is consumed (R164). -/
def State.consume (n : Name) (s : State) : State := s.mapHeld n fun g => { g with consumed := g.consumed + 1 }
/-- A message to a dead name goes back as a dead letter; a reply is discarded, consumed by the group that sent it: the directory
reports it, to another module by the fabric (R172, R184; log 92). What is returned leaves by the router of the core `here`. -/
def State.deadHome (here : Coord) (p : Packet) (m : Msg) (s : State) : State :=
  if m.cls ≠ 1 then s.returnBy here 0xFE p.id p m
  else if p.away.isNone then s.consume m.source
  else s.answerBy here p 0 (.discarded m.source)
/-- The core whose router serves the directory entry of a name (R183). -/
def homeCore (n : Name) : Coord :=
  let c := bits n.toNat 27 8 % 41600
  ⟨4 * (c % 208), 4 * (c / 208)⟩
/-- The partition of the launch in progress that a name of this module belongs to (R200). -/
def State.partOfName (n : Name) (s : State) : Option Nat :=
  (s.launches.find? fun (l : Launch) =>
    l.admitted && !l.ended && bits n.toNat 39 28 == s.board.module && decide (l.base ≤ bits n.toNat 27 8) &&
      decide (bits n.toNat 27 8 < l.base + l.groups) && l.gen == n.setWidth 8).map (·.part)
/-- The egress filters let a message of the focus core's partition pass to a name, on this module or another (R392, R394). -/
def State.mayPass (n : Name) (s : State) : Bool :=
  if deviceOf n ≠ s.board.module then s.board.podEgress.contains (s.part.id, deviceOf n)
  else match s.partOfName n with | some q => q == s.part.id || s.board.egress.contains (s.part.id, q) | none => true
/-- The table's entry for a firmware core (R390). -/
def Board.roleOf (b : Board) (c : Coord) : Option RoleEntry :=
  let i := c.y * (4 * b.fwWidth) + c.x
  b.roles.find? fun e => decide (e.first ≤ i) && decide (i < e.first + e.count)
/-- The core of a role entry's first place (R390). -/
def Board.coreOf (b : Board) (e : RoleEntry) : Coord := ⟨e.first % (4 * b.fwWidth), e.first / (4 * b.fwWidth)⟩
/-- The core that keeps the sump queue of a name: the first sump manager of its partition (R185, R390; log 105). -/
def State.sumpCore (n : Name) (s : State) : Coord :=
  let part := (s.partOfName n).getD s.part0.id
  ((s.board.roles.find? fun e => e.role = .sumpManager ∧ e.part = part).map s.board.coreOf).getD (homeCore n)
/-- The port of the focus core takes traffic of a class: a firmware core's firewall admits classes 6 and 7 and what its role's entry
allows (R390). -/
def State.admits (cls : Nat) (s : State) : Bool :=
  !s.firmwareCore || 6 ≤ cls || match s.board.roleOf s.core.at_ with | some e => e.classes.getLsbD cls | none => false
/-- The message of an entry leaves for its destination; one that the egress filters stop comes back as a dead letter (R394;
log 86). -/
def State.sendOut (id : Nat) (m : Msg) (s : State) : State :=
  if s.mayPass m.dest then (s.emitTo m.dest id (.msg m)).useName m.dest
  else s.deadHome s.core.at_ { place := .core s.core.at_, id := id, source := s.core.at_, body := .msg m } m
/-- Send the message of an entry into the network. A replica hashes it; the primary keeps it until the secondary's hash has
matched, and the secondary's copy goes nowhere (R357). -/
def State.launchMsg (id : Nat) (m : Msg) (s : State) : State :=
  let s := s.mapGrp fun g => g.countFlits m
  match s.grp.twin with
  | none => s.sendOut id m
  | some _ =>
    (s.twinOutput (leNat m.image)).mapGrp fun g =>
      { g with twin := g.twin.map fun t => if t.primary then { t with waiting := t.waiting ++ [(t.made, id, m)] } else t }
/-- INJECTION (R190): entry n leaves the core, in the order in which the entries of its queue were taken, once the tail
that it releases is published. A reply frees its entry as it leaves (R193). -/
def execInjection (n : Nat) (s : State) : Result :=
  .next (match s.grp.inj[n]? with
    | none => s.stall
    | some e =>
      let first := !((s.grp.inj.take n).any fun x => x.kind == e.kind && match x.stage with | .waiting _ => true | _ => false)
      match e.stage with
      | .waiting w =>
        let ready := match w with | some t => s.grp.released .pod t | none => true
        if !first || !ready || s.core.vacant || s.grp.stopped then s.stall
        else
          let m := match w with | some t => { e.msg with tail := t } | none => e.msg
          let s := match w with | some t => s.mapGrp (Group.publish t) | none => s
          let s := s.mapGrp fun g =>
            { g with inj := if e.kind == .reply then listDrop g.inj n else listSet g.inj n { e with msg := m, stage := .sent } }
          s.launchMsg e.id m
      | _ => s.stall)
/-- REINJECTION (R171): a bounced entry leaves again, of a replica once more by its hash (R357); its flits count again (R207). -/
def execReinjection (n : Nat) (s : State) : Result :=
  .next (match s.grp.inj[n]? with
    | none => s.stall
    | some e =>
      if e.stage ≠ .bounced || s.portHolds || s.core.vacant || s.grp.stopped then s.stall
      else (s.mapGrp fun g => { g with inj := listSet g.inj n { e with stage := .sent } }).launchMsg e.id e.msg)
/-- STREAM_INJECTION (R176): a message of up to 16 words, against credits. DESIGN CHOICE (log 134): its type is 0. DESIGN CHOICE (log 143):
it does not wait for a resend of class 2 in the request queue (R192). -/
def execStreamInjection (q : BitVec 3) (s : State) : Result :=
  let v := s.grp.queue q
  let c := s.grp.chan v.chan
  let n := min (v.words.length - v.injected) (min c.credits 16)
  .next (if !v.bound || q.toNat < 4 || !c.isStream || n = 0 || s.portHolds || s.core.vacant || s.grp.stopped then s.stall
    else
      let ws := (v.words.drop v.injected).take n
      let m := { (Msg.plain c.peer s.grp.name 0 2 (ws.flatMap fun w => leBytes 8 w.toNat)) with chan := v.chan }
      let s := s.mapTable v.chan fun g =>
        let g := (g.setQueue q { v with injected := v.injected + n }).setChan v.chan { c with credits := c.credits - n }
        let r := g.sequence v.chan m
        { r.2 with inj := r.2.inj ++ [{ id := r.2.nextInj, kind := .stream q, msg := r.1, stage := .sent }],
                   nextInj := r.2.nextInj + 1, sent := r.2.sent + 1 }
      match s.grp.inj.getLast? with
      | some e => s.launchMsg e.id e.msg
      | none => s)

/-! ## The order at a core's port (R179, R186, R218, R232, R372) -/

/-- The channel kind that a class travels on (R174). -/
def kindOfClass (c : BitVec 3) : Nat := match c.toNat with | 0 => 0 | 2 => 1 | _ => 2
/-- The checks of R174: a sequenced arrival on an open channel of its kind that names its source. -/
def State.sequenced (m : Msg) (s : State) : Bool :=
  let e := s.grp.chan m.chan
  m.seqd && e.isOpen && e.kind == kindOfClass m.cls && e.peer == m.source
/-- The focus core's group holds the injection entry that a notice answers (R171). -/
def State.ownEntry (m : Msg) (id : Nat) (s : State) : Bool := s.isHere m.source && s.grp.inj.any fun e => decide (e.id = id)
/-- The focus core's group cannot take the packet yet: a message that the sump has accepted and whose turn in its sequence has not
come, while the reorder store is full (R174, R186), or a stream message that it has accepted, whose inbound entry has still to open
(R197); a notice with no entry to wait in (R171). An answer for a group that is not here reaches it where it stands (R171). -/
def State.mustWait (p : Packet) (s : State) : Bool :=
  match p.body with
  | .msg m =>
    let c := s.grp.chan m.chan
    let k := (m.seq.toNat + 2 ^ 16 - c.rxseq) % 2 ^ 16
    s.isHere m.dest && p.accepted && ((m.cls == 2 && !(c.isStream && decide (c.queue < 4))) ||
      (s.sequenced m && decide (1 ≤ k) && decide (k < 32768) && decide (Config.reorderDepth ≤ s.grp.reorder.length)))
  | .accept dst _ | .bounce dst _ => !s.isHere dst
  | .credit dst _ _ => !(s.isHere dst && !s.grp.isSecondary)
  | .notice m id => s.isHere m.source && !s.ownEntry m id && !s.grp.ended && (s.grp.stopped || s.grp.freeMbox.isNone)
  | _ => false
/-- The class whose order traffic keeps (R170, R372): a twin's hashes keep their own, and an access that of its fabric flow (R376). -/
def Traffic.flow (b : Traffic) : Option Nat := match b with | .access .. | .twinHash _ => none | b => some b.class
/-- Two pieces of traffic of one class from one core to one place arrive in the order in which they left, unless one takes another route
than the other (R372). -/
def Packet.sameFlow (x p : Packet) : Bool :=
  x.body.flow.isSome && x.body.flow == p.body.flow && x.source == p.source && x.away == p.away && x.place == p.place &&
    !x.rerouted && !p.rerouted
/-- Packet n may come up at the place that it has reached: nothing that the port released, and nothing earlier of its own
flow, still waits there (R232, R372). -/
def State.turnAt (n : Nat) (p : Packet) (s : State) : Bool :=
  !(s.net.take n).any fun x => !s.mustWait x && ((x.released && x.place == p.place) || x.sameFlow p)
/-- The same of an answer to the focus core's group, which a locked port takes too (R218, R232, R372). -/
def State.answerTurn (n : Nat) (p : Packet) (s : State) : Bool :=
  !(s.net.take n).any fun x => !s.mustWait x && ((!s.portHolds && x.released && x.place == .core s.core.at_) || x.sameFlow p)
/-- Nothing that the port of the focus core has released waits there: it may accept what arrives now (R232). -/
def State.portClear (s : State) : Bool :=
  s.portHolds || !s.net.any fun x => !s.mustWait x && x.released && x.place == .core s.core.at_
/-- The port of a locked core holds traffic, in the order of arrival (R182, R218). -/
def State.holdAtPort (n : Nat) (p : Packet) (s : State) : State :=
  ({ s with net := listDrop s.net n } : State).mapCore fun c => { c with held := c.held ++ [p] }
/-- NAME_CACHE_UPDATE (R182, R183). -/
def execNameCacheUpdate (n : Nat) (s : State) : Result :=
  .next (match s.net[n]? with
    | none => s.stall
    | some p =>
      match p.body with
      | .nameUpdate name m c =>
        if p.place ≠ .core s.core.at_ || !s.turnAt n p then s.stall
        else if s.portHolds then s.holdAtPort n p
        else if !s.admits p.body.class then { s with net := listDrop s.net n }
        else { s.mapCore (Core.learn name m c) with net := listDrop s.net n }
      | _ => s.stall)

/-! ## What comes back to the sender (R171, R176) -/

/-- The words of outbound queue q that the messages before entry `id` hold: the oldest, in the order of their injection (R176). -/
def Group.wordsBefore (q : BitVec 3) (id : Nat) (g : Group) : Nat :=
  ((g.inj.takeWhile fun x => decide (x.id ≠ id)).filter fun x => x.kind == .stream q).foldl (fun n x => n + x.msg.len / 8) 0
/-- Free an injection entry: the words of a stream message, which need not be the oldest, leave its queue (R171). -/
def Group.freeInj (id : Nat) (g : Group) : Group :=
  match g.inj.find? (fun e => e.id = id) with
  | none => g
  | some e =>
    let rest := g.inj.filter fun x => decide (x.id ≠ id)
    match e.kind with
    | .stream q =>
      let v := g.queue q
      let n := e.msg.len / 8
      let i := g.wordsBefore q id
      { g.setQueue q { v with words := v.words.take i ++ v.words.drop (i + n), injected := v.injected - n } with inj := rest }
    | _ => { g with inj := rest }
/-- ACCEPTANCE_ARRIVAL (R171): an acceptance frees its entry; a bounce sends it out again later. One for a group that has left
the core, killed, finds no entry. -/
def execAcceptanceArrival (n : Nat) (s : State) : Result :=
  .next (match s.net[n]? with
    | none => s.stall
    | some p =>
      if !s.answerTurn n p then s.stall
      else match p.body with
      | .accept dst id =>
        if s.isHere dst then { s.mapGroup dst (Group.freeInj id) with net := listDrop s.net n }
        else if p.place = .core s.core.at_ then { s with net := listDrop s.net n }
        else s.stall
      | .bounce dst id =>
        if s.isHere dst then
          { s.mapGroup dst fun g => { g with inj := g.inj.map fun e => if e.id = id then { e with stage := .bounced } else e } with
            net := listDrop s.net n }
        else if p.place = .core s.core.at_ then { s with net := listDrop s.net n }
        else s.stall
      | _ => s.stall)
/-- CREDIT_RETURN (R176): an event (R107). Of two replicas the primary takes it, for both (R357). -/
def execCreditReturn (n : Nat) (s : State) : Result :=
  .next (match s.net[n]? with
    | none => s.stall
    | some p =>
      match p.body with
      | .credit dst c k =>
        if s.isHere dst && !s.grp.isSecondary && s.answerTurn n p then
          let e := s.grp.chan c
          let s : State := { s with net := listDrop s.net n }
          if e.isStream && 4 ≤ e.queue then
            s.bothReplicas fun s =>
              let e := s.grp.chan c
              (s.mapTable c (Group.setChan c { e with credits := min 32 (e.credits + k) })).raise
          else s
        else s.stall
      | _ => s.stall)

/-! ## Into the mailbox (R152, R153, R172, R180) -/

/-- Write a message into a mailbox entry and make it pending: an event (R107). A message of a releasing sender is first
acquired (R180, R267). Arrivals are numbered, for the order of their starts (R154). -/
def State.writeEntry (i : Nat) (m : Msg) (s : State) : State :=
  let s := if m.rel then s.acquire (m.source.setWidth 41) m.tail else s
  let s := (s.writeWell (mboxAddr i) m.image).mapGrp fun g =>
    { g with mbox := listSet g.mbox i (.pending g.arrivals), arrivals := g.arrivals + 1 }
  s.raise.discardDisabled
/-- Is entry i reserved for a reply of this name (R191)? -/
def Group.reservedFor (g : Group) (i : Nat) (n : Name) : Bool := g.mbox[i]? == some (.reserved n)
/-- The entry that a returned request reserved is free for its notice (R191, R230). -/
def Group.unreserve (m : Msg) (g : Group) : Group :=
  if g.reservedFor m.rslot.toNat m.dest then { g with mbox := listSet g.mbox m.rslot.toNat .free } else g
/-- A notice is written into the lowest free entry of its sender's mailbox, in the same moment freeing the entry that its
request reserved (R171, R191); its injection entry is freed. -/
def State.writeNotice (id : Nat) (m : Msg) (s : State) : Option State :=
  match (s.grp.unreserve m).freeMbox with
  | none => none
  | some i => some ((s.mapGrp fun g => (g.unreserve m).freeInj id).writeEntry i m)
/-- The notices that wait for a mailbox entry, and the numbers of their arrivals. -/
def Group.notices (g : Group) : List (Msg × Nat) :=
  g.inj.filterMap fun e => match e.stage with | .notice m t => some (m, t) | _ => none
/-- A notice waits that a free entry can take: it arrived before what arrives now (R179). -/
def Group.noticeDue (g : Group) : Bool := g.notices.any fun x => (g.unreserve x.1).freeMbox.isSome
/-- A notice waits in its injection entry (R171). -/
def Group.keepNotice (id : Nat) (m : Msg) (g : Group) : Group :=
  { g with inj := g.inj.map (fun e => if e.id = id then { e with stage := .notice m g.arrivals } else e), arrivals := g.arrivals + 1 }
def State.noteNotice (m : Msg) (s : State) : State := s.count (if m.mtype = 0xFF then 0x050 else 0x053) 1 none
/-- The primary's port copies what it accepts to the secondary (R357). A copy has no entry to answer. -/
def State.copyToTwin (p : Packet) (s : State) : State :=
  match s.grp.twin with
  | some t => if t.primary then s.emit { p with place := .core t.partner, source := s.core.at_, copy := true } else s
  | none => s
/-- A valid forward pointer for a name (R222). -/
def State.pointer (n : Name) (s : State) : Option Coord :=
  (s.core.forwards.reverse.find? (fun f => f.name = n ∧ s.cycle < f.since + 4096)).map (·.target)
/-- A notice for the group of the focus core: it is written if an entry is free for it, and otherwise waits in its injection entry; it is
held there while a swap freezes the core (R218), or while the group, killed, accepts nothing (R346). At a group that has ended
it is consumed (R164, R348). -/
def State.takeNotice (n : Nat) (p : Packet) (m : Msg) (id : Nat) (s : State) : State :=
  let t : State := (({ s with net := listDrop s.net n } : State).noteNotice m).copyToTwin { p with body := .notice m id }
  let waiting := if s.ownEntry m id then t.mapGrp (Group.keepNotice id m) else s.stall
  if s.grp.ended then t.mapGrp fun g => { g with consumed := g.consumed + 1 }
  else if s.portHolds || s.grp.stopped || s.grp.noticeDue then waiting
  else (t.writeNotice id m).getD waiting
/-- A notice for a group that is not here goes one hop on, or to the directory home, like every message (R182, R232). -/
def State.passNotice (p : Packet) (m : Msg) (id : Nat) (s : State) : State :=
  let p := { p with released := false }
  let s := s.count 0x054 1 none
  match s.pointer m.source with
  | some c =>
    if m.fwd.toNat < 3 then
      (s.emit { p with place := .core c, body := .notice { m with fwd := m.fwd + 1 } id }).answer p 0 (.nameUpdate m.source s.board.module c)
    else s.emit { p with place := .directory }
  | none => s.emit { p with place := .directory }
/-- NOTICE_ARRIVAL (R171). A notice that answers an injection entry of the group reaches it, at a locked port too (R218). One whose entry
has been freed is inbound traffic like any other: a locked port holds it, and it goes on if its group has left (R182, R232). Of two
replicas the primary takes it, and the secondary the primary's copy (R357): at the secondary's core any other goes on. -/
def execNoticeArrival (n : Nat) (s : State) : Result :=
  .next (match s.net[n]? with
    | none => s.stall
    | some p =>
      match p.body with
      | .notice m id =>
        let mine := s.isHere m.source && s.grp.isSecondary == p.copy
        if mine && s.ownEntry m id then (if s.answerTurn n p then s.takeNotice n p m id else s.stall)
        else if p.place ≠ .core s.core.at_ || !s.turnAt n p then s.stall
        else if mine then (if s.portHolds then s.holdAtPort n p else s.takeNotice n p m id)
        else if p.copy then { s with net := listDrop s.net n }
        else if s.portHolds then s.holdAtPort n p
        else ({ s with net := listDrop s.net n } : State).passNotice p m id
      | _ => s.stall)
/-- NOTICE_WRITE (R171, R179, R230): the notice that entry n holds is written once a mailbox entry is free; of several, the one
that can be written, the one that arrived first. -/
def execNoticeWrite (n : Nat) (s : State) : Result :=
  .next (match s.grp.inj[n]? with
    | none => s.stall
    | some e =>
      match e.stage with
      | .notice m t =>
        if s.portHolds || s.core.vacant || s.grp.stopped ||
            s.grp.notices.any fun x => decide (x.2 < t) && (s.grp.unreserve x.1).freeMbox.isSome then s.stall
        else (s.writeNotice e.id m).getD s.stall
      | _ => s.stall)

/-! ## Delivery at a core (R173 to R179) -/

/-- What becomes of an arrival that comes up for delivery. -/
inductive Fate | done | refuse | bounce | wait
  deriving DecidableEq, Repr
/-- DESIGN CHOICE (log 107): a resent image of class 2 delivers its whole words, and one of class 3 fills its row with zeros beyond its
length (R192).
Deliver (R173, R176, R178, R191), acquiring a releasing sender's tail first (R180): a request into the lowest free mailbox entry, stream words into their queue, a
register write into its held row, behind those that already wait for it (R179), a reply into its reserved entry. -/
def State.deliver (m : Msg) (s : State) : Fate × State :=
  match m.cls.toNat with
  | 2 =>
    let c := s.grp.chan m.chan
    if c.isStream && c.queue < 4 then
      let q := BitVec.ofNat 3 c.queue
      let ws := (upTo (m.len / 8)).map fun i => BitVec.ofNat 64 (leNat ((m.data.drop (8 * i)).take 8))
      let s := if m.rel then s.acquire (m.source.setWidth 41) m.tail else s
      (.done, (s.mapGrp fun g =>
        let v := g.queue q
        g.setQueue q { v with words := v.words ++ ws, marks := v.marks ++ [ws.length] }).raise)
    else (.bounce, s)
  | 3 =>
    let v : VReg := m.row
    let waits := s.core.fills.any fun p => match p.body with | .msg x => x.row == m.row | _ => false
    if !s.grp.hold.getLsbD v.toNat then (.refuse, s)
    else if s.grp.busy.getLsbD v.toNat || waits then (.wait, s)
    else
      let s := if m.rel then s.acquire (m.source.setWidth 41) m.tail else s
      (.done, (s.mapGrp fun g =>
        { g.setRow v (rowOfBytes m.data) with hold := g.hold &&& ~~~(1#32 <<< v.toNat), consumed := g.consumed + 1 }).raise)
  | 1 =>
    if s.grp.reservedFor m.rslot.toNat m.source then (.done, s.writeEntry m.rslot.toNat m)
    else (.done, s.mapGrp fun g => { g with consumed := g.consumed + 1 })
  | _ =>
    match s.grp.freeMbox with
    | some i => (.done, s.writeEntry i m)
    | none => (.refuse, s)
/-- A refusal of type 0xFF: the arrival is consumed and the notice is a new message (R164, R173). -/
def State.refuse (id : Nat) (p : Packet) (m : Msg) (s : State) : State :=
  (s.mapGrp fun g => { g with consumed := g.consumed + 1, sent := g.sent + 1 }).returnAs 0xFF id p m
/-- An accepted arrival is acknowledged to its sender, and copied to the secondary; the sump has acknowledged what it kept
(R185). -/
def State.accept (p : Packet) (m : Msg) (s : State) : State :=
  if s.grp.isSecondary then s
  else if p.accepted then s.copyToTwin { p with id := 0, body := .msg m }
  else
    (s.answer p p.id (.accept m.source p.id)).copyToTwin { p with id := 0, body := .msg m }
def State.settle (f : Fate) (p : Packet) (m : Msg) (s : State) : State :=
  match f with
  | .done => s.accept p m
  | .refuse => s.refuse p.id p m
  | .bounce => s.answer p p.id (.bounce m.source p.id)
  | .wait => s.mapCore fun c => { c with fills := c.fills ++ [p] }
/-- The source core of a message that the reorder store has kept, whose packet is gone (R182, R232): DESIGN CHOICE (log 106), the core where
its sender now stands, or else this core. -/
def State.senderCore (m : Msg) (s : State) : Coord := ((s.holder m.source).map (·.at_)).getD s.core.at_
/-- A message that the reorder store has kept, as the packet it arrived in: accepted, its sender's entry free. -/
def State.storedPacket (place : Place) (m : Msg) (s : State) : Packet :=
  { place := place, id := 0, source := s.senderCore m, body := .msg m, accepted := true,
    away := if deviceOf m.source = s.board.module then none else some (deviceOf m.source) }
/-- Deliver what the reorder store holds next for channel c, while it is delivered (R174); at most as many messages as
the store holds. A register write that finds its row busy then waits at the port (R178). -/
def State.scanStore (c : BitVec 6) : Nat → State → State
  | 0, s => s
  | fuel + 1, s =>
    let e := s.grp.chan c
    match s.grp.reorder.find? (fun m => m.chan == c && m.seq.toNat == e.rxseq) with
    | none => s
    | some m =>
      let out (t : State) : State := t.mapGrp fun g => { g with reorder := g.reorder.filter fun x => decide (x ≠ m) }
      match s.deliver m with
      | (.done, t) =>
        let t := out t
        State.scanStore c fuel (t.mapTable c fun g => g.setChan c { (g.chan c) with rxseq := (e.rxseq + 1) % 2 ^ 16 })
      | (.wait, _) => (out s).mapCore fun x => { x with fills := x.fills ++ [s.storedPacket (.core x.at_) m] }
      | (_, _) => (out s).refuse 0 (s.storedPacket (.core s.core.at_) m) m
/-- An arrival in sequence is delivered, and the reorder store is scanned behind it (R174). -/
def State.inOrder (p : Packet) (m : Msg) (s : State) : State :=
  let e := s.grp.chan m.chan
  match s.deliver m with
  | (.done, t) =>
    let t := (t.mapTable m.chan fun g => g.setChan m.chan { (g.chan m.chan) with rxseq := (e.rxseq + 1) % 2 ^ 16 }).accept p m
    t.scanStore m.chan Config.reorderDepth
  | (f, _) => s.settle f p m
/-- R174: the fate of an arrival at the core that holds its destination. -/
def State.receive (p : Packet) (m : Msg) (s : State) : State :=
  let e := s.grp.chan m.chan
  if s.sequenced m then
    let k := (m.seq.toNat + 2 ^ 16 - e.rxseq) % 2 ^ 16
    if k = 0 then s.inOrder p m
    else if k < 32768 then
      if s.grp.reorder.length < Config.reorderDepth then (s.mapGrp fun g => { g with reorder := g.reorder ++ [m] }).accept p m
      else if p.accepted then s.stall
      else ((s.mapCore fun c => { c with refusedOrder := c.refusedOrder + 1 }).count 0x051 1 none).settle .bounce p m
    else (s.mapGrp fun g => { g with consumed := g.consumed + 1 }).accept p m
  else
    match s.deliver m with
    | (.done, t) => t.accept p m
    | (f, _) => s.settle f p m
/-- A message for a group that is not here goes one hop on, or to the directory home (R182). -/
def State.pass (p : Packet) (m : Msg) (s : State) : State :=
  let p := { p with released := false }
  let s := s.count 0x054 1 none
  match s.pointer m.dest with
  | some c =>
    if m.fwd.toNat < 3 then
      (s.emit { p with place := .core c, body := .msg { m with fwd := m.fwd + 1 } }).answer p 0 (.nameUpdate m.dest s.board.module c)
    else s.emit { p with place := .directory }
  | none => s.emit { p with place := .directory }
/-- A weight or position update for a group that is not here goes the way of a message for it, but keeps no count of hops (R208,
R219, R232; log 73). -/
def State.passUpdate (p : Packet) (dst : Name) (s : State) : State :=
  s.emit { p with released := false, place := match s.pointer dst with | some c => .core c | none => .directory }
/-- A copy of what the primary accepted reaches the secondary, which delivers the copies in their order and refuses none:
one that it cannot take yet waits (R357), as do stream words beyond the 32 of their queue, whose room is that of the primary, which
returns the credits (R176). -/
def State.replicaArrival (n : Nat) (p : Packet) (m : Msg) (s : State) : State :=
  let earlier := (s.net.take n).any fun x => x.place == p.place && x.source == p.source
  let t : State := { s with net := listDrop s.net n }
  let u := if m.cls = 1 then (t.deliver m).2 else t.receive p m
  let overfull := [(0 : BitVec 3), 1, 2, 3].any fun q => decide (32 < (u.grp.queue q).words.length)
  if earlier || overfull || decide (t.net.length < u.net.length) then s.stall else u
/-- The message comes from a group, not from firmware, which holds no name that a launch can form (R390). -/
def State.fromGroup (m : Msg) (s : State) : Bool := deviceOf m.source != s.board.module || (s.dirEntry m.source).isSome
/-- An arrival of one of the given classes at the focus core: held at a locked port, passed on, returned or kept for a
sealed name (R184), or received; what is no copy passes the core of a secondary by, to the primary (R182, R357); the firewall of a firmware core returns what comes from a group, and what its role does not admit (R390). A sealed name keeps replies and what has been accepted, which no kill loses (R349). -/
def State.arrival (n : Nat) (classes : List Nat) (s : State) : State :=
  match s.net[n]? with
  | none => s.stall
  | some p =>
    match p.body with
    | .msg m =>
      if p.place ≠ .core s.core.at_ || !classes.contains m.cls.toNat || !s.turnAt n p then s.stall
      else
        let t : State := { s with net := listDrop s.net n }
        if s.portHolds then s.holdAtPort n p
        else if s.firmwareCore && (!s.admits m.cls.toNat || s.fromGroup m) then t.deadHome s.core.at_ p m
        else if !(s.isHere m.dest && s.grp.isSecondary == p.copy) then (if p.copy then t else t.pass p m)
        else if p.copy then s.replicaArrival n p m
        else if s.grp.sealed then
          if m.cls = 1 || p.accepted then
            (if s.grp.ended then t.mapGrp fun g => { g with consumed := g.consumed + 1 } else { t with sump := t.sump ++ [(m.dest, p)] })
          else t.returnAs 0xFD p.id p m
        else if m.cls = 1 then (t.deliver m).2.copyToTwin p
        else if s.mustWait p || (m.cls == 0 && s.grp.noticeDue) then s.stall
        else t.receive p m
    | _ => s.stall
/-- MESSAGE_ARRIVAL (R173, R174, R182, R184). -/
def execMessageArrival (n : Nat) (s : State) : Result := .next (s.arrival n [0])
/-- REPLY_ARRIVAL (R172, R191). -/
def execReplyArrival (n : Nat) (s : State) : Result := .next (s.arrival n [1])
/-- STREAM_ARRIVAL (R176). -/
def execStreamArrival (n : Nat) (s : State) : Result := .next (s.arrival n [2])
/-- REGISTER_WRITE_ARRIVAL (R178). -/
def execRegisterWriteArrival (n : Nat) (s : State) : Result := .next (s.arrival n [3])
/-- DEFERRED_FILL (R178, R179): write n of those at the port fills its row once busy clears, the earliest for a row first. -/
def execDeferredFill (n : Nat) (s : State) : Result :=
  .next (match s.core.fills[n]? with
    | none => s.stall
    | some p =>
      match p.body with
      | .msg m =>
        let earlier := (s.core.fills.take n).any fun x => match x.body with | .msg y => y.row == m.row | _ => false
        if earlier || s.grp.busy.getLsbD m.row.toNat || s.portHolds || s.grp.stopped then s.stall
        else
          -- the later writes to the row wait on, and those to other rows stand before what the reorder store may now deliver
          let sooner := s.core.fills.take n
          let later := s.core.fills.drop (n + 1)
          let others := later.filter fun x => match x.body with | .msg y => y.row != m.row | _ => true
          ((s.mapCore fun c => { c with fills := sooner ++ others }).receive p m).mapCore fun c =>
            { c with fills := sooner ++ later ++ c.fills.drop (sooner ++ others).length }
      | _ => s.stall)
/-- HANDLER_START (R154): idle slot 1 or 2 starts the pending entry of its class of the highest priority, the earliest
among equals, whose message class is not masked (R199). -/
def Group.candidate (g : Group) (k : SlotId) : Option Nat :=
  let stampOf (i : Nat) : Option Nat := match g.mbox[i]? with | some (.pending t) => some t | _ => none
  let masked (i : Nat) : Bool := g.classMask.getLsbD (bits (g.well.nat (mboxAddr i) 32) 90 88)
  let prio (i : Nat) : Nat := bits (g.handler (g.entryType i)) 28 27
  let better (i j : Nat) : Bool := prio j < prio i || (prio i == prio j && (stampOf i).getD 0 < (stampOf j).getD 0)
  ((upTo g.mbox.length).filter fun i => (stampOf i).isSome && g.entryClass i == some k && !masked i).foldl
    (fun best i => match best with | none => some i | some j => if better i j then some i else some j) none
def execHandlerStart (k : SlotId) (s : State) : Result :=
  .next (if (k = 1 ∨ k = 2) ∧ !(s.grp.slot k).active ∧ !s.core.vacant ∧ !s.grp.stopped ∧ !s.portHolds then
      match s.grp.candidate k with
      | some i => s.mapGrp (Group.startHandler k i)
      | none => s.stall
    else s.stall)

/-! ## The directory and the sump (R183 to R186) -/

/-- Packet n has been taken. -/
def State.dropNet (n : Nat) (s : State) : State := { s with net := listDrop s.net n }
/-- A sealed name's message goes back; a reply, or one that has been accepted, waits in the sump, or ends there with its group
(R184, R348, R349). -/
def State.sealedHome (here : Coord) (e : DirEntry) (p : Packet) (m : Msg) (s : State) : State :=
  if m.cls ≠ 1 ∧ !p.accepted then s.returnBy here 0xFD p.id p m
  else if e.ended then s.countConsumed m.dest
  else { s with sump := s.sump ++ [(m.dest, p)] }
/-- An arrival for a name whose entry is moving, with the packet as it waits at its home. -/
def State.holdAtHome (n : Name) (p : Packet) (s : State) : State := s.mapDir n fun e => { e with held := e.held ++ [p] }
/-- DIRECTORY_ARRIVAL (R183, R184): the home handles a message by its destination's state; while the entry is moving it
holds the message; a message it sends on is followed by a name-cache update to the source. A weight or position update is sent
on too; for a group that is not resident it is dropped (R208; log 73). Credits and notices for one that is saved wait in the sump
(R171, R176; log 93). What the home sends leaves by the router of its core (R183). -/
def execDirectoryArrival (n : Nat) (s : State) : Result :=
  .next (match s.net[n]? with
    | none => s.stall
    | some p =>
      if p.place ≠ .directory || !s.turnAt n p then s.stall
      else
        match p.body, p.body.to? with
        | .msg m, _ =>
          (match s.dirEntry m.dest with
          | none => (s.dropNet n).deadHome (homeCore m.dest) p m
          | some e =>
            if e.moving then (s.dropNet n).holdAtHome m.dest p
            else if e.residence = .released then (s.dropNet n).deadHome (homeCore m.dest) p m
            else if e.sealed then (s.dropNet n).sealedHome (homeCore m.dest) e p m
            else
              match e.residence with
              | .resident c =>
                ((s.dropNet n).emit { p with place := .core c }).answerBy (homeCore m.dest) p 0 (.nameUpdate m.dest s.board.module c)
              | _ => (s.dropNet n).emit { p with place := .sump })
        | _, some dst =>
          (match s.dirEntry dst with
          | none => s.dropNet n
          | some e =>
            if e.moving then (s.dropNet n).holdAtHome dst p
            else
              match e.residence with
              | .resident c => (s.dropNet n).emit { p with place := .core c }
              | .preempted | .parked =>
                (match p.body with
                | .credit .. => { s.dropNet n with sump := s.sump ++ [(dst, p)] }
                | .notice .. => if e.ended then (s.dropNet n).countConsumed dst else { s.dropNet n with sump := s.sump ++ [(dst, p)] }
                | _ => s.dropNet n)
              | _ => s.dropNet n)
        | _, none => s.stall)
/-- DIRECTORY_UPDATE (R183): a posted position is recorded unless a later one has been, and clears the moving mark of its own
swap; the arrivals held are then sent on. A group that is not resident stays where it is recorded. -/
def execDirectoryUpdate (n : Nat) (s : State) : Result :=
  .next (match s.net[n]? with
    | none => s.stall
    | some p =>
      match p.body with
      | .dirUpdate name c k =>
        (if !s.turnAt n p then s.stall else match s.dirEntry name with
        | none => s.dropNet n
        | some e =>
          let newer := decide (e.moves ≤ k) && match e.residence with | .resident _ => true | _ => false
          let t := (s.dropNet n).mapDir name fun e => if newer then { e with residence := .resident c, moves := k } else e
          if e.moving && decide (e.awaits ≤ k) then t.settleEntry name id else t)
      | _ => s.stall)

/-! ## The sump (R184 to R186, R362) -/

/-- A refusal that the sump makes for a group is counted in its saved counts, or, before it is created, at its entry (R164). -/
def State.countRefusal (n : Name) (s : State) : State :=
  if s.frames.any fun x => x.name == n then s.mapSaved n fun g => { g with consumed := g.consumed + 1, sent := g.sent + 1 }
  else s.mapDir n fun e => { e with sent := e.sent + 1, consumed := e.consumed + 1 }
/-- The sump acknowledges what it queues or applies (R171, R185). -/
def State.sumpAccept (p : Packet) (m : Msg) (s : State) : State :=
  if p.accepted then s else s.answerBy (s.sumpCore m.dest) p p.id (.accept m.source p.id)
def State.sumpRefuse (p : Packet) (m : Msg) (s : State) : State :=
  (s.countRefusal m.dest).returnBy (s.sumpCore m.dest) 0xFF (if p.accepted then 0 else p.id) p m
def State.sumpQueue (p : Packet) (m : Msg) (s : State) : State :=
  ({ s with sump := s.sump ++ [(m.dest, { p with place := .sump, accepted := true })] } : State).sumpAccept p m
/-- How many requests a name's queue holds (R185). -/
def State.sumpRequests (n : Name) (s : State) : Nat :=
  (s.sump.filter fun e => e.1 == n && match e.2.body with | .msg x => x.cls == 0 | _ => false).length
/-- What becomes of a register write for a saved group (R184, R185, R305, R362). -/
inductive SavedWrite | apply | queue | refuse
  deriving DecidableEq, Repr
def Group.savedWrite (m : Msg) (g : Group) : SavedWrite :=
  let e := g.chan m.chan
  if m.seqd && e.isRegister && e.peer == m.source && decide (m.seq.toNat ≠ e.rxseq) then .queue
  else if !g.hold.getLsbD m.row.toNat then .refuse
  else if g.busy.getLsbD m.row.toNat then .queue
  else .apply
/-- A register write fills a saved row: the channel's rxseq grows if it is in sequence (R174), and the hold bit clears (R362). -/
def Group.fillSaved (m : Msg) (g : Group) : Group :=
  let e := g.chan m.chan
  let g := if m.seqd && e.isRegister && e.peer == m.source then g.setChan m.chan { e with rxseq := (e.rxseq + 1) % 2 ^ 16 } else g
  { g.setRow m.row (rowOfBytes m.data) with hold := g.hold &&& ~~~(1#32 <<< m.row.toNat), consumed := g.consumed + 1 }
/-- The sump applies a register write to the saved group and its image: row n at 0x8200 + 128n, the channel's entry in the well, and
what stands from 0x9200 up (R360, R362). -/
def State.applySaved (x : SaveFrame) (m : Msg) (s : State) : State :=
  let g := (s.loadFrame x).fillSaved m
  ((s.storeFrame { x with grp := g }).writeMain (x.base + 0x8200 + 128 * m.row.toNat) (rowBytes (g.row m.row))).writeMain
    (x.base + 16 * m.chan.toNat) (g.well.readN (16 * m.chan.toNat) 16)
/-- A register write whose turn has come is applied, or refused if its row is not held (R184, R362). -/
def State.takeTurn (x : SaveFrame) (p : Packet) (m : Msg) (s : State) : State :=
  match (s.loadFrame x).savedWrite m with
  | .apply => s.applySaved x m
  | _ => s.sumpRefuse p m
/-- The writes whose turn has come, in the saved reorder store and then in the queue, are applied or refused; at most as many as the
fuel (R185, R362). -/
def State.scanSump (n : Name) : Nat → State → State
  | 0, s => s
  | fuel + 1, s =>
    match s.frames.find? (fun x => x.name = n) with
    | none => s
    | some x =>
      let g := s.loadFrame x
      let due (m : Msg) : Bool := m.cls == 3 && g.savedWrite m != .queue
      match g.reorder.find? due with
      | some m =>
        let g := { g with reorder := g.reorder.filter fun y => decide (y ≠ m) }
        let x := { x with grp := g }
        State.scanSump n fuel ((s.storeFrame x).takeTurn x (s.storedPacket .sump m) m)
      | none =>
        match s.sump.findIdx? (fun e => e.1 == n && match e.2.body with | .msg m => due m | _ => false) with
        | none => s
        | some i =>
          match s.sump[i]? with
          | some (_, p) =>
            (match p.body with
            | .msg m => State.scanSump n fuel (({ s with sump := listDrop s.sump i } : State).takeTurn x p m)
            | _ => s)
          | none => s
/-- What the sump does with an arrival for a group that is not resident (R184, R185): requests while fewer than 256 are queued,
stream words and replies are queued; a register write is applied to the saved image, kept until its turn, or refused. -/
def State.sumpTake (p : Packet) (m : Msg) (s : State) : State :=
  match m.cls.toNat with
  | 0 => if s.sumpRequests m.dest < 256 then s.sumpQueue p m else s.sumpRefuse p m
  | 1 => { s with sump := s.sump ++ [(m.dest, p)] }
  | 3 =>
    (match s.frames.find? (fun x => x.name = m.dest) with
    | none => s.sumpRefuse p m
    | some x =>
      match (s.loadFrame x).savedWrite m with
      | .queue => s.sumpQueue p m
      | .refuse => s.sumpRefuse p m
      | .apply => ((s.applySaved x m).sumpAccept p m).scanSump m.dest (s.sump.length + Config.reorderDepth))
  | _ => s.sumpQueue p m
/-- A message at the sump is taken as its name now stands: one whose name has ended, or has been sealed, is returned (R184), and one
whose group has become resident goes on to its core. -/
def State.atSump (p : Packet) (m : Msg) (s : State) : State :=
  match s.dirEntry m.dest with
  | none => s.deadHome (s.sumpCore m.dest) p m
  | some e =>
    if e.residence = .released then s.deadHome (s.sumpCore m.dest) p m
    else if e.sealed then s.sealedHome (s.sumpCore m.dest) e p m
    else
      match e.residence with
      | .resident c => s.emit { p with place := .core c }
      | _ => s.sumpTake p m
/-- SUMP_ARRIVAL (R184, R185). -/
def execSumpArrival (n : Nat) (s : State) : Result :=
  .next (match s.net[n]? with
    | none => s.stall
    | some p =>
      match p.body with
      | .msg m => if p.place ≠ .sump || !s.turnAt n p then s.stall else (s.dropNet n).atSump p m
      | _ => s.stall)
/-- The notices that wait in the focus core's injection entries are written, oldest first, as far as entries are free; at most as many
as the fuel (R171, R179). -/
def State.writeNotices : Nat → State → State
  | 0, s => s
  | fuel + 1, s =>
    let due (e : InjEntry) : Option Nat :=
      match e.stage with | .notice m t => if (s.grp.unreserve m).freeMbox.isSome then some t else none | _ => none
    let first := s.grp.inj.foldl (fun (best : Option InjEntry) e =>
      match due e, best.bind due with | some t, some u => if t < u then some e else best | some _, none => some e | none, _ => best) none
    match first with
    | some e => (match e.stage with | .notice m _ => ((s.writeNotice e.id m).map (State.writeNotices fuel)).getD s | _ => s)
    | none => s
/-- The group of the focus core takes a packet that the sump kept for it (R186). One that the reorder store has no room for waits at
the port, before what arrives later; all do while traffic that the port has released waits there, and come up after it (R232). -/
def State.takeKept (p : Packet) (s : State) : State :=
  let p := { p with place := .core s.core.at_, released := true }
  if s.portHolds then s.mapCore fun c => { c with held := c.held ++ [p] }
  else if !s.portClear then s.emit p
  else match p.body with
  | .msg m =>
    if m.cls = 1 then (s.deliver m).2.copyToTwin p
    else
      let s := if m.cls = 0 then s.writeNotices s.grp.inj.length else s
      if s.mustWait p then s.emit p else s.receive p m
  | _ => s.emit p
/-- What the reorder store of the focus core's group holds next on each channel is delivered (R174, R186). -/
def State.scanStores (s : State) : State :=
  (upTo 64).foldl (fun s c => s.scanStore (BitVec.ofNat 6 c) Config.reorderDepth) s
/-- The sump manager delivers a name's queue to the core at `c`, in order of arrival, and what is still on its way to the queue behind
it (R186). -/
def State.deliverSump (n : Name) (c : Coord) (s : State) : State :=
  let coming (p : Packet) : Bool := p.place == .sump && p.isFor n
  let mine := (s.sump.filter fun e => e.1 = n).map (·.2) ++ s.net.filter coming
  let s : State := { s with sump := s.sump.filter (fun e => decide (e.1 ≠ n)), net := s.net.filter fun p => !coming p }
  s.atCore c fun s => mine.foldl (fun s p => s.takeKept p) s.scanStores

end Sys2Proof.Machine
end

