-- ==== Sys2Proof/Machine/Operands.lean ====
section
/-! DEFINITION. The operand forms of the vector instructions: lanes (R15), masks (R18, R123), lane patterns (R124),
queue sources (R125), and the waits for rows (R17, R122). -/

namespace Sys2Proof.Machine

/-! ## Lanes -/

/-- Lane l of a row, for elements of w bits (R15). -/
def lane (w : Nat) (r : Row) (l : Nat) : Nat := r.toNat / 2 ^ (w * l) % 2 ^ w
def laneCount (w : Nat) : Nat := 1024 / w
/-- The number that lanes of w bits make up, lane 0 lowest. -/
def packLanes (w : Nat) : List Nat → Nat
  | [] => 0
  | x :: rest => x % 2 ^ w + 2 ^ w * packLanes w rest
def rowOfLanes (w : Nat) (l : List Nat) : Row := BitVec.ofNat 1024 (packLanes w l)
/-- Does a mask enable lane l (R18)? -/
def laneOn (w : Nat) (m : Word) (l : Nat) : Bool := m.getLsbD (if w = 8 then l / 2 else l)

/-- The results of the enabled lanes below `n`, and the old bits of the others. -/
def laneResults (w n : Nat) (m : Word) (old : Row) (f : Nat → FRes) : List FRes :=
  (upTo (laneCount w)).map fun l => if decide (l < n) && laneOn w m l then f l else ⟨lane w old l, Flags.none⟩
/-- A row and the flags of its lanes. -/
def gather (w : Nat) (rs : List FRes) : Row × Flags :=
  (rowOfLanes w (rs.map (·.bits)), rs.foldl (fun a r => a ||| r.flags) Flags.none)
/-- An exact lane result, which raises no flag. -/
def FRes.exact (v : Nat) : FRes := ⟨v, Flags.none⟩
/-- A signed lane. -/
def laneInt (w v : Nat) : Int := (BitVec.ofNat w v).toInt
/-- The lane of a signed value, modulo 2^w. -/
def intLane (w : Nat) (i : Int) : Nat := (BitVec.ofInt w i).toNat

/-! ## Lane patterns -/

/-- Source(l) of R124. -/
def patSource (lpat : Word) (pat : Pat) (l : Nat) : Nat :=
  let j := l % 32
  let amount := bits lpat.toNat 4 0
  let k :=
    match pat.toNat with
    | 1 => 31 - j
    | 2 => (j + 31) % 32
    | 3 => (j + 1) % 32
    | 4 => (j + 32 - amount) % 32
    | 5 => (j + amount) % 32
    | 6 => j - j % 8 + lpat.toNat / 2 ^ (5 + 3 * (j % 8)) % 8
    | 7 => amount
    | 8 => (j + 16) % 32
    | 9 => j ^^^ 1
    | 10 => j ^^^ 2
    | 11 => j ^^^ 4
    | 12 => j ^^^ 8
    | 13 => j ^^^ 16
    | 14 => 0
    | _ => j
  l - j + k
/-- The patterned operand. -/
def permute (w : Nat) (lpat : Word) (pat : Pat) (r : Row) : Row :=
  if pat = 0 then r else rowOfLanes w ((upTo (laneCount w)).map fun l => lane w r (patSource lpat pat l))

/-! ## Waits and sources -/

/-- A row is free for an instruction: it is ready (R17), and no split-phase load is still to write it (R25, R274). -/
def State.rowFree (s : State) (v : VReg) : Bool :=
  s.grp.ready v && s.core.tags.all fun t => decide (t.dest ≠ .v v)
/-- Go on when every row is free; else wait (R122). -/
def State.whenRows (vs : List VReg) (go : State → State) (s : State) : State :=
  if vs.all s.rowFree then go s else s.stall
/-- The inbound queue behind a queue source (R125). -/
def queueSource (b : VReg) : BitVec 5 := b &&& 3
/-- The failure of the vb operand: a queue source that is unbound (R177). -/
def State.sourceFault (p : Pat) (b : VReg) (s : State) : Failure :=
  if p = 15 then s.grp.queueFault true (queueSource b) else none
/-- The row of the 16 oldest words (R125). -/
def queueRow (ws : List Word) : Row := rowOfLanes 64 ((ws.take 16).map BitVec.toNat)
/-- Read the patterned vb operand after the checks and waits of R121, R122 and R125, with the other rows that the
instruction touches; `late` is a check made at issue; a queue source loses its 16 words after every check. Of several checks
that fail, the model takes first that of a number field, then the destination queue's, then the source queue's, and then
`late` (log 72). -/
def State.withChecked (w : Nat) (p : Pat) (b : VReg) (rows : List VReg) (late : State → Failure)
    (go : Row → State → State) (s : State) : State :=
  if p = 15 then
    let q : BitVec 3 := (queueSource b).setWidth 3
    s.check (s.sourceFault p b) fun s =>
      s.whenRows rows fun s =>
        if (s.grp.queue q).words.length < 16 then s.stall
        else s.check (late s) fun s => go (queueRow (s.grp.queue q).words) (s.dequeue q 16)
  else
    s.whenRows (b :: rows) fun s => s.check (late s) fun s => go (permute w s.grp.lpat p (s.grp.row b)) s
def State.withB (w : Nat) (p : Pat) (b : VReg) (rows : List VReg) (go : Row → State → State) (s : State) : State :=
  s.withChecked w p b rows (fun _ => none) go

/-- Write a row and raise flags, and complete. -/
def State.rowResult (d : VReg) (r : Row × Flags) (s : State) : State :=
  ((s.mapGrp (·.setRow d r.1)).raiseFlags r.2).finish

/-- A lane operation of two operands under a mask (R128 to R130). -/
def State.lanes2 (w : Nat) (d a b : VReg) (m : MReg) (p : Pat) (f : State → Nat → Nat → FRes) (s : State) : State :=
  s.withB w p b [d, a] fun rb t =>
    t.rowResult d (gather w (laneResults w (laneCount w) (t.grp.mask m) (t.grp.row d) fun l => f s (lane w (s.grp.row a) l) (lane w rb l)))
/-- A lane operation of the patterned operand and the old destination (R128, R132, R142): f takes the lane's number,
vb and vd. -/
def State.lanes1 (w : Nat) (d b : VReg) (m : MReg) (p : Pat) (f : State → Nat → Nat → FRes) (s : State) : State :=
  s.withB w p b [d] fun rb t =>
    t.rowResult d (gather w (laneResults w (laneCount w) (t.grp.mask m) (t.grp.row d) fun l => f s l (lane w rb l)))
/-- A fused lane operation of three operands (R128). -/
def State.lanes3 (w : Nat) (d a b : VReg) (m : MReg) (p : Pat) (f : State → Nat → Nat → Nat → FRes) (s : State) : State :=
  s.withB w p b [d, a] fun rb t =>
    t.rowResult d (gather w (laneResults w (laneCount w) (t.grp.mask m) (t.grp.row d) fun l =>
      f s (lane w (s.grp.row a) l) (lane w rb l) (lane w (s.grp.row d) l)))
/-- A lane conversion of va, lanes below n, between element widths (R135, R137, R138), with a check at issue. -/
def State.convert (wf wt : Nat) (d a : VReg) (m : MReg) (late : State → Failure) (f : State → Nat → FRes) (s : State) : State :=
  s.whenRows [d, a] fun s => s.check (late s) fun s =>
    s.rowResult d (gather wt (laneResults wt (min (laneCount wf) (laneCount wt)) (s.grp.mask m) (s.grp.row d) fun l =>
      f s (lane wf (s.grp.row a) l)))

/-! ## Compares (R123, R131) -/

/-- The mask bits of a compare: one for each lane, or for each pair of 8-bit lanes the AND of the two; only bits that the
mask enables are written. -/
def compareBits (w : Nat) (m old : Word) (r : Nat → Bool) : Word :=
  (upTo 64).foldl (fun acc i =>
    let inRange := decide (i < min 64 (laneCount w))
    let v := if w = 8 then r (2 * i) && r (2 * i + 1) else r i
    let bit := if inRange && m.getLsbD i then v else old.getLsbD i
    if bit then acc ||| (1#64 <<< i) else acc) 0
def State.lanesCmp (w : Nat) (d : MReg) (a b : VReg) (m : MReg) (p : Pat) (f : Nat → Nat → Bool × Flags) (s : State) : State :=
  s.withB w p b [a] fun rb t =>
    let mk := t.grp.mask m
    let r (l : Nat) := f (lane w (s.grp.row a) l) (lane w rb l)
    let fl := ((upTo (laneCount w)).filter (laneOn w mk)).foldl (fun a l => a ||| (r l).2) Flags.none
    ((t.mapGrp fun g => g.setMask d (compareBits w mk (g.mask d) fun l => (r l).1)).raiseFlags fl).finish

/-! ## Reductions (R134) -/

/-- Fold the enabled lanes in ascending order, the first taken as it stands. -/
def reduceLanes (f : Nat → Nat → FRes) (ident : Nat) : List Nat → FRes
  | [] => FRes.exact ident
  | x :: rest => rest.foldl (fun acc y => let r := f acc.bits y; ⟨r.bits, acc.flags ||| r.flags⟩) (FRes.exact x)
def State.lanesRed (w : Nat) (d b : VReg) (m : MReg) (p : Pat) (ident : Nat) (f : State → Nat → Nat → FRes) (s : State) : State :=
  s.withB w p b [d] fun rb t =>
    let on := (upTo (laneCount w)).filter (laneOn w (t.grp.mask m))
    let r := reduceLanes (f s) ident (on.map (lane w rb))
    t.rowResult d (gather w (laneResults w 1 (BitVec.allOnes 64) (t.grp.row d) fun _ => r))

end Sys2Proof.Machine
end

