-- ==== Sys2Proof/Machine/Shared.lean ====
section
/-! DEFINITION. Translation (spec 15 R244 to R251), the shared-memory instructions (spec 17 R273 to R282) and the events of
the translation service, the log pump, the homes and the returning loads (R247, R257, R258, R260, R270, R274, R275). -/

namespace Sys2Proof.Machine

/-- The distinct members of a list, in the order in which they first stand. -/
def distinct : List Nat → List Nat
  | [] => []
  | x :: rest => x :: (distinct rest).filter (· ≠ x)

/-! ## Leaves and translation -/

/-- The consecutive ones of a leaf from bit 11 up, at most 53 (R246). -/
def onesFrom (leaf : Word) (i : Nat) : Nat → Nat
  | 0 => 0
  | n + 1 => if leaf.getLsbD i then 1 + onesFrom leaf (i + 1) n else 0
def leafOnes (leaf : Word) : Nat := onesFrom leaf 11 53
/-- The page-size exponent s of a leaf (R246). -/
def leafSize (leaf : Word) : Nat := 12 + leafOnes leaf
def leafValid (leaf : Word) : Bool := leaf.getLsbD 63
/-- The leaf of a page of size 2^s at a physical base (R245, R246). -/
def makeLeaf (base s : Nat) : Word :=
  BitVec.ofNat 64 (2 ^ 63 + 2 ^ 62 + 2 ^ 61 + base + (2 ^ (s - 12) - 1) * 2 ^ 11)
def Page.holds (p : Page) (a : Nat) : Bool := p.base ≤ a && a < p.base + 2 ^ p.s
def Page.meets (p q : Page) : Bool := p.base < q.base + 2 ^ q.s && q.base < p.base + 2 ^ p.s
/-- The matching TLB entry (R244). -/
def Core.tlbFind (c : Core) (a : Nat) : Option TlbEntry := c.tlb.find? fun e => e.page.holds a
/-- An access makes its entry the most recently used (R244). -/
def Core.tlbTouch (a : Nat) (c : Core) : Core :=
  match c.tlbFind a with
  | some e => { c with tlb := e :: c.tlb.filter fun x => decide (x ≠ e) }
  | none => c
/-- Drop the last entry that is not locked: the list is most recently used first (R244, R248). -/
def dropUnlocked : List TlbEntry → List TlbEntry
  | [] => []
  | e :: rest => if rest.any (fun x => !x.locked) then e :: dropUnlocked rest else if e.locked then e :: rest else rest
/-- Write an entry, discarding those that overlap it, and the least recently used unlocked one of a full table (R244). -/
def Core.tlbWrite (e : TlbEntry) (c : Core) : Core :=
  let l := c.tlb.filter fun x => !x.page.meets e.page
  { c with tlb := e :: (if 16 ≤ l.length then dropUnlocked l else l) }

/-- What a translation gives (R246, R251): the physical address of each byte with its page's nocache bit, a trap, or a miss. -/
inductive Translation
  | ok (bytes : List (Nat × Bool))
  | trap (code : Nat) (addr : Nat)
  | miss (addr : Nat)
  deriving DecidableEq, Repr
/-- The permissions an access needs (R246). -/
structure Need where
  rd : Bool
  wr : Bool
  deriving DecidableEq, Repr
/-- Translate bytes from `a` up, whole and in ascending order (R246, R251). -/
def Core.translate (c : Core) (need : Need) (a : Nat) : Nat → Translation
  | 0 => .ok []
  | n + 1 =>
    if 2 ^ 48 ≤ a then .trap 0x04 a
    else
      match c.tlbFind a with
      | none => .miss a
      | some e =>
        if !leafValid e.leaf then .trap 0x08 a
        else if (need.rd && !e.leaf.getLsbD 62) || (need.wr && !e.leaf.getLsbD 61) then .trap 0x09 a
        else
          let s := leafSize e.leaf
          let p := bits e.leaf.toNat 51 s * 2 ^ s + a % 2 ^ s
          match Core.translate c need (a + 1) n with
          | .ok ps => .ok ((p, e.leaf.getLsbD 60) :: ps)
          | t => t
/-- Slot k has an access that waits for the translation service. -/
def State.missing (k : SlotId) (s : State) : Bool := s.core.misses.any fun m => m.live && m.slot == k
/-- A miss of the issuing slot begins: it goes to the translation service in its turn (R247). -/
def State.sendMiss (a : Nat) (s : State) : State :=
  if s.missing s.k then s.stall
  else
    ((s.mapCore fun c => { c with misses := c.misses ++ [{ slot := s.k, addr := BitVec.ofNat 64 a, live := true }] }).count 0x070 1 none).stall
/-- Slot k's access of n bytes at `a` has been translated: its entries become the most recently used (R244), and it waits for no page
(R247). -/
def Core.settleMiss (k : SlotId) (c : Core) : Core := { c with misses := c.misses.map fun m => if m.slot = k then { m with live := false } else m }
def Core.translated (k : SlotId) (a n : Nat) (c : Core) : Core := ((c.tlbTouch a).tlbTouch (a + n - 1)).settleMiss k
/-- DESIGN CHOICE (log 108): an access that finds its entry and goes on to wait, for a tag or the log, uses the entry for the order of
R244; one that traps does not.
CheckShared (R273) of n bytes at a register's address: the bytes' physical addresses, or a trap, or a wait. -/
def State.withShared (a : Word) (n : Nat) (need : Need) (go : List (Nat × Bool) → State → State) (s : State) : State :=
  if a.extractLsb' 48 16 ≠ 0 then s.trap 0x04 a
  else if a.toNat % 8 ≠ 0 then s.trap 0x05 a
  else
    match s.core.translate need a.toNat n with
    | .trap c x => s.trap c (BitVec.ofNat 64 x)
    | .miss x => s.sendMiss x
    | .ok ps =>
      match (upTo n).find? fun i => s.unreachable ((ps[i]?.map (·.1)).getD 0) with
      | some i => s.trap 0x08 (a + BitVec.ofNat 64 i)
      | none => go ps (s.mapCore (Core.translated s.k a.toNat n))

/-! ## Leases and the translation service (R247, R249, R250) -/

/-- The cluster of a core (R235). -/
def clusterOf (c : Coord) : Nat := 208 * (c.y / 4) + c.x / 4
/-- The physical frame of a lease's page i; a pool page lies in the cluster's own pool (R250). -/
def Lease.frame (l : Lease) (cluster i : Nat) : Nat :=
  let f := l.frames[i]?.getD 0
  if l.kind = 0 then 0x100000000 + cluster * 0x10000 + f else f
/-- A page of size 2^s around an address lies wholly in the lease, on one aligned contiguous frame (R249). -/
def Lease.fits (l : Lease) (cluster a s : Nat) : Bool :=
  let v := a / 2 ^ s * 2 ^ s
  let i := (v - l.base) / 4096
  l.base ≤ v && v + 2 ^ s ≤ l.base + l.size && l.frame cluster i % 2 ^ s == 0 &&
    (upTo (2 ^ (s - 12))).all fun j => l.frame cluster (i + j) == l.frame cluster i + 4096 * j
/-- The largest page size that fits, from 2^s down to 2^12 (R249). -/
def Lease.size? (l : Lease) (cluster a : Nat) : Nat → Option Nat
  | 0 => none
  | k + 1 => if l.fits cluster a (12 + k) then some (12 + k) else Lease.size? l cluster a k
/-- The page and leaf that the translation service answers with (R249). -/
def State.service (s : State) (a : Nat) : Option (Page × Word) :=
  let g := s.grp
  match s.launches.find? (fun l => l.id = g.launch) with
  | none => none
  | some l =>
    match l.leases.find? (fun x => x.base ≤ a && a < x.base + x.size) with
    | none => none
    | some x =>
      let c := clusterOf s.core.at_
      (x.size? c a 21).map fun k =>
        let v := a / 2 ^ k * 2 ^ k
        (⟨v, k⟩, makeLeaf (x.frame c ((v - x.base) / 4096)) k)
/-- The entry for page `p` that an access to `a` brings in is locked: a page of the group's locked set holds the address, and no other
locked entry stands for that page, but what this one replaces (R244, R248). DESIGN CHOICE (log 137): an access that finds its entry locks
nothing. -/
def Core.relocks (a : Nat) (p : Page) (c : Core) : Bool :=
  c.grp.locked.any fun q => q.holds a && !c.tlb.any fun y => y.locked && y.page.meets q && !y.page.meets p
/-- TLB_MISS_REPLY (R247): the first miss is answered. The leaf enters the TLB (R248); an address that no lease covers kills
the group (R249); the reply is discarded when the access that waited for it is gone, or has found its page (R247). -/
def execTlbMissReply (s : State) : Result :=
  .next (match s.core.misses with
    | [] => s.stall
    | m :: rest =>
      if !s.portClear then s.stall else
      let s := s.mapCore fun c => { c with misses := rest }
      if !m.live || (s.core.tlbFind m.addr.toNat).isSome then s
      else
        match s.service m.addr.toNat with
        | none => s.kill 0x40 m.addr false
        | some (p, leaf) => s.mapCore fun c => c.tlbWrite ⟨p, leaf, c.relocks m.addr.toNat p⟩)

/-! ## Accesses that cross the fabric (R264, R378) -/

/-- The module of a remote address, as it was translated: also this one, whose accesses leave by a port and return (R236). -/
def portModule (a : Nat) : Option Nat := match regionOf a with | .remote m _ => some m | _ => none
/-- An access to a remote address goes to its fabric port (R375, R378); any other does not. -/
def State.toFabric (a : Nat) (x : Access) (s : State) : State :=
  match portModule a with
  | some m => s.emit { place := .fabric m, id := 0, source := s.core.at_, body := .access (bits a 14 8) x }
  | none => s
/-- The 256-byte blocks of remote memory in which bytes lie, by their addresses as translated: one port takes each (R375). -/
def remoteBlocks (phys : List Nat) : List Nat := distinct ((phys.filter fun a => (portModule a).isSome).map (· / 256))
/-- A load asks for blocks: one access for each. -/
def State.askFabric (tag : Nat) (blocks : List Nat) (s : State) : State :=
  blocks.foldl (fun s b => s.toFabric (256 * b) (.load tag)) s
/-- An access of the focus core's loads, and a record of a writer, that no port has taken yet. -/
def Packet.carries (x : Access) (p : Packet) : Bool := match p.body with | .access _ y => x == y | _ => false
def State.loadAtPort (tag : Nat) (s : State) : Bool := s.net.any fun p => p.source == s.core.at_ && p.carries (.load tag)
def State.recordAtPort (r : FlightRecord) (s : State) : Bool := s.net.any fun p => p.carries (.record r.writer r.entry.seq)
/-- The module of a writer (R258, R326, R383). -/
def writerModule (w : WriterKey) : Nat := bits w.toNat 39 28
/-- The core whose router serves a byte of main memory: that of the slice which caches it, of all the module's clusters (R183, R238; log
105). -/
def memoryRouter (a : Nat) : Coord :=
  let c := (a - 0x1000000000) / 4096 % 41600
  ⟨4 * (c % 208), 4 * (c / 208)⟩
/-- The answer of a home here to a writer on another module (R378). -/
def State.answerAway (r : FlightRecord) (old : Option Word) (error : Bool) (s : State) : State :=
  s.emit { place := .fabric (writerModule r.writer), id := 0, source := memoryRouter r.entry.addr,
           body := .access (bits r.entry.addr 14 8) (.done r.writer r.entry.seq old error) }

/-! ## Loads (R274, R275) -/

/-- A free load tag (R274). DESIGN CHOICE (log 138): the lowest. -/
def State.freeTag (s : State) : Option Nat := (upTo Config.loadTags).find? fun t => !s.core.tags.any fun x => x.tag == t
/-- Shared loads wait for an earlier LDA, or atomic with .acq, whose value has not returned (R268). -/
def State.awaitsAcquire (s : State) : Bool := s.core.tags.any (·.acquires)
/-- The newest unacknowledged record of the log that writes a byte. -/
def Group.newest (g : Group) (a : Nat) : Option LogEntry := g.log.reverse.find? (·.touches a)
def Group.overlapped (g : Group) (bytes : List Nat) : Bool := bytes.any fun a => (g.newest a).isSome
/-- The bytes forwarded from the ring, if unacknowledged store records in the ring hold all of them (R262). DEDUCED (log 125): a releasing
store's record is a store record too, and a byte that the group knows to have been replaced at its home is not forwarded (R263, R269). -/
def Group.forward (g : Group) (bytes : List Nat) : Option (List Byte) :=
  bytes.mapM fun a =>
    match g.newest a with
    | some e =>
      if (g.log.filter (·.touches a)).all (fun x => x.inRing && (x.kind == .store || x.kind == .relStore)) && !e.passed.getLsbD (a - e.addr)
      then some (e.byte (a - e.addr)) else none
    | none => none
/-- The row that a load is to write is not free (R275). -/
def State.destBusy (d : Dest) (s : State) : Bool := match d with | .v v => !s.rowFree v | .g _ => false
/-- A shared load waits for its row (R122), is checked, and takes a tag (R273 to R275). DEDUCED (log 124): one that own records overlap,
and is not forwarded, reads all its bytes at the home. -/
def State.startLoad (dest : Dest) (n : Nat) (lda : Bool) (a : Word) (s : State) : State :=
  if s.destBusy dest then s.stall
  else s.withShared a n ⟨true, false⟩ fun ps s =>
    if s.awaitsAcquire then s.stall
    else
      match s.freeTag with
      | none => s.stall
      | some t =>
        let bytes := ps.map fun p => s.norm p.1
        -- LDA, and a load that own records overlap, read at the home (R262)
        let home := lda || s.grp.overlapped bytes
        let cacheable := if home then [] else (ps.filter fun p => !p.2 && viewable p.1).map fun p => s.norm p.1 / 64 * 64
        let fwd := if lda then none else s.grp.forward bytes
        -- a load of remote memory asks for the bytes whose lines do not stand in the view cache (R378)
        let asked := if fwd.isSome then [] else remoteBlocks
          ((ps.filter fun p => home || p.2 || !viewable p.1 || !s.core.view.any fun v => v.addr == s.norm p.1 / 64 * 64).map (·.1))
        let tag : LoadTag :=
          { tag := t, slot := s.k, dest := dest, vaddr := a, bytes := bytes, phys := ps.map (·.1), asked := asked, lines := distinct cacheable,
            acquires := lda, atomic := false, seq := 0, bound := s.grp.logTail, data := fwd, stale := [] }
        let s := if fwd.isSome then s.count 0x043 1 none else s.askFabric t asked
        -- it retires when it writes its destination (R118)
        (s.mapCore fun c => { c with tags := c.tags ++ [tag] }).mapSlot Slot.finish
/-- SLD (R275). -/
def execSld (d a : GReg) (s : State) : Result := .next (s.startLoad (.g d) 8 false (s.getG a))
/-- SLDV (R275): it waits while vd is not ready. -/
def execSldv (d : VReg) (a : GReg) (s : State) : Result := .next (s.startLoad (.v d) 128 false (s.getG a))
/-- LDA (R268, R275): it never forwards, and reads at the home. -/
def execLda (d a : GReg) (s : State) : Result := .next (s.startLoad (.g d) 8 true (s.getG a))

/-- The lines that a load reads in the view cache: one that is not kept gives its bytes from the home (R262, R275). -/
def LoadTag.kept (t : LoadTag) : List Nat := t.lines.filter fun l => !t.stale.contains l
/-- The lines of the view cache that a load still lacks (R275). -/
def Core.missingLines (c : Core) (t : LoadTag) : List Nat := t.kept.filter fun l => !c.view.any fun v => v.addr == l
/-- The line of the view cache that gives a load a byte (R275). -/
def Core.lineFor (c : Core) (t : LoadTag) (a : Nat) : Option ViewLine :=
  if t.kept.contains (a / 64 * 64) then c.view.find? fun v => v.addr == a / 64 * 64 else none
/-- A byte from the view cache, or from its home (R275). -/
def State.viewByte (s : State) (t : LoadTag) (a : Nat) : Byte :=
  match s.core.lineFor t a with
  | some v => v.data[a % 64]?.getD 0
  | none => s.homeByte a
/-- The bytes that a load reads at their home, which are then no older in a line of the view cache that holds them (R263; log 125). -/
def State.readHome (t : LoadTag) (s : State) : State :=
  let home (a : Nat) : Bool := t.bytes.contains a && (s.core.lineFor t a).isNone
  (s.outdate home).mapCore fun c => { c with view := c.view.map fun (v : ViewLine) =>
    { v with data := (upTo v.data.length).map fun i => if home (v.addr + i) then s.homeByte (v.addr + i) else v.data[i]?.getD 0 } }
/-- The blocks of remote memory, not asked for yet, in which bytes of a load lie that `p` selects: it lost their lines since it issued
(R267, R378). -/
def LoadTag.unasked (t : LoadTag) (p : Nat → Bool) : List Nat :=
  (remoteBlocks (((t.bytes.zip t.phys).filter fun x => p x.1).map (·.2))).filter fun b => !t.asked.contains b
/-- A load asks for more blocks, and waits for them. -/
def State.askMore (t : LoadTag) (blocks : List Nat) (s : State) : State :=
  (s.mapCore fun c => { c with tags := c.tags.map fun x => if x.tag = t.tag then { x with asked := x.asked ++ blocks } else x }).askFabric t.tag blocks
def State.isPoisoned (s : State) (bytes : List Nat) : Bool := bytes.any fun a => s.poisoned.contains (s.norm a / 8)
/-- Own records appended before the load still overlap it (R262). -/
def State.awaitsOwn (s : State) (t : LoadTag) : Bool :=
  t.bytes.any fun a => s.grp.log.any fun e => e.touches a && seqUpTo e.firstSeq t.bound
/-- An earlier load of the group with a byte in common has not returned: values of one address never go back (R263). -/
def Core.awaitsOlder (c : Core) (t : LoadTag) : Bool :=
  (c.tags.takeWhile fun x => x.tag != t.tag).any fun x => x.bytes.any fun a => t.bytes.contains a
/-- An earlier load reads a byte of the line at its home, and has not: what it returns may be newer than a fill now (R263). -/
def Core.readsHome (c : Core) (t : LoadTag) (l : Nat) : Bool :=
  (c.tags.takeWhile fun x => x.tag != t.tag).any fun x =>
    x.data.isNone && !x.kept.contains l && x.bytes.any fun a => decide (a / 64 * 64 = l)
/-- VIEW_CACHE_FILL (R275, R242): the first line that load `n` lacks arrives, and is kept unless a discard or an own
record came between; it waits for own records in the line, and for earlier loads that read the line at its home, which no later load may
miss (R263); the least recently used line leaves a full cache. A line of remote memory that the load has not asked for is asked for
first (R378). -/
def execViewCacheFill (n : Nat) (s : State) : Result :=
  .next (match s.core.tags.find? (fun t => t.tag == n) with
    | none => s.stall
    | some t =>
      if t.data.isSome || s.isPoisoned t.bytes || s.loadAtPort n || !s.portClear then s.stall
      else
        match s.core.missingLines t with
        | [] => s.stall
        | l :: _ =>
          let more := t.unasked fun a => a / 64 * 64 == l
          if s.core.readsHome t l || s.grp.log.any fun e => e.overlapsRange l 64 then s.stall
          else if !more.isEmpty then s.askMore t more
          else
          let line : ViewLine := { addr := l, data := (upTo 64).map fun i => s.homeByte (l + i) }
          (s.mapCore fun c => { c with view := (line :: c.view).take 64 }).count 0x044 1 none)
/-- Write the destination of a returned access. -/
def State.writeDest (t : LoadTag) (bs : List Byte) (s : State) : State :=
  match t.dest with
  | .g d => s.mapSlotOf t.slot (·.set d (BitVec.ofNat 64 (leNat bs)))
  | .v d => s.mapGrp (·.setRow d (rowOfBytes bs))
/-- An access returns its tag, writes its destination and retires; an acquiring one discards the view cache (R268, R274). -/
def State.completeTag (t : LoadTag) (bs : List Byte) (s : State) : State :=
  let s := s.mapCore fun c => { c with tags := c.tags.filter fun x => x.tag != t.tag }
  let s := if t.acquires then s.discardView else s
  (s.writeDest t bs).retireNow
/-- What a load has forwarded is no older than what an earlier load reads now: each byte that both have still has an own record that its
home has not applied (R262, R263). -/
def State.forwardHolds (s : State) (t x : LoadTag) : Bool :=
  x.bytes.all fun a => !t.bytes.contains a || s.grp.log.any fun e => e.touches a && seqUpTo e.firstSeq x.bound && !s.applied e
/-- LOAD_REPLY (R274, R275): first the bytes are read, in the view cache or at the home, once no earlier own record
overlaps them; then the destination is written. A later load whose forwarded bytes could be older than those read now reads at the
home too (R263). -/
def execLoadReply (tag : Nat) (s : State) : Result :=
  .next (match s.core.tags.find? (fun t => t.tag == tag) with
    | none => s.stall
    | some t =>
      if t.atomic || s.core.awaitsOlder t || !s.portClear then s.stall
      else
        match t.data with
        | some bs => s.completeTag t bs
        | none =>
          let more := t.unasked fun a => !t.kept.contains (a / 64 * 64)
          if s.awaitsOwn t || s.isPoisoned t.bytes || s.loadAtPort tag || !(s.core.missingLines t).isEmpty then s.stall
          else if !more.isEmpty then s.askMore t more
          else
            let bs := t.bytes.map (s.viewByte t)
            -- the lines read become the most recently used
            (s.readHome t).mapCore fun c =>
              { c with
                view := (c.view.filter fun v => t.kept.contains v.addr) ++ c.view.filter fun v => !t.kept.contains v.addr
                tags := c.tags.map fun x => if x.tag == tag then { x with data := some bs }
                  else if !x.atomic && x.data.isSome && !s.forwardHolds t x then { x with data := none } else x })
/-- An access returns an error (R339): the destination keeps its value and stops counting, and the slot traps at its next
instruction boundary with code 0x0E, its load tag in TRAPCAUSE, and the access's address in TRAPVAL; a slot that has stopped,
or whose core is frozen, traps after it resumes. -/
def State.asyncError (tag : Nat) (s : State) : State :=
  match s.core.tags.find? (fun t => t.tag == tag) with
  | none => s.stall
  | some t =>
    ((s.mapCore fun c => { c with tags := c.tags.filter fun x => x.tag != tag }).mapSlotOf t.slot fun sl =>
      { sl with errors := sl.errors ++ [(tag, t.vaddr)] }).takeErrors
/-- ASYNC_ERROR_RETURN (R339), behind what the port has released (R232). -/
def execAsyncErrorReturn (tag : Nat) (s : State) : Result := .next (if s.portClear then s.asyncError tag else s.stall)

/-! ## Stores (R276, R277) -/

/-- SST and SSTR (R276). -/
def State.sharedStore (kind : LogKind) (m a b : GReg) (s : State) : State :=
  let mask := s.getG m
  let x := s.getG a
  if mask.extractLsb' 8 56 ≠ 0 then s.illegal mask
  else s.withShared x 8 ⟨false, true⟩ fun ps s =>
    if mask = 0 then s.finish
    else if !s.grp.logRoom 1 then s.stall
    else
      let p := (ps.map (·.1)).headD 0
      let off := p % 32
      (s.appendRecord (storeRecord kind (p - off) ((mask.setWidth 32) <<< off) (((s.getG b).setWidth 256) <<< (8 * off)))).finish
/-- SST (R276). -/
def execSst (m a b : GReg) (s : State) : Result := .next (s.sharedStore .store m a b)
/-- SSTR (R276): a releasing record. -/
def execSstr (m a b : GReg) (s : State) : Result := .next (s.sharedStore .relStore m a b)
/-- The record of one 32-byte block of a row stored at given physical addresses (R277). -/
def blockRecord (bytes : List (Nat × Byte)) (block : Nat) : LogEntry :=
  let mine := bytes.filter fun x => x.1 / 32 == block
  let mask := mine.foldl (fun (m : BitVec 32) x => m ||| (1#32 <<< (x.1 % 32))) 0
  let data := mine.foldl (fun (d : BitVec 256) x => d ||| ((x.2.setWidth 256 : BitVec 256) <<< (8 * (x.1 % 32)))) 0
  storeRecord .store (32 * block) mask data
/-- The log entries that a row at an address needs (R277). -/
def rowRecords (a : Word) : Nat := if a.toNat % 32 = 0 then 4 else 5
/-- SSTV (R277): it waits for its row, is checked, and waits for its entries; one record for each 32-byte block, in ascending
virtual order, all in one step. -/
def execSstv (v : VReg) (a : GReg) (s : State) : Result :=
  .next (s.whenRows [v] fun s =>
    s.withShared (s.getG a) 128 ⟨false, true⟩ fun ps s =>
      let bytes := ps.map (·.1)
      let blocks := distinct (bytes.map (· / 32))
      if !s.grp.logRoom (rowRecords (s.getG a)) then s.stall
      else
        let pairs := bytes.zip (rowBytes (s.grp.row v))
        (blocks.foldl (fun s b => s.appendRecord (blockRecord pairs b)) s).finish)

/-! ## Release, fence and acquire (R264, R265, R278) -/

/-- REL (R264, R278): it takes LOGTAIL when it first comes to issue, and places its marker once an entry is free. -/
def execRel (scope : Scope) (s : State) : Result :=
  let t := match s.slot.progress with | .rel t _ => t | _ => s.grp.logTail
  let waits (placed : Bool) (s : State) : State := (s.mapSlot fun sl => { sl with progress := .rel t placed }).stall
  let go (s : State) : State := if s.grp.released scope t then (s.mapGrp (Group.publish t)).finishNow else waits true s
  .next (match s.slot.progress with
    | .rel _ true => go s
    | _ =>
      if !s.grp.logRoom 1 then waits false s
      -- a marker with no record before it retires at once
      else go ((s.pushMarker .relMarker scope).acknowledge fun _ => false))
/-- FENCE (R265). -/
def execFence (s : State) : Result :=
  .next (if !s.grp.logRoom 1 then s.stall
    else ((s.pushMarker .fenceMarker .device).acknowledge fun _ => false).finish)
/-- ACQ (R267, R278). -/
def execAcq (a b : GReg) (s : State) : Result :=
  let w := s.getG a
  .next (if w.extractLsb' 41 23 ≠ 0 then s.illegal w
    else (s.acquire (w.setWidth 41) ((s.getG b).setWidth 32)).finish)

/-! ## Atomics (R279, R280) -/

/-- ATOM (R279): the record takes a log entry and a load tag. DESIGN CHOICE (log 112): the compare value of R255 holds g[d] for every
atomic, though only ATOM_CAS uses it. -/
def State.atom (op : AtomOp) (ord : AtomOrd) (d a b : GReg) (s : State) : State :=
  s.withShared (s.getG a) 8 ⟨true, true⟩ fun ps s =>
    match s.freeTag with
    | none => s.stall
    | some t =>
      if !s.grp.logRoom 1 then s.stall
      else
        let p := (ps.map (·.1)).headD 0
        let off := p % 32
        let e : LogEntry :=
          { (storeRecord .atomic (p - off) (0xFF#32 <<< off) (((s.getG b).setWidth 256) <<< (8 * off))) with
            aop := op, ord := ord, gd := d, slot := s.k, cmp := s.getG d, tag := t }
        let tag : LoadTag :=
          { tag := t, slot := s.k, dest := .g d, vaddr := s.getG a, bytes := ps.map fun p => s.norm p.1, phys := ps.map (·.1), asked := [], lines := [],
            acquires := ord == .acq || ord == .ar, atomic := true, seq := s.grp.logTail + 1, bound := s.grp.logTail, data := none,
            stale := [] }
        ((s.appendRecord e).mapCore fun c => { c with tags := c.tags ++ [tag] }).mapSlot Slot.finish
/-- ATOM_ADD (R279). -/
def execAtomAdd (ord : AtomOrd) (d a b : GReg) (s : State) : Result := .next (s.atom .add ord d a b)
/-- ATOM_MIN (R279). -/
def execAtomMin (ord : AtomOrd) (d a b : GReg) (s : State) : Result := .next (s.atom .min ord d a b)
/-- ATOM_MAX (R279). -/
def execAtomMax (ord : AtomOrd) (d a b : GReg) (s : State) : Result := .next (s.atom .max ord d a b)
/-- ATOM_AND (R279). -/
def execAtomAnd (ord : AtomOrd) (d a b : GReg) (s : State) : Result := .next (s.atom .and ord d a b)
/-- ATOM_OR (R279). -/
def execAtomOr (ord : AtomOrd) (d a b : GReg) (s : State) : Result := .next (s.atom .or ord d a b)
/-- ATOM_XOR (R279). -/
def execAtomXor (ord : AtomOrd) (d a b : GReg) (s : State) : Result := .next (s.atom .xor ord d a b)
/-- ATOM_SWAP (R279). -/
def execAtomSwap (ord : AtomOrd) (d a b : GReg) (s : State) : Result := .next (s.atom .swap ord d a b)
/-- ATOM_CAS (R279). -/
def execAtomCas (ord : AtomOrd) (d a b : GReg) (s : State) : Result := .next (s.atom .cas ord d a b)

/-! ## The TLB instructions (R281, R282, R351) -/

/-- TLBLK (R281): no permission is tested; a page in the set is left as it is. An entry inside a page of the set is locked only if no
locked entry stands for that page, so that no more entries than pages are locked (R248). -/
def execTlblk (a : GReg) (s : State) : Result :=
  let x := s.getG a
  .next (if x.extractLsb' 48 16 ≠ 0 then s.trap 0x04 x
    else
      match s.core.tlbFind x.toNat with
      | none => s.sendMiss x.toNat
      | some e =>
        let held := s.grp.locked.any fun p => p.holds x.toNat
        if !leafValid e.leaf then s.trap 0x08 x
        else if !held && decide (12 ≤ s.grp.locked.length) then s.illegal x
        else
          (s.mapCore fun c =>
            { c with tlb := { e with locked := e.locked || !held || c.relocks x.toNat e.page } :: c.tlb.filter fun y => decide (y ≠ e), misses := (c.settleMiss s.k).misses,
                     grp := if held then c.grp else { c.grp with locked := c.grp.locked ++ [e.page] } }).finish)
/-- TLBUL (R281). DESIGN CHOICE (log 139): of two pages of the set that hold the address, the one that was added first leaves it. -/
def execTlbul (a : GReg) (s : State) : Result :=
  let x := s.getG a
  .next (if x.extractLsb' 48 16 ≠ 0 then s.trap 0x04 x
    else
      match s.grp.locked.find? (fun p => p.holds x.toNat) with
      | none => s.finish
      | some p =>
        (s.mapCore fun c => { c with tlb := c.tlb.map (fun y => if y.page.meets p then { y with locked := false } else y),
                                     grp := { c.grp with locked := c.grp.locked.filter fun q => decide (q ≠ p) } }).finish)
/-- TLBPRB (R282): it changes no entry and no order. -/
def execTlbprb (d a : GReg) (s : State) : Result :=
  let x := s.getG a
  let v : Word := match s.core.tlbFind x.toNat with
    | some e => (e.leaf &&& ~~~0x7FF) ||| 2
    | none => 0
  .next (if x.extractLsb' 48 16 ≠ 0 then s.trap 0x04 x
    else s.result d (if s.grp.locked.any fun p => p.holds x.toNat then v ||| 1 else v))
/-- TLBW (R351): at system level. -/
def execTlbw (a b : GReg) (s : State) : Result :=
  let x := s.getG a
  let leaf := s.getG b
  .next (s.asSystem (fun s =>
    if x.extractLsb' 48 16 ≠ 0 then s.trap 0x04 x
    else if !leafValid leaf || 20 < leafOnes leaf || leaf.extractLsb' 52 8 ≠ 0 || leaf.extractLsb' 0 11 ≠ 0 then s.illegal leaf
    else
      let k := leafSize leaf
      (s.mapCore (Core.tlbWrite ⟨⟨x.toNat / 2 ^ k * 2 ^ k, k⟩, leaf, false⟩)).finish))

/-! ## The log pump and the homes -/

/-- LOG_PUMP_SEND (R257): the oldest sendable record leaves for its home, by a fabric port if its address is remote (R236, R378). -/
def execLogPumpSend (s : State) : Result :=
  .next (match s.grp.nextSend with
    | none => s.stall
    | some i =>
      match s.grp.log[i]? with
      | none => s.stall
      | some e =>
        ({ (s.mapGrp fun g => { g with log := listSet g.log i { e with sent := true } }) with
          records := s.records ++ [{ writer := s.grp.key, entry := e, stage := .toHome }] } : State).toFabric e.phys (.record s.grp.key e.seq))
/-- RECORD_APPLY (R258): a home applies a record in the order of arrival, and acknowledges it; a duplicate is
acknowledged without being applied. -/
def execRecordApply (n : Nat) (s : State) : Result :=
  .next (match s.records[n]? with
    | none => s.stall
    | some r =>
      if r.stage ≠ .toHome || r.entry.kind == .atomic || s.overtakes n || s.recordAtPort r then s.stall
      else
        let acked := listSet s.records n { r with stage := .ack }
        if s.isDuplicate r then { s with records := acked }
        else { (s.applyBytes r.entry).noteApplied r with records := acked })
/-- RECORD_ACK (R258): the acknowledgement covers every record of the writer at that home up to its seq; ring entries
free and markers retire, at both replicas of a twin (R357). An engine's log has no entries to free; a writer on another module
is answered over the fabric (R378). -/
def execRecordAck (n : Nat) (s : State) : Result :=
  .next (match s.records[n]? with
    | none => s.stall
    | some r =>
      let h := r.entry.home
      let mine := !s.core.vacant && s.grp.key == r.writer
      let far := decide (writerModule r.writer ≠ s.board.module)
      if r.stage ≠ .ack || !(mine || far || isEngineKey r.writer) || (mine && !s.portClear) then s.stall
      else if !mine && far then { s.answerAway r none false with records := listDrop s.records n }
      else
        { (if isEngineKey r.writer then s
           else s.eachReplica (State.acknowledge fun e => e.home == h && e.kind != .atomic && seqUpTo e.seq r.entry.seq)) with
          records := listDrop s.records n })
/-- EGRESS_ACK (R264): the fabric port has the remote record in its retry buffer; the entry stays in the ring. -/
def execEgressAck (n : Nat) (s : State) : Result :=
  .next (match s.records[n]? with
    | none => s.stall
    | some r =>
      if r.stage ≠ .toHome || !r.entry.away || s.grp.key ≠ r.writer || s.recordAtPort r || !s.portClear then s.stall
      else s.mapGroup s.grp.name fun g =>
        { g with log := g.log.map fun e => if e.isRecord && e.seq == r.entry.seq then { e with egress := true } else e })
/-- LOG_REFILL (R260). -/
def execLogRefill (s : State) : Result :=
  .next (if s.grp.spilled && decide (s.grp.ringCount < 64) then (s.mapGrp fun g => { g with log := refill g.log }).layOutLog
    else s.stall)
/-- ATOMIC_EXECUTE (R270, R279): the old value goes back; a failing compare writes nothing. On a damaged word the access
returns an error and writes nothing (R339, R355). -/
def execAtomicExecute (n : Nat) (s : State) : Result :=
  .next (match s.records[n]? with
    | none => s.stall
    | some r =>
      if r.stage ≠ .toHome || r.entry.kind != .atomic || s.overtakes n || s.recordAtPort r then s.stall
      else
        let off := (upTo 4).find? (fun w => r.entry.mask.getLsbD (8 * w)) |>.getD 0
        let a := r.entry.addr + 8 * off
        let old := BitVec.ofNat 64 (leNat ((upTo 8).map fun i => s.homeByte (a + i)))
        let v := (r.entry.data >>> (64 * off)).setWidth 64
        let damaged := s.isPoisoned ((upTo 8).map (a + ·))
        let answered := listSet s.records n { r with stage := if damaged then .atomError else .atomReturn old }
        if s.isDuplicate r then { s with records := answered }
        else if damaged then { (s.noteApplied r) with records := answered }
        else if r.entry.aop == .cas && old != r.entry.cmp then { (s.noteApplied r) with records := answered }
        else { ((s.writeHome a (leBytes 8 (atomValue r.entry.aop old v r.entry.cmp).toNat)).noteApplied r) with records := answered })
/-- The old value of an atomic, if its home has answered; none within for an error. -/
def RecStage.answer : RecStage → Option (Option Word)
  | .atomReturn old => some (some old)
  | .atomError => some none
  | _ => none
/-- ATOMIC_RETURN (R270): at both replicas of a twin (R357) the record is acknowledged, gd is written, and the return is an event; an error is that of R339. The
answer to a record replayed after a kill finds no access that waits for it. -/
def execAtomicReturn (n : Nat) (s : State) : Result :=
  .next (match s.records[n]? with
    | none => s.stall
    | some r =>
      match r.stage.answer with
      | none => s.stall
      | some old =>
        let mine := !s.core.vacant && s.grp.key == r.writer
        if !mine && decide (writerModule r.writer ≠ s.board.module) then
          { s.answerAway r old old.isNone with records := listDrop s.records n }
        else if !mine || !s.portClear then s.stall
        else
          let s : State := { s with records := listDrop s.records n }
          s.eachReplica fun s =>
            let s := s.acknowledge fun e => e.kind == .atomic && e.seq == r.entry.seq
            match s.core.tags.find? (fun t => t.atomic && t.seq == r.entry.seq) with
            | none => s
            | some t =>
              match old with
              | some v => ((s.outdate t.bytes.contains).completeTag t (leBytes 8 v.toNat)).raise
              | none => s.asyncError t.tag)

end Sys2Proof.Machine
end

