-- ==== Sys2Proof/Machine/Messaging.lean ====
section
/-! DEFINITION. The messaging and group instructions (spec 10 R188 to R203) and the completion of a barrier (R204). Operand
checks come first, in the order given, and then the waits (R188). -/

namespace Sys2Proof.Machine

/-! ## Sending requests (R189 to R192) -/

/-- Take an injection entry for a message, reserving a mailbox entry for its reply if it expects one (R190, R191). -/
def State.send (kind : InjKind) (reserve : Bool) (qt : Bool) (m : Msg) (seqOn : Option (BitVec 6)) (d : Option GReg) (v : Word)
    (s : State) : State :=
  let box := s.grp.freeMbox
  if !s.grp.injFree kind || (reserve && box.isNone) then (if qt then s.trap 0x0A v else s.stall)
  else
    let i := box.getD 0
    let m := if reserve then { m with rslot := BitVec.ofNat 8 i } else m
    let take (r : Msg × Group) : Group :=
      let g := r.2.inject kind r.1
      if reserve then { g with mbox := listSet g.mbox i (.reserved m.dest) } else g
    let s := match seqOn with
      | some c => s.mapTable c fun g => take (g.sequence c m)
      | none => s.mapGrp fun g => take (m, g)
    match d with
    | some d => if reserve then s.result d (BitVec.ofNat 64 (mboxAddr i)) else s.finish
    | none => s.finish
/-- The payload register: its length and the failure of its payload's local address (R189, R190). -/
def State.payloadFault (s : State) (p : Word) : Failure :=
  let n := bits p.toNat 23 16
  if n = 0 then none else s.grp.checkLocal false (bits p.toNat 15 0) n 1 (p &&& 0xFFFF)
/-- The payload's bytes. DESIGN CHOICE (log 70): bytes of a damaged word of the overflow window are read as they stand, with no error, as
loads read them. -/
def State.payload (s : State) (p : Word) : List Byte := s.localBytes (bits p.toNat 15 0) (bits p.toNat 23 16)
/-- The destination of a descriptor, and the channel that a sequenced message takes (R190, R195). -/
def State.target (s : State) (w : Word) (kind : Nat) : Option (Name × Option (BitVec 6)) :=
  let c := w.extractLsb' 54 6
  let e := s.grp.chan c
  if w.getLsbD 60 then (if e.isOpen && e.kind == kind then some (e.peer, some c) else none)
  else if c = 0 then some (w.extractLsb' 0 40, none) else none
/-- Resend a notice (R192). DESIGN CHOICE (log 104): with rel = 0 the tail keeps the image's bits. -/
def State.resend (isSendr : Bool) (d a b : GReg) (s : State) : State :=
  let w := s.getG a
  let p := s.getG b
  let x := bits p.toNat 15 0
  let h := leNat (s.localBytes x 32)
  let m := Msg.ofImage h (s.localBytes (x + 32) 128)
  let bad := w &&& ~~~(3#64 <<< 62) ≠ 0 || p.extractLsb' 16 48 ≠ 0 || x % 32 ≠ 0 || 0x8000 < x + 160 ||
    (s.grp.checkLocal false x 160 1 p).isSome || !(m.mtype == 0xFD || m.mtype == 0xFF) || m.source ≠ s.grp.name ||
    !(m.cls == 0 || m.cls == 2 || m.cls == 3) || 128 < m.len
  if bad then s.illegal w
  else
    let kind : InjKind := if m.cls = 3 then .register else .request
    s.send kind (m.rslot ≠ 0xFF) (w.getLsbD 62) { m with mtype := m.otype, otype := 0, fwd := 0 } none (if isSendr then some d else none) w
/-- SEND and SENDR (R190). -/
def State.sendRequest (isSendr : Bool) (d a b : GReg) (s : State) : State :=
  let w := s.getG a
  let p := s.getG b
  let t : BitVec 8 := w.extractLsb' 40 8
  if w.getLsbD 63 then s.resend isSendr d a b
  else if w.extractLsb' 48 6 ≠ 0 || p.extractLsb' 24 40 ≠ 0 || 128 < bits p.toNat 23 16 || 0xF0 ≤ t.toNat then s.illegal w
  else
    match s.target w 0 with
    | none => s.illegal w
    | some (dest, c) =>
      s.check (s.payloadFault p) fun s =>
        let m := { (Msg.plain dest s.grp.name t 0 (s.payload p)) with chan := w.extractLsb' 54 6, rel := w.getLsbD 61 }
        s.send .request isSendr (w.getLsbD 62) m c (if isSendr then some d else none) w
/-- SEND (R190). -/
def execSend (a b : GReg) (s : State) : Result := .next (s.sendRequest false 0 a b)
/-- SENDR (R190). -/
def execSendr (d a b : GReg) (s : State) : Result := .next (s.sendRequest true d a b)
/-- NOTICE_RESEND: the form of SEND or SENDR whose descriptor has rs = 1 (R192). -/
def execNoticeResend (isSendr : Bool) (d a b : GReg) (s : State) : Result := .next (s.resend isSendr d a b)

/-- REPLY (R193). -/
def execReply (a b : GReg) (s : State) : Result :=
  let w := s.getG a
  let p := s.getG b
  let x := bits w.toNat 15 0
  let i := (x - 0x800) / 160
  let h := Msg.ofImage (s.grp.well.nat x 32) []
  .next (if w.extractLsb' 25 39 ≠ 0 || p.extractLsb' 24 40 ≠ 0 || 0xF0 ≤ bits w.toNat 23 16 || 128 < bits p.toNat 23 16 ||
      x ≠ mboxAddr i || s.grp.mbox.length ≤ i || s.grp.mbox[i]? != some .running || s.slot.entry != some i ||
      h.rslot == 0xFF then s.illegal w
    else
      s.check (s.payloadFault p) fun s =>
        let m := { (Msg.plain h.source s.grp.name (w.extractLsb' 16 8) 1 (s.payload p)) with rslot := h.rslot, rel := w.getLsbD 24 }
        s.send .reply false false m none none w)

/-! ## Register writes and holds (R194, R195) -/

/-- VPUT and VPUTR (R195). -/
def State.put (rel : Bool) (v : VReg) (a : GReg) (s : State) : State :=
  let w := s.getG a
  if w.getLsbD 63 || w.getLsbD 61 || w.extractLsb' 45 9 ≠ 0 then s.illegal w
  else
    match s.target w 2 with
    | none => s.illegal w
    | some (dest, c) =>
      s.whenRows [v] fun s =>
        let m := { (Msg.plain dest s.grp.name 0 3 (rowBytes (s.grp.row v))) with
                   chan := w.extractLsb' 54 6, rel := rel, row := w.extractLsb' 40 5 }
        s.send .register false (w.getLsbD 62) m c none w
/-- VPUT (R195). -/
def execVput (v : VReg) (a : GReg) (s : State) : Result := .next (s.put false v a)
/-- VPUTR (R195). -/
def execVputr (v : VReg) (a : GReg) (s : State) : Result := .next (s.put true v a)
/-- VHOLD (R194): it waits for busy and for an earlier writer of the row; a held row stays held. -/
def execVhold (v : VReg) (s : State) : Result :=
  .next (if s.grp.busy.getLsbD v.toNat || s.core.tags.any (fun t => decide (t.dest = .v v)) then s.stall
    else (s.mapGrp fun g => { g with hold := g.hold ||| (1#32 <<< v.toNat) }).finish)

/-! ## Stream queues (R196) -/

/-- QPUT (R196). -/
def execQput (q : BitVec 5) (a : GReg) (s : State) : Result :=
  let k : BitVec 3 := q.setWidth 3
  .next (s.check (s.grp.queueFault false q) fun s =>
    if Config.queueDepth ≤ (s.grp.queue k).words.length then s.stall
    else (s.mapGrp (Group.enqueue k [s.getG a])).finish)
/-- QGET (R196): credits return under R176. -/
def execQget (d : GReg) (q : BitVec 5) (s : State) : Result :=
  let k : BitVec 3 := q.setWidth 3
  .next (s.check (s.grp.queueFault true q) fun s =>
    match (s.grp.queue k).words with
    | [] => s.stall
    | w :: _ => (s.dequeue k 1).result d w)
/-- QFLUSH (R196). -/
def execQflush (q : BitVec 5) (s : State) : Result :=
  .next (s.check (s.grp.queueFault false q) fun s =>
    if (s.grp.queue (q.setWidth 3)).words.isEmpty then s.finishNow else s.stall)
/-- QCNT (R196): an unbound queue gives 0; a queue out of range traps (R83). -/
def execQcnt (d : GReg) (q : BitVec 5) (s : State) : Result :=
  .next (if 8 ≤ q.toNat then s.illegal (q.setWidth 64)
    else
      let v := s.grp.queue (q.setWidth 3)
      s.result d (if v.bound then BitVec.ofNat 64 v.words.length else 0))

/-! ## Channels (R197, R198) -/

/-- CHOPEN (R197); it clears the channel's entry of the annealer table (R207). -/
def execChopen (a b : GReg) (s : State) : Result :=
  let w := s.getG a
  let p := s.getG b
  let c : BitVec 6 := w.extractLsb' 0 6
  let kind := bits w.toNat 7 6
  let q : BitVec 3 := w.extractLsb' 8 3
  let weight := bits w.toNat 14 11
  .next (if w.extractLsb' 15 49 ≠ 0 || p.extractLsb' 40 24 ≠ 0 || kind == 3 || weight == 0 || (s.grp.chan c).isOpen ||
      (kind != 1 && q != 0) || (kind == 1 && (s.grp.queue q).bound) then s.illegal w
    else
      (s.mapTable c fun g =>
        let g := g.setChan c
          { txseq := 0, rxseq := 0, credits := if kind = 1 ∧ 4 ≤ q.toNat then 32 else 0, queue := q.toNat, weight := weight,
            kind := kind, isOpen := true, peer := p.setWidth 40 }
        let g := { g with ann := listSet g.ann c.toNat AnnEntry.reset }
        if kind = 1 then g.setQueue q { Queue.reset with bound := true, chan := c } else g).finish)
/-- CHCLOSE (R198). DESIGN CHOICE (log 103): of an entry that is not open it completes at once, whatever injection entries are
sequenced on the channel. -/
def execChclose (a : GReg) (s : State) : Result :=
  let w := s.getG a
  let c : BitVec 6 := w.setWidth 6
  let e := s.grp.chan c
  let q := BitVec.ofNat 3 e.queue
  .next (if w.extractLsb' 6 58 ≠ 0 then s.illegal w
    else if !e.isOpen then s.finish
    else if s.grp.inj.any (fun x => x.msg.seqd && x.msg.chan == c) ||
        (e.isStream && 4 ≤ e.queue && !(s.grp.queue q).words.isEmpty) then s.stall
    else
      (s.mapTable c fun g =>
        let v := g.queue q
        let streams := if e.isStream && e.queue < 4 then v.marks.length else 0
        let kept := (g.reorder.filter fun m => m.chan == c).length
        let g := if e.isStream then g.setQueue q Queue.reset else g
        { g.setChan c Chan.closed with
          ann := listSet g.ann c.toNat AnnEntry.reset
          reorder := g.reorder.filter fun m => m.chan != c
          consumed := g.consumed + streams + kept }).finish)

/-! ## Masks, names, position, anchoring (R199 to R202) -/

/-- MASKC (R199). -/
def execMaskc (a : GReg) (s : State) : Result :=
  let w := s.getG a
  .next (if w.extractLsb' 8 56 ≠ 0 then s.illegal w
    else (s.mapGrp fun g => { g with classMask := g.classMask ||| w.setWidth 8 }).finish)
/-- UNMASKC (R199). -/
def execUnmaskc (a : GReg) (s : State) : Result :=
  let w := s.getG a
  .next (if w.extractLsb' 8 56 ≠ 0 then s.illegal w
    else (s.mapGrp fun g => { g with classMask := g.classMask &&& ~~~(w.setWidth 8) }).finish)
/-- The launch of the resident group. -/
def State.launch? (s : State) : Option Launch := s.launches.find? fun l => l.id = s.grp.launch
/-- The name of a launch's ordinal (R200). -/
def Launch.nameOf (l : Launch) (device ord : Nat) : Nat := device * 2 ^ 28 + (l.base + ord) * 2 ^ 8 + l.gen.toNat
/-- LNAME (R200): an ordinal of groups or above is an illegal operand. -/
def execLname (d a : GReg) (s : State) : Result :=
  let w := s.getG a
  .next (match s.launch? with
    | some l =>
      if w.toNat < l.groups then s.result d (BitVec.ofNat 64 (l.nameOf (bits s.grp.self.toNat 39 28) w.toNat)) else s.illegal w
    | none => s.illegal w)
/-- POS (R201). -/
def execPos (d : GReg) (s : State) : Result := .next (s.result d s.grp.posn)
/-- ANCHOR (R202). -/
def execAnchor (s : State) : Result := .next (s.mapGrp fun g => { g with anchored := true }).finish
/-- UNANCH (R202). -/
def execUnanch (s : State) : Result := .next (s.mapGrp fun g => { g with anchored := false }).finish

/-! ## Barriers (R162, R203, R204) -/

/-- The level that a barrier names, if it lies in 1 to 8 and the launch declares it (R83, R203). -/
def State.level? (s : State) (n : BitVec 5) : Option Level :=
  if n.toNat = 0 ∨ 8 < n.toNat then none else (s.launch?.map (·.levels)).bind fun l => l[n.toNat - 1]?
/-- P(n), the groups of a level-n unit (R159). -/
def Launch.unitSize (l : Launch) (n : Nat) : Nat := ((l.levels.take n).map (·.count)).foldl (· * ·) 1
/-- The ordinals of the level-n unit of an ordinal, within the launch (R159). -/
def Launch.unit (l : Launch) (n ord : Nat) : List Nat :=
  let p := l.unitSize n
  (upTo (min p (l.groups - ord / p * p))).map fun i => ord / p * p + i
def Group.ordinal (g : Group) : Nat := bits g.launchReg.toNat 31 0
def Group.arrived (g : Group) (n : BitVec 5) : BitVec 32 := if h : n.toNat < 9 then g.arrive.get ⟨n.toNat, h⟩ else 0
def Group.addArrival (n : BitVec 5) (g : Group) : Group :=
  if h : n.toNat < 9 then { g with arrive := g.arrive.set n.toNat (g.arrived n + 1) h } else g
/-- The arrival count of a group of the launch, resident, saved, or not yet created (R162). -/
def State.arrivalOf (s : State) (name : Name) (n : BitVec 5) : BitVec 32 :=
  match s.holder name with
  | some c => c.grp.arrived n
  | none => ((s.frames.find? fun x => x.name = name).map fun x => x.grp.arrived n).getD 0
/-- Every group of the caller's unit has arrived (R203). -/
def State.unitArrived (s : State) (n : BitVec 5) : Bool :=
  match s.launch? with
  | none => true
  | some l =>
    (l.unit n.toNat s.grp.ordinal).all fun o =>
      let name : Name := BitVec.ofNat 40 (l.nameOf (bits s.grp.self.toNat 39 28) o)
      let a := if name = s.grp.name then s.grp.arrived n else s.arrivalOf name n
      (a - s.grp.arrived n).toNat < 2 ^ 31
/-- BARW completes with an acquire once the unit has arrived, and otherwise waits (R203, R268). -/
def State.barWait (n : BitVec 5) (s : State) : State :=
  if s.unitArrived n then s.discardView.finishNow else (s.mapSlot fun sl => { sl with progress := .arrived n.toNat }).stall
/-- The arrival of BARA or BAR: the log up to its tail is released at the level's fence scope, and then a(n) grows (R203). The
tail is the LOGTAIL at which it first came to issue, also when it waits (R266; log 76). -/
def State.barArrive (n : BitVec 5) (l : Level) (go : State → State) (s : State) : State :=
  let scope : Scope := if l.fence = 1 then .pod else .device
  let t := match s.slot.progress with | .arriving _ t => t | _ => s.grp.logTail
  if s.grp.released scope t then go (s.mapGrp fun g => (g.publish t).addArrival n)
  else (s.mapSlot fun sl => { sl with progress := .arriving n.toNat t }).stall
/-- BAR (R203). -/
def execBar (n : BitVec 5) (s : State) : Result :=
  .next (match s.level? n with
    | none => s.illegal s.irVal
    | some l =>
      match s.slot.progress with
      | .arrived _ => s.barWait n
      | _ => s.barArrive n l (State.barWait n))
/-- BARA (R203). -/
def execBara (n : BitVec 5) (s : State) : Result :=
  .next (match s.level? n with
    | none => s.illegal s.irVal
    | some l => s.barArrive n l State.finish)
/-- BARW (R203). -/
def execBarw (n : BitVec 5) (s : State) : Result :=
  .next (match s.level? n with
    | none => s.illegal s.irVal
    | some _ => s.barWait n)
/-- BARRIER_COMPLETION (R204): the barrier tree reports the last arrival, and the waiting BARW of slot k completes.
DESIGN CHOICE (log 133): the completion counts as an issue, and passes the choice of R157 by. -/
def execBarrierCompletion (k : SlotId) (s : State) : Result :=
  .next (match (s.grp.slot k).progress with
    | .arrived n =>
      let n : BitVec 5 := BitVec.ofNat 5 n
      if s.unitArrived n && (s.grp.slot k).active && !(s.grp.slot k).susp && !s.portHolds then
        { (({ s with k := k } : State).count 0x001 1 (some k)).discardView.finishNow with k := s.k }
      else s.stall
    | _ => s.stall)

end Sys2Proof.Machine
end

