-- ==== Sys2Proof/Machine/Functions.lean ====
section
/-! DEFINITION. The function pipe (spec 07, R142 to R147): VFN by enclosing the exact value between two integers at a
growing precision until the rounding of R143 is settled, and VLUT by the exact quadratic of R147. The acceptance table
of the annealer (R214) uses the same enclosures. An enclosure (lo, hi) at precision P says that lo < v * 2^P < hi. -/

namespace Sys2Proof.Machine

/-- Lower and upper integers around a value scaled by 2^P. -/
abbrev Ivl := Nat × Nat

def Ivl.mul (P : Nat) (a b : Ivl) : Ivl := (a.1 * b.1 / 2 ^ P, a.2 * b.2 / 2 ^ P + 1)
def Ivl.div (P : Nat) (a b : Ivl) : Ivl := (a.1 * 2 ^ P / b.2, a.2 * 2 ^ P / b.1 + 1)
def Ivl.add (a b : Ivl) : Ivl := (a.1 + b.1, a.2 + b.2)
def Ivl.sub (a b : Ivl) : Ivl := (a.1 - b.2, a.2 - b.1)
def Ivl.scale (n : Nat) (a : Ivl) : Ivl := (a.1 * n, a.2 * n)
def Ivl.one (P : Nat) : Ivl := (2 ^ P, 2 ^ P)
/-- Shift right by k bits. -/
def Ivl.shr (k : Nat) (a : Ivl) : Ivl := (a.1 / 2 ^ k, a.2 / 2 ^ k + 1)

/-- m * 2^e scaled by 2^P, rounded down and up. -/
def fixOf (P m : Nat) (e : Int) : Ivl :=
  let s := e + P
  if 0 ≤ s then (m * 2 ^ s.toNat, m * 2 ^ s.toNat)
  else (m / 2 ^ (-s).toNat, m / 2 ^ (-s).toNat + 1)

/-- The sum over i < n of sign^i * (2^P / b^(2i+1)) / (2i+1), each term rounded down. -/
def oddSeries (alternate : Bool) (b2 : Nat) : Nat → Nat → Nat → Int
  | 0, _, _ => 0
  | n + 1, i, p =>
    (if alternate && i % 2 = 1 then -((p / (2 * i + 1) : Nat) : Int) else ((p / (2 * i + 1) : Nat) : Int)) +
      oddSeries alternate b2 n (i + 1) (p / b2)
/-- The arc tangent (or its hyperbolic form) of 1/b, with an error of at most n + 2 units. -/
def atanInv (hyper : Bool) (b P n : Nat) : Int := oddSeries (!hyper) (b * b) n 0 (2 ^ P / b)

/-- pi by Machin's formula. -/
def piIvl (P : Nat) : Ivl :=
  let n := P / 4 + 8
  let v := 16 * atanInv false 5 (P + 20) n - 4 * atanInv false 239 (P + 20) n
  let w : Int := 20 * (2 * n + 8)
  ((v - w).toNat / 2 ^ 20, (v + w).toNat / 2 ^ 20 + 1)
/-- ln 2 as twice the hyperbolic arc tangent of 1/3. -/
def ln2Ivl (P : Nat) : Ivl :=
  let n := P / 3 + 16
  let v := 2 * atanInv true 3 (P + 20) n
  let w : Int := 2 * (2 * n + 8)
  ((v - w).toNat / 2 ^ 20, (v + w).toNat / 2 ^ 20 + 1)

/-- Horner's form of the exponential series, from term n down. -/
def expHorner (P : Nat) (r : Ivl) : Nat → Ivl → Ivl
  | 0, acc => acc
  | n + 1, acc =>
    let t := Ivl.mul P r acc
    expHorner P r n (2 ^ P + t.1 / (n + 1), 2 ^ P + t.2 / (n + 1) + 1)
/-- e^r for r between 0 and 1. -/
def expSmall (P : Nat) (r : Ivl) : Ivl :=
  let v := expHorner P r (P / 5 + 20) (Ivl.one P)
  (v.1 - 2, v.2 + 2)

/-- e^x for |x| below 2^12: an exponent k and an enclosure of the mantissa e^x / 2^k. -/
def expIvl (P : Nat) (neg : Bool) (x : Ivl) : Int × Ivl :=
  let l := ln2Ivl P
  if neg then
    -- x = k ln 2 - r with k the least multiple above, so that e^-x = 2^-k e^r
    let k := x.2 / l.1 + 1
    let r := Ivl.sub (Ivl.scale k l) x
    (-(k : Int), expSmall P r)
  else
    let k := x.1 / l.2
    let r := Ivl.sub x (Ivl.scale k l)
    ((k : Int), expSmall P r)

/-- e^-x at precision P, for x at or above 0 (absolute error). -/
def expNeg (P : Nat) (x : Ivl) : Ivl :=
  if 2 ^ (P + 12) ≤ x.1 then (0, 1)
  else
    let (k, v) := expIvl P true x
    Ivl.shr (-k).toNat v

/-- The sum of z^(2i+1) / (2i+1) for an enclosure z below 1/2. -/
def atanhSum (P : Nat) (z2 : Ivl) : Nat → Nat → Ivl → Ivl
  | 0, _, t => (0, t.2 + 1)
  | n + 1, i, t =>
    let rest := atanhSum P z2 n (i + 1) (Ivl.mul P t z2)
    (t.1 / (2 * i + 1) + rest.1, t.2 / (2 * i + 1) + 1 + rest.2)
/-- ln y for y between 1 and 2. -/
def lnIvl (P : Nat) (y : Ivl) : Ivl :=
  let z := Ivl.div P (y.1 - 2 ^ P, y.2 - 2 ^ P) (Ivl.add y (Ivl.one P))
  Ivl.scale 2 (atanhSum P (Ivl.mul P z z) (P / 3 + 8) 0 z)

/-- The alternating Horner form of sine and cosine: 1 - r2/(a(a+1)) (1 - ...). `odd` selects sine. -/
def trigHorner (P : Nat) (odd : Bool) (r2 : Ivl) : Nat → Ivl → Ivl
  | 0, acc => acc
  | n + 1, acc =>
    let t := Ivl.mul P r2 acc
    let d := if odd then (2 * n + 2) * (2 * n + 3) else (2 * n + 1) * (2 * n + 2)
    trigHorner P odd r2 n (2 ^ P - (t.2 / d + 1), 2 ^ P - t.1 / d)

/-- The sum of (2 u2)^n / (2n+1)!!, all terms positive, from term n down. -/
def erfHorner (P : Nat) (u2 : Ivl) : Nat → Ivl → Ivl
  | 0, acc => acc
  | n + 1, acc =>
    let t := Ivl.mul P (Ivl.scale 2 u2) acc
    erfHorner P u2 n (2 ^ P + t.1 / (2 * n + 3), 2 ^ P + t.2 / (2 * n + 3) + 1)

/-- erf(u) for u at or above 0, given u^2 and u * 2/sqrt(pi). -/
def erfIvl (P : Nat) (u2 c : Ivl) : Ivl :=
  -- 1 - erf u lies below e^(-u^2), and e^(-200) below 2^(-288)
  if 200 * 2 ^ P ≤ u2.1 then (2 ^ P - 2 ^ (P - 288), 2 ^ P)
  else
    let n := P + 8 * (u2.2 / 2 ^ P) + 40
    let s := erfHorner P u2 n (Ivl.one P)
    let v := Ivl.mul P (Ivl.mul P (expNeg P u2) (s.1, s.2 + 2)) c
    (v.1 - 2, min (v.2 + 2) (2 ^ P))

/-- 2 / sqrt(pi), or sqrt(2 / pi). -/
def sqrtIvl (P : Nat) (a : Ivl) : Ivl := (isqrt (a.1 * 2 ^ P), isqrt (a.2 * 2 ^ P) + 1)

/-- A nonzero value, not a number of any format: sign and lo * 2^e < |v| < hi * 2^e. -/
structure Encl where
  neg : Bool
  lo : Nat
  hi : Nat
  e : Int
  deriving DecidableEq, Repr

/-- The bound of a value below one. -/
def Ivl.belowOne (P : Nat) (v : Ivl) : Ivl := (v.1, min v.2 (2 ^ P))

def Encl.ofIvl (P : Nat) (neg : Bool) (v : Ivl) : Encl := ⟨neg, v.1, max v.2 (v.1 + 1), -(P : Int)⟩

/-- The functions of R142 with a transcendental value. -/
inductive Trans | exp2 | exp | log2 | ln | sin | cos | tanh | sigmoid | gelu | silu | softplus | erf
  deriving DecidableEq, Repr

/-- The sign and enclosure of sine or cosine after exact argument reduction: x - n * pi/2, |x| = m * 2^e. -/
def trigEncl (P : Nat) (cos neg : Bool) (m : Nat) (e : Int) : Option Encl :=
  let Q := P + 8 + (e + (Nat.log2 m : Int)).toNat
  let half := Ivl.shr 1 (piIvl Q)
  let x := fixOf Q m e
  -- the nearest multiple of pi/2
  let n := (2 * x.1 + half.1) / (2 * half.1)
  let nh := Ivl.scale n half
  let r : Option (Bool × Ivl) :=
    if nh.2 < x.1 then some (false, Ivl.sub x nh)
    else if x.2 < nh.1 then some (true, Ivl.sub nh x)
    else none
  match r with
  | none => none
  | some (rneg, r) =>
    let r := Ivl.shr (Q - P) r
    let r2 := Ivl.mul P r r
    let quad := (if cos then n + 1 else n) % 4
    let sign := (quad = 2 ∨ quad = 3)
    if quad % 2 = 0 then
      -- a sine of the reduced argument; the whole argument's sign matters for sine, not for cosine
      let s := Ivl.mul P r (trigHorner P true r2 (P / 6 + 12) (Ivl.one P))
      let s := (s.1 - 2, s.2 + 2)
      let flip := if cos then false else neg
      some (Encl.ofIvl P ((decide sign != rneg) != flip) s)
    else
      let c := trigHorner P false r2 (P / 6 + 12) (Ivl.one P)
      let flip := if cos then false else neg
      some (Encl.ofIvl P (decide sign != flip) (c.1 - 2, min (c.2 + 2) (2 ^ P)))

/-- An enclosure of the function at the nonzero argument of sign `neg` and magnitude m * 2^e, where the exact value is
no number of the format: the cases of R144 and the exact cases of R143 are settled before. -/
def enclose (f : Trans) (P : Nat) (neg : Bool) (m : Nat) (e : Int) : Option Encl :=
  let x := fixOf P m e
  let big := 12 ≤ e + (Nat.log2 m : Int)
  match f with
  | .exp =>
    if big then (if neg then some ⟨false, 0, 1, -4096⟩ else some ⟨false, 1, 2, 4096⟩)
    else let (k, v) := expIvl P neg x; some ⟨false, v.1, v.2, k - P⟩
  | .exp2 =>
    if big then (if neg then some ⟨false, 0, 1, -4096⟩ else some ⟨false, 1, 2, 4096⟩)
    else
      -- x = k + f with 0 <= f < 1
      let k : Int := if neg then -((x.1 / 2 ^ P : Nat) : Int) - 1 else ((x.1 / 2 ^ P : Nat) : Int)
      let f : Ivl := if neg then ((x.1 / 2 ^ P + 1) * 2 ^ P - x.2, (x.1 / 2 ^ P + 1) * 2 ^ P - x.1)
        else (x.1 % 2 ^ P, x.1 % 2 ^ P + (x.2 - x.1))
      let v := expSmall P (Ivl.mul P f (ln2Ivl P))
      some ⟨false, v.1, v.2, k - P⟩
  | .ln | .log2 =>
    let k : Int := e + (Nat.log2 m : Int)
    let y := fixOf P m (-(Nat.log2 m : Int))
    let l := lnIvl P y
    let l2 := ln2Ivl P
    let l := match f with | .log2 => Ivl.div P l l2 | _ => l
    let unit : Ivl := match f with | .log2 => Ivl.one P | _ => l2
    if 0 ≤ k then some (Encl.ofIvl P false (Ivl.add (Ivl.scale k.toNat unit) l))
    else some (Encl.ofIvl P true (Ivl.sub (Ivl.scale (-k).toNat unit) l))
  | .sin => trigEncl P false neg m e
  | .cos => trigEncl P true neg m e
  | .tanh =>
    let t := expNeg P (Ivl.scale 2 x)
    some (Encl.ofIvl P neg (Ivl.belowOne P (Ivl.div P (Ivl.sub (Ivl.one P) t) (Ivl.add (Ivl.one P) t))))
  | .sigmoid =>
    let t := expNeg P x
    let d := Ivl.add (Ivl.one P) t
    some (Encl.ofIvl P false (Ivl.belowOne P (if neg then Ivl.div P t d else Ivl.div P (Ivl.one P) d)))
  | .silu =>
    let t := expNeg P x
    let d := Ivl.add (Ivl.one P) t
    let s := Ivl.belowOne P (if neg then Ivl.div P t d else Ivl.div P (Ivl.one P) d)
    -- the product of m * 2^e and s, exact in m and e
    some ⟨neg, m * s.1, m * s.2, e - P⟩
  | .softplus =>
    let t := expNeg P x
    let l := lnIvl P (Ivl.add (Ivl.one P) t)
    some (Encl.ofIvl P false (if neg then l else Ivl.add x l))
  | .erf =>
    let u2 := Ivl.mul P x x
    let c := Ivl.mul P x (Ivl.div P (Ivl.scale 2 (Ivl.one P)) (sqrtIvl P (piIvl P)))
    some (Encl.ofIvl P neg (erfIvl P u2 c))
  | .gelu =>
    let u2 := Ivl.shr 1 (Ivl.mul P x x)
    let c := Ivl.mul P x (sqrtIvl P (Ivl.div P (Ivl.scale 2 (Ivl.one P)) (piIvl P)))
    let v := erfIvl P u2 c
    let s := if neg then Ivl.sub (Ivl.one P) v else Ivl.add (Ivl.one P) v
    some ⟨neg, m * s.1, m * s.2, e - P - 1⟩

/-- The results the rounding of R143 allows for a value between the bounds, if they agree at both ends: one result
under RNE, or for f32 the two that bracket the value. -/
def settle (F : Fmt) (c : Encl) : Option (Nat × Nat) :=
  let at_ (rm : RMode) (m : Nat) := (F.round true rm c.neg m c.e true).bits
  match F with
  | .f32 =>
    let lo := at_ .rtz c.lo
    let hi := at_ .rtz (c.hi - 1)
    -- beyond the largest finite value the result is an infinity (R144)
    if F.infCode ≤ at_ .rna c.lo % 2 ^ 31 ∧ lo % 2 ^ 31 = F.maxCode then some (F.signOf c.neg + F.infCode, F.signOf c.neg + F.infCode)
    else if lo = hi then some (lo, lo + 1) else none
  | _ =>
    let lo := at_ .rne c.lo
    let hi := at_ .rne (c.hi - 1)
    if lo = hi then some (lo, lo) else none

/-- The first precision at which the rounding is settled. -/
def settleAt (F : Fmt) (f : Trans) (neg : Bool) (m : Nat) (e : Int) : List Nat → Option (Nat × Nat)
  | [] => none
  | P :: rest =>
    match (enclose f P neg m e).bind (settle F) with
    | some r => some r
    | none => settleAt F f neg m e rest

/-- A rounded value of R143 from an exact dyadic with a sticky part: under RNE, or for f32 either neighbour. -/
def deliver (F : Fmt) (up : Bool) (neg : Bool) (m : Nat) (e : Int) (sticky : Bool) : Nat :=
  match F with
  | .f32 =>
    let r := F.round true .rtz neg m e sticky
    let n := F.round true .rne neg m e sticky
    -- a finite result beyond range rounds to an infinity (R144)
    if n.flags &&& Flags.of ≠ 0 then n.bits
    else if r.flags &&& Flags.nx = 0 then r.bits else if up then r.bits + 1 else r.bits
  | _ => (F.round true .rne neg m e sticky).bits

/-- 1/sqrt of m * 2^e: its integer part at a scale, its exponent, and whether something is left. -/
def rsqrtMag (m : Nat) (e : Int) : Nat × Int × Bool :=
  let k := 2 * (Nat.log2 m + 40)
  let k := if (e + k) % 2 = 0 then k else k + 1
  let v := 2 ^ k / m
  let r := isqrt v
  (r, -((e + k) / 2), r * r * m ≠ 2 ^ k)

/-- VFN in lane `l` at step `tick`: the result and its flags (R142 to R145). -/
def vfnLane (F : Fmt) (fn : Nat) (tick l : Nat) (x : Nat) : FRes :=
  let up := Config.faithfulUp tick l
  let z (neg : Bool) : FRes := ⟨F.signOf neg, Flags.none⟩
  let one : Nat := (F.convert true .rne (.num false 1 0)).bits
  let big (neg : Bool) (r : Nat) : FRes :=
    -- OF for a finite nonzero argument whose result is an infinity (R145)
    ⟨r, if r = F.signOf neg + F.infCode then Flags.of else Flags.none⟩
  let trans (f : Trans) (neg : Bool) (m : Nat) (e : Int) : FRes :=
    match settleAt F f neg m e [160, 640, 1600] with
    | some (a, b) =>
      let r := if up then b else a
      ⟨r, if r % 2 ^ F.signBit = F.infCode then Flags.of else Flags.none⟩
    | none =>
      -- the end of the last enclosure: the format's number there is one of the two that bracket the exact value (R143; log 7)
      let c := (enclose f 1600 neg m e).getD ⟨neg, m, m + 1, e⟩
      let r := (F.round true (match F with | .f32 => .rtz | _ => .rne) c.neg (c.hi - 1) c.e true).bits
      ⟨r, if r % 2 ^ F.signBit = F.infCode then Flags.of else Flags.none⟩
  match F.unpack x with
  | .nan s => F.nan (nvIf s)
  | .inf n =>
    match fn with
    | 0 | 1 => if n then z false else F.inf false
    | 2 | 3 => if n then F.nan Flags.nv else F.inf false
    | 4 => z n
    | 5 => if n then F.nan Flags.nv else z false
    | 6 => if n then F.nan Flags.nv else F.inf false
    | 7 | 8 => F.nan Flags.nv
    | 9 | 14 => ⟨F.signOf n + one, Flags.none⟩
    | 10 => if n then z false else ⟨one, Flags.none⟩
    | 11 | 12 => if n then z true else F.inf false
    | 13 => if n then z false else F.inf false
    | _ => F.inf n
  | .num n m e =>
    if m = 0 then
      match fn with
      | 0 | 1 | 8 => ⟨one, Flags.none⟩
      | 2 | 3 => ⟨F.signOf true + F.infCode, Flags.dz⟩
      | 4 => ⟨F.signOf n + F.infCode, Flags.dz⟩
      | 5 => ⟨F.signOf n + F.infCode, Flags.dz⟩
      | 10 => ⟨(F.round true .rne false 1 (-1) false).bits, Flags.none⟩
      | 13 =>
        let v := ln2Ivl 160
        ⟨deliver F up false v.1 (-160) true, Flags.none⟩
      | _ => z n
    else
      let k : Int := e + (Nat.log2 m : Int)
      let pow2 := m = 2 ^ Nat.log2 m
      match fn with
      | 0 =>
        let whole := 0 ≤ e ∨ m % 2 ^ (-e).toNat = 0
        if whole ∧ k < 12 then
          let i : Int := if 0 ≤ e then scaled n m e 0 else (if n then -((m / 2 ^ (-e).toNat : Nat) : Int) else (m / 2 ^ (-e).toNat : Nat))
          big false (deliver F up false 1 i false)
        else trans .exp2 n m e
      | 1 => trans .exp n m e
      | 2 => if n then F.nan Flags.nv
             else if pow2 then ⟨(F.convert true .rne (FVal.ofInt k)).bits, Flags.none⟩ else trans .log2 n m e
      | 3 => if n then F.nan Flags.nv else if pow2 ∧ k = 0 then z false else trans .ln n m e
      | 4 =>
        let s := Nat.log2 m + 40
        big n (deliver F up n (2 ^ s / m) (-e - s) (2 ^ s % m ≠ 0))
      | 5 => if n then F.nan Flags.nv else let (r, q, st) := rsqrtMag m e; ⟨deliver F up false r q st, Flags.none⟩
      | 6 =>
        if n then F.nan Flags.nv
        else
          let t := 2 * (F.prec + 4)
          let t := if (e - t) % 2 = 0 then t else t + 1
          let v := m * 2 ^ t
          let r := isqrt v
          ⟨deliver F up false r ((e - t) / 2) (r * r ≠ v), Flags.none⟩
      | 7 => trans .sin n m e
      | 8 => trans .cos n m e
      | 9 => trans .tanh n m e
      | 10 => trans .sigmoid n m e
      | 11 => trans .gelu n m e
      | 12 => trans .silu n m e
      | 13 => trans .softplus n m e
      | 14 => trans .erf n m e
      | _ => ⟨x, Flags.none⟩

/-! ## User tables (R146, R147) -/

/-- An exact dyadic number m * 2^e. -/
structure Dyadic where
  m : Int
  e : Int
  deriving DecidableEq, Repr
def Dyadic.ofVal : FVal → Dyadic
  | .num n m e => ⟨if n then -(m : Int) else m, e⟩
  | _ => ⟨0, 0⟩
def Dyadic.add (a b : Dyadic) : Dyadic :=
  let low := min a.e b.e
  ⟨a.m * (2 ^ (a.e - low).toNat : Nat) + b.m * (2 ^ (b.e - low).toNat : Nat), low⟩
def Dyadic.mul (a b : Dyadic) : Dyadic := ⟨a.m * b.m, a.e + b.e⟩
def Dyadic.neg (a : Dyadic) : Dyadic := ⟨-a.m, a.e⟩
/-- The integer at or below. -/
def Dyadic.floor (a : Dyadic) : Int :=
  if 0 ≤ a.e then a.m * (2 ^ a.e.toNat : Nat) else Int.fdiv a.m (2 ^ (-a.e).toNat : Nat)

/-- One lane of VLUT (R147): the table's fields by word index (lo, s, ninf, pinf, then c0, c1, c2 of each segment). -/
def vlutLane (F : Fmt) (word : Nat → Nat) (x : Nat) : FRes :=
  let f32 (i : Nat) : FVal := Fmt.f32.unpack (word i)
  let inf (v : FVal) : FRes := ⟨(F.convert true .rne v).bits, Flags.none⟩
  match F.unpack x with
  | .nan s => F.nan (nvIf s)
  | .inf n => inf (f32 (if n then 2 else 3))
  | .num n m e =>
    let s : Int := (BitVec.ofNat 32 (word 1)).toInt
    let d := Dyadic.add (Dyadic.ofVal (.num n m e)) (Dyadic.ofVal (f32 0)).neg
    let u : Dyadic := ⟨d.m, d.e - s⟩
    let i := (min (max u.floor 0) 255).toNat
    let t := Dyadic.add u ⟨-(i : Int), 0⟩
    let c (j : Nat) : Dyadic := Dyadic.ofVal (f32 (4 + 3 * i + j))
    let y := Dyadic.add (c 0) (Dyadic.mul t (Dyadic.add (c 1) (Dyadic.mul (c 2) t)))
    let r := F.round true .rne (y.m < 0) y.m.natAbs y.e false
    -- OF when a finite nonzero argument gives an infinity, DZ when a zero argument does (R145)
    let infinite := r.bits % 2 ^ F.signBit = F.infCode
    ⟨r.bits, if infinite then (if m = 0 then Flags.dz else Flags.of) else Flags.none⟩

/-- The acceptance table of R214: ExpTable[i] = floor(2^32 * e^(-i/16)), and all ones for i = 0. -/
def expTable (i : Nat) : Nat :=
  if i = 0 then 0xFFFFFFFF else (expNeg 160 (fixOf 160 i (-4))).1 / 2 ^ 128

end Sys2Proof.Machine
end

