-- ==== Sys2Proof/Machine/Vector.lean ====
section
/-! DEFINITION. The vector, function-pipe and mask instructions (spec 07 R121 to R149; spec 03 R50 to R53). -/

namespace Sys2Proof.Machine

/-! ## Element-wise arithmetic (R128 to R130) -/

/-- A rounding lane operation (R128). -/
def State.vop2 (op : FOp) (t : FType) (d a b : VReg) (m : MReg) (p : Pat) (s : State) : State :=
  s.lanes2 (ftypeWidth t) d a b m p fun s x y => (ftypeFmt t).binop op s.rmode x y
def State.vminmax (isMax : Bool) (t : FType) (d a b : VReg) (m : MReg) (p : Pat) (s : State) : State :=
  s.lanes2 (ftypeWidth t) d a b m p fun _ x y => (ftypeFmt t).minMax isMax x y
/-- A fused lane operation (R128). -/
def State.vfused (op : FusedOp) (t : FType) (d a b : VReg) (m : MReg) (p : Pat) (s : State) : State :=
  s.lanes3 (ftypeWidth t) d a b m p fun s x y z => (ftypeFmt t).fused op s.rmode x y z
/-- An integer lane operation on exact values, wrapped to the lane (R129). -/
def State.viop2 (t : IType) (d a b : VReg) (m : MReg) (p : Pat) (f : Int → Int → Int) (s : State) : State :=
  s.lanes2 (itypeWidth t) d a b m p fun _ x y => .exact (intLane (itypeWidth t) (f (laneInt (itypeWidth t) x) (laneInt (itypeWidth t) y)))
def State.viop1 (t : IType) (d b : VReg) (m : MReg) (p : Pat) (f : Int → Int) (s : State) : State :=
  s.lanes1 (itypeWidth t) d b m p fun _ _ x => .exact (intLane (itypeWidth t) (f (laneInt (itypeWidth t) x)))
/-- A shift of integer lanes: the amount is the low bits of the patterned lane (R130). -/
def State.vshift (t : IType) (d a b : VReg) (m : MReg) (p : Pat) (f : (w : Nat) → BitVec w → Nat → BitVec w) (s : State) : State :=
  s.lanes2 (itypeWidth t) d a b m p fun _ x y => .exact (f (itypeWidth t) (BitVec.ofNat (itypeWidth t) x) (y % itypeWidth t)).toNat
/-- A bitwise lane operation: the width sets only the mask's granularity (R130). -/
def State.vbitop (t : Width) (d a b : VReg) (m : MReg) (p : Pat) (f : Nat → Nat → Nat) (s : State) : State :=
  s.lanes2 (widthBits t) d a b m p fun _ x y => .exact (f x y)

/-- VADD_F (R128). -/
def execVaddF (t : FType) (d a b : VReg) (m : MReg) (p : Pat) (s : State) : Result :=
  .next (s.vop2 .add t d a b m p)
/-- VADD_I (R129). -/
def execVaddI (t : IType) (d a b : VReg) (m : MReg) (p : Pat) (s : State) : Result :=
  .next (s.viop2 t d a b m p fun x y => x + y)
/-- VSUB_F (R128). -/
def execVsubF (t : FType) (d a b : VReg) (m : MReg) (p : Pat) (s : State) : Result :=
  .next (s.vop2 .sub t d a b m p)
/-- VSUB_I (R129). -/
def execVsubI (t : IType) (d a b : VReg) (m : MReg) (p : Pat) (s : State) : Result :=
  .next (s.viop2 t d a b m p fun x y => x - y)
/-- VMUL_F (R128). -/
def execVmulF (t : FType) (d a b : VReg) (m : MReg) (p : Pat) (s : State) : Result :=
  .next (s.vop2 .mul t d a b m p)
/-- VMUL_I (R129). -/
def execVmulI (t : IType) (d a b : VReg) (m : MReg) (p : Pat) (s : State) : Result :=
  .next (s.viop2 t d a b m p fun x y => x * y)
/-- VMIN_F (R43). -/
def execVminF (t : FType) (d a b : VReg) (m : MReg) (p : Pat) (s : State) : Result :=
  .next (s.vminmax false t d a b m p)
/-- VMIN_I (R129). -/
def execVminI (t : IType) (d a b : VReg) (m : MReg) (p : Pat) (s : State) : Result :=
  .next (s.viop2 t d a b m p fun x y => min x y)
/-- VMAX_F (R43). -/
def execVmaxF (t : FType) (d a b : VReg) (m : MReg) (p : Pat) (s : State) : Result :=
  .next (s.vminmax true t d a b m p)
/-- VMAX_I (R129). -/
def execVmaxI (t : IType) (d a b : VReg) (m : MReg) (p : Pat) (s : State) : Result :=
  .next (s.viop2 t d a b m p fun x y => max x y)
/-- VABS_F (R128, R41). -/
def execVabsF (t : FType) (d b : VReg) (m : MReg) (p : Pat) (s : State) : Result :=
  .next (s.lanes1 (ftypeWidth t) d b m p fun _ _ x => .exact (x % 2 ^ (ftypeWidth t - 1)))
/-- VABS_I (R129). -/
def execVabsI (t : IType) (d b : VReg) (m : MReg) (p : Pat) (s : State) : Result :=
  .next (s.viop1 t d b m p fun x => if x < 0 then -x else x)
/-- VNEG_F (R128, R41). -/
def execVnegF (t : FType) (d b : VReg) (m : MReg) (p : Pat) (s : State) : Result :=
  .next (s.lanes1 (ftypeWidth t) d b m p fun _ _ x => .exact ((x + 2 ^ (ftypeWidth t - 1)) % 2 ^ ftypeWidth t))
/-- VNEG_I (R129). -/
def execVnegI (t : IType) (d b : VReg) (m : MReg) (p : Pat) (s : State) : Result :=
  .next (s.viop1 t d b m p fun x => -x)

/-! ## Compares (R131) -/

/-- A floating compare of lanes, with the NV of R43. -/
def State.vcompareF (op : FCmp) (t : FType) (d : MReg) (a b : VReg) (m : MReg) (p : Pat) (s : State) : State :=
  s.lanesCmp (ftypeWidth t) d a b m p fun x y => (ftypeFmt t).compare op x y
/-- A signed compare of lanes. -/
def State.vcompareI (t : IType) (d : MReg) (a b : VReg) (m : MReg) (p : Pat) (f : Int → Int → Bool) (s : State) : State :=
  s.lanesCmp (itypeWidth t) d a b m p fun x y => (f (laneInt (itypeWidth t) x) (laneInt (itypeWidth t) y), Flags.none)
/-- VCEQ_F (R131). -/
def execVceqF (t : FType) (d : MReg) (a b : VReg) (m : MReg) (p : Pat) (s : State) : Result :=
  .next (s.vcompareF .eq t d a b m p)
/-- VCEQ_I (R131). -/
def execVceqI (t : IType) (d : MReg) (a b : VReg) (m : MReg) (p : Pat) (s : State) : Result :=
  .next (s.vcompareI t d a b m p fun x y => x == y)
/-- VCLT_F (R131). -/
def execVcltF (t : FType) (d : MReg) (a b : VReg) (m : MReg) (p : Pat) (s : State) : Result :=
  .next (s.vcompareF .lt t d a b m p)
/-- VCLT_I (R131). -/
def execVcltI (t : IType) (d : MReg) (a b : VReg) (m : MReg) (p : Pat) (s : State) : Result :=
  .next (s.vcompareI t d a b m p fun x y => decide (x < y))
/-- VCLE_F (R131). -/
def execVcleF (t : FType) (d : MReg) (a b : VReg) (m : MReg) (p : Pat) (s : State) : Result :=
  .next (s.vcompareF .le t d a b m p)
/-- VCLE_I (R131). -/
def execVcleI (t : IType) (d : MReg) (a b : VReg) (m : MReg) (p : Pat) (s : State) : Result :=
  .next (s.vcompareI t d a b m p fun x y => decide (x ≤ y))

/-! ## Reductions (R134) -/

/-- VRSUM_F (R134). -/
def execVrsumF (t : FType) (d b : VReg) (m : MReg) (p : Pat) (s : State) : Result :=
  .next (s.lanesRed (ftypeWidth t) d b m p 0 fun s x y => (ftypeFmt t).binop .add s.rmode x y)
/-- VRSUM_I (R134). -/
def execVrsumI (t : IType) (d b : VReg) (m : MReg) (p : Pat) (s : State) : Result :=
  .next (s.lanesRed (itypeWidth t) d b m p 0 fun _ x y => .exact ((x + y) % 2 ^ itypeWidth t))
/-- VRMAX_F (R134). -/
def execVrmaxF (t : FType) (d b : VReg) (m : MReg) (p : Pat) (s : State) : Result :=
  .next (s.lanesRed (ftypeWidth t) d b m p ((ftypeFmt t).signOf true + (ftypeFmt t).infCode) fun _ x y => (ftypeFmt t).minMax true x y)
/-- The greater or lesser of two signed lanes. -/
def pickLane (w : Nat) (isMax : Bool) (x y : Nat) : FRes :=
  .exact (if decide (laneInt w x < laneInt w y) = isMax then y else x)
/-- VRMAX_I (R134). -/
def execVrmaxI (t : IType) (d b : VReg) (m : MReg) (p : Pat) (s : State) : Result :=
  .next (s.lanesRed (itypeWidth t) d b m p (2 ^ (itypeWidth t - 1)) fun _ x y => pickLane (itypeWidth t) true x y)
/-- VRMIN_F (R134). -/
def execVrminF (t : FType) (d b : VReg) (m : MReg) (p : Pat) (s : State) : Result :=
  .next (s.lanesRed (ftypeWidth t) d b m p (ftypeFmt t).infCode fun _ x y => (ftypeFmt t).minMax false x y)
/-- VRMIN_I (R134). -/
def execVrminI (t : IType) (d b : VReg) (m : MReg) (p : Pat) (s : State) : Result :=
  .next (s.lanesRed (itypeWidth t) d b m p (2 ^ (itypeWidth t - 1) - 1) fun _ x y => pickLane (itypeWidth t) false x y)

/-! ## Fused forms, division, shifts and bits (R128, R130) -/

/-- VFMA (R128). -/
def execVfma (t : FType) (d a b : VReg) (m : MReg) (p : Pat) (s : State) : Result :=
  .next (s.vfused .fma t d a b m p)
/-- VFMS (R128). -/
def execVfms (t : FType) (d a b : VReg) (m : MReg) (p : Pat) (s : State) : Result :=
  .next (s.vfused .fms t d a b m p)
/-- VFNMA (R128). -/
def execVfnma (t : FType) (d a b : VReg) (m : MReg) (p : Pat) (s : State) : Result :=
  .next (s.vfused .fnma t d a b m p)
/-- VDIV (R128). -/
def execVdiv (t : FType) (d a b : VReg) (m : MReg) (p : Pat) (s : State) : Result :=
  .next (s.vop2 .div t d a b m p)
/-- VSQRT (R128). -/
def execVsqrt (t : FType) (d b : VReg) (m : MReg) (p : Pat) (s : State) : Result :=
  .next (s.lanes1 (ftypeWidth t) d b m p fun s _ x => (ftypeFmt t).sqrt s.rmode ((ftypeFmt t).unpack x))
/-- VSHL (R130). -/
def execVshl (t : IType) (d a b : VReg) (m : MReg) (p : Pat) (s : State) : Result :=
  .next (s.vshift t d a b m p fun _ x n => x <<< n)
/-- VSHR (R130). -/
def execVshr (t : IType) (d a b : VReg) (m : MReg) (p : Pat) (s : State) : Result :=
  .next (s.vshift t d a b m p fun _ x n => x >>> n)
/-- VSRA (R130). -/
def execVsra (t : IType) (d a b : VReg) (m : MReg) (p : Pat) (s : State) : Result :=
  .next (s.vshift t d a b m p fun _ x n => x.sshiftRight n)
/-- VAND (R130). -/
def execVand (t : Width) (d a b : VReg) (m : MReg) (p : Pat) (s : State) : Result :=
  .next (s.vbitop t d a b m p fun x y => x &&& y)
/-- VOR (R130). -/
def execVor (t : Width) (d a b : VReg) (m : MReg) (p : Pat) (s : State) : Result :=
  .next (s.vbitop t d a b m p fun x y => x ||| y)
/-- VXOR (R130). -/
def execVxor (t : Width) (d a b : VReg) (m : MReg) (p : Pat) (s : State) : Result :=
  .next (s.vbitop t d a b m p fun x y => x ^^^ y)

/-! ## Selection, moves and single lanes (R132, R133, R50) -/

/-- VSEL (R132): every lane is written; the mask chooses between va and vb. -/
def execVsel (t : Width) (d a b : VReg) (m : MReg) (p : Pat) (s : State) : Result :=
  let w := widthBits t
  .next (s.withB w p b [d, a] fun rb t =>
    t.rowResult d (gather w ((upTo (laneCount w)).map fun l =>
      .exact (if laneOn w (t.grp.mask m) l then lane w (s.grp.row a) l else lane w rb l))))
/-- VMOV (R132). -/
def execVmov (t : Width) (d b : VReg) (m : MReg) (p : Pat) (s : State) : Result :=
  .next (s.lanes1 (widthBits t) d b m p fun _ _ x => .exact x)
/-- Every enabled lane takes one value (R133). -/
def State.broadcast (w : Nat) (d : VReg) (m : MReg) (v : Nat) (s : State) : State :=
  s.whenRows [d] fun s => s.rowResult d (gather w (laneResults w (laneCount w) (s.grp.mask m) (s.grp.row d) fun _ => .exact v))
/-- VBC (R133). -/
def execVbc (t : Width) (d : VReg) (a : GReg) (m : MReg) (s : State) : Result :=
  .next (s.broadcast (widthBits t) d m ((s.getG a).toNat % 2 ^ widthBits t))
/-- The lane value of VBCI (R50): under .f32, .b16 and .f16 a NaN keeps its payload and is made quiet. DESIGN CHOICE (log 101): the f16
NaN has the immediate's sign. -/
def vbciValue (t : BType) (imm : BitVec 16) : Nat :=
  let x := Fmt.b16.unpack imm.toNat
  let quiet := if x.isNan then imm ||| 0x40 else imm
  match t with
  | .f32 => quiet.toNat * 2 ^ 16
  | .b16 => quiet.toNat
  | .f16 =>
    -- the payload's fraction bits stand at the top of the f16 fraction
    if x.isNan then (if imm.getLsbD 15 then 0x8000 else 0) + 0x7C00 + (quiet.toNat % 128) * 8
    else (Fmt.f16.convert true .rne x).bits
  | .e4 => if x.isNan then Fmt.e4.nanCode else (Fmt.e4.convert true .rne x).bits
  | .e5 => if x.isNan then Fmt.e5.nanCode else (Fmt.e5.convert true .rne x).bits
  | .i32 => (imm.signExtend 32).toNat
  | .i16 => imm.toNat
  | .i8 => imm.toNat % 256
/-- The element width of a VBCI type (R86). -/
def btypeWidth : BType → Nat | .f32 | .i32 => 32 | .f16 | .b16 | .i16 => 16 | .e4 | .e5 | .i8 => 8
/-- VBCI (R50, R133): no flag, and FCSR is ignored. -/
def execVbci (t : BType) (d : VReg) (m : MReg) (imm : BitVec 16) (s : State) : Result :=
  .next (s.broadcast (btypeWidth t) d m (vbciValue t imm))
/-- The failure of a lane index outside the row (R133). -/
def laneFault (w : Nat) (v : Word) : Failure := if laneCount w ≤ v.toNat then some (0x03, v) else none
/-- VEXT (R133); a queue source is tested before the lane index (log 72). -/
def execVext (t : Width) (d : GReg) (b : VReg) (a : GReg) (p : Pat) (s : State) : Result :=
  let w := widthBits t
  let i := s.getG a
  .next (s.withChecked w p b [] (fun _ => laneFault w i) fun rb t => t.result d (BitVec.ofNat 64 (lane w rb i.toNat)))
/-- VINS (R133): the lane is written if the mask enables it. -/
def execVins (t : Width) (d : VReg) (a b : GReg) (m : MReg) (s : State) : Result :=
  let w := widthBits t
  let i := s.getG a
  .next (s.whenRows [d] fun s =>
    s.check (laneFault w i) fun s =>
      s.rowResult d (gather w ((upTo (laneCount w)).map fun l =>
        .exact (if l = i.toNat ∧ laneOn w (s.grp.mask m) l then (s.getG b).toNat % 2 ^ w else lane w (s.grp.row d) l))))
/-- VPACK (R136): a width of 32 is reserved. -/
def execVpack (t : Width) (d a b : VReg) (m : MReg) (p : Pat) (s : State) : Result :=
  let w := widthBits t
  .next (if t = .w32 then s.reservedTrap
    else s.withB w p b [d, a] fun rb t =>
      let packed := rowOfBytes ((rowBytes (s.grp.row a)).take 64 ++ (rowBytes rb).take 64)
      t.rowResult d (gather w (laneResults w (laneCount w) (t.grp.mask m) (t.grp.row d) fun l => .exact (lane w packed l))))
/-- VUNPK (R136): a width of 8 is reserved; h above 1 is an illegal operand with the word in TRAPVAL (R89), tested before the
queue source (log 72). -/
def execVunpk (t : Width) (d b : VReg) (h : BitVec 5) (m : MReg) (p : Pat) (s : State) : Result :=
  let w := widthBits t
  .next (if t = .w8 then s.reservedTrap
    else s.check (if 1 < h.toNat then some (0x03, s.irVal) else none) fun s =>
      s.withB w p b [d] fun rb t =>
        let half := rowOfBytes (((rowBytes rb).drop (64 * h.toNat)).take 64)
        t.rowResult d (gather w (laneResults w (laneCount w / 2) (t.grp.mask m) (t.grp.row d) fun l => .exact (lane w half l))))
/-- VSTQ (R140): the row enters the outbound queue as 16 words; qd is tested before a queue source (log 72). -/
def execVstq (t : Width) (q : BitVec 5) (b : VReg) (p : Pat) (s : State) : Result :=
  let k : BitVec 3 := q.setWidth 3
  .next (s.check (s.grp.queueFault false q) fun s =>
    s.check (s.sourceFault p b) fun s =>
      if 32 < (s.grp.queue k).words.length + 16 then s.stall
      else s.withB (widthBits t) p b [] fun rb t =>
        (t.mapGrp (Group.enqueue k ((upTo 16).map fun i => BitVec.ofNat 64 (lane 64 rb i)))).finish)

/-! ## Conversions and quantisation (R135, R137 to R139, R51 to R53) -/

/-- The value of a lane of a full type code: floats as they are, integers as signed numbers (R90). -/
def vtypeValue (t : VType) (x : Nat) : FVal :=
  match t with
  | .f32 => Fmt.f32.unpack x | .f16 => Fmt.f16.unpack x | .b16 => Fmt.b16.unpack x
  | .e4 => Fmt.e4.unpack x | .e5 => Fmt.e5.unpack x
  | .i8 | .d8 => FVal.ofInt (laneInt 8 x) | .i32 => FVal.ofInt (laneInt 32 x) | .i16 => FVal.ofInt (laneInt 16 x)
def vtypeWidth : VType → Nat | .f32 | .i32 => 32 | .f16 | .b16 | .i16 => 16 | _ => 8
def vtypeIsInt : VType → Bool | .i8 | .d8 | .i32 | .i16 => true | _ => false
/-- A value converted to a full type (R45 to R48): an integer narrows by saturation with no flag, a floating value
saturates with the flags of R47. -/
def vtypeResult (t : VType) (fromInt satf8 : Bool) (rm : RMode) (x : FVal) : FRes :=
  let whole (w : Nat) : FRes :=
    let r := toInteger rm (-(2 ^ (w - 1) : Nat)) ((2 ^ (w - 1) : Nat) - 1) x
    ⟨intLane w r.1, if fromInt then Flags.none else r.2⟩
  match t with
  | .f32 => Fmt.f32.convert satf8 rm x | .f16 => Fmt.f16.convert satf8 rm x | .b16 => Fmt.b16.convert satf8 rm x
  | .e4 => Fmt.e4.convert satf8 rm x | .e5 => Fmt.e5.convert satf8 rm x
  | .i8 | .d8 => whole 8 | .i32 => whole 32 | .i16 => whole 16
/-- VCVT (R135): equal types, and .d8, are reserved (R90). -/
def execVcvt (dst src : VType) (d a : VReg) (m : MReg) (s : State) : Result :=
  .next (if vcvtAllowed dst src then
      s.convert (vtypeWidth src) (vtypeWidth dst) d a m (fun _ => none) fun s x =>
        vtypeResult dst (vtypeIsInt src) s.grp.satf8 s.rmode (vtypeValue src x)
    else s.reservedTrap)

/-- Entry c of the decode table as a value (R35, R51). -/
def Group.entryVal (g : Group) (c : Nat) : FVal := Fmt.d19.unpack ((g.dtable[c]?.map BitVec.toNat).getD 0)
/-- A decode table that VQUANT can search (R52). -/
def Group.searchable (g : Group) : Bool :=
  let e (i : Nat) : BitVec 19 := g.dtable[i]?.getD 0
  ((upTo 128).all fun i => !(e i).getLsbD 18 && decide (bits (e i).toNat 17 10 ≠ 0xFF)) &&
  ((upTo 127).all fun i => (g.entryVal i).cmp (g.entryVal (i + 1)) == .lt) &&
  ((upTo 128).all fun i => e (128 + i) == e i ^^^ (1 <<< 18))
/-- The largest index whose entry is at most m, among those from `i` down (R53). -/
def Group.floorEntry (g : Group) (m : FVal) : Nat → Nat
  | 0 => 0
  | i + 1 => if (g.entryVal (i + 1)).cmp m = .gt then Group.floorEntry g m i else i + 1
/-- A value as an exact dyadic number, for the distances of R53. -/
def midCompare (lo m hi : FVal) : Ordering :=
  let d (x y : FVal) : Dyadic := (Dyadic.ofVal x).add (Dyadic.ofVal y).neg
  let z := (d m lo).add (d hi m).neg
  compare z.m 0
/-- VQUANT to .d8 of one lane (R53). -/
def Group.quantD8 (g : Group) (neg : Bool) (x : FVal) : FRes :=
  match x with
  | .nan _ => ⟨0, Flags.nv⟩
  | _ =>
    let m := x.abs
    let i :=
      if m.cmp (g.entryVal 0x7F) ≠ .lt then 0x7F
      else if m.cmp (g.entryVal 0) ≠ .gt then 0
      else
        let i := g.floorEntry m 0x7F
        match midCompare (g.entryVal i) m (g.entryVal (i + 1)) with
        | .gt => i + 1
        | .eq => if i % 2 = 1 then i + 1 else i
        | .lt => i
    let code := (if neg then 128 else 0) + i
    let same : Bool := match x with | .inf _ => false | _ => (g.entryVal code).cmp x == .eq
    ⟨code, if same then Flags.none else Flags.nx⟩
/-- A DTLOAD job of the group is still in the octet's queue (R320). -/
def State.tablePending (s : State) : Bool :=
  s.octets.any fun o => o.jobs.any fun j => decide (j.owner = s.grp.name) && (match j.kind with | .dtload _ => true | _ => false)
/-- An instruction that reads the decode table waits for every earlier DTLOAD (R320). -/
def State.whenTable (uses : Bool) (go : State → State) (s : State) : State :=
  if uses && s.tablePending then s.stall else go s
/-- The failure of a decode table that cannot be searched (R52). -/
def State.tableFault (s : State) : Failure := if s.grp.searchable then none else some (0x03, s.irVal)
/-- VQUANT (R137): RNE, and R46 for e4 and e5; the searchability of R52 is tested at issue. -/
def execVquant (dst : QFmt) (src : FType) (d a : VReg) (m : MReg) (s : State) : Result :=
  let v (x : Nat) : FVal := (ftypeFmt src).unpack x
  .next (s.whenTable (dst == .d8) fun s =>
    s.convert (ftypeWidth src) 8 d a m (fun s => if dst = .d8 then s.tableFault else none) fun s x =>
      match dst with
      | .e4 => Fmt.e4.convert s.grp.satf8 .rne (v x)
      | .e5 => Fmt.e5.convert s.grp.satf8 .rne (v x)
      | .d8 => s.grp.quantD8 (x.testBit (ftypeWidth src - 1)) (v x))
/-- VDEQ (R138). -/
def execVdeq (dst : FType) (src : DFmt) (d a : VReg) (m : MReg) (s : State) : Result :=
  .next (s.whenTable (src == .d8) fun s =>
    s.convert 8 (ftypeWidth dst) d a m (fun _ => none) fun s x =>
      let v : FVal := match src with
        | .e4 => Fmt.e4.unpack x
        | .e5 => Fmt.e5.unpack x
        | .d8 => s.grp.entryVal x
        | .i8 => FVal.ofInt (laneInt 8 x)
      (ftypeFmt dst).convert s.grp.satf8 s.rmode v)
/-- The magnitude of a lane as f32 bits; a NaN lane is ignored (R139). -/
def amaxLane (t : FType) (x : Nat) : Nat :=
  let v := (ftypeFmt t).unpack x
  if v.isNan then 0 else (Fmt.f32.convert true .rne v.abs).bits
/-- The failure of an operand number above its limit, with the word in TRAPVAL (R89, R91, R337). -/
def State.above (limit : Nat) (n : BitVec 5) (s : State) : Failure := if limit < n.toNat then some (0x03, s.irVal) else none
/-- VAMAX (R139): positive f32 bits order as the values do; n is tested before a queue source (log 72). -/
def execVamax (t : FType) (n : BitVec 5) (b : VReg) (m : MReg) (p : Pat) (s : State) : Result :=
  let w := ftypeWidth t
  .next (s.check (s.above 3 n) fun s =>
    s.withB w p b [] fun rb t' =>
      let on := (upTo (laneCount w)).filter (laneOn w (t'.grp.mask m))
      let r : Fin 4 := (n.setWidth 2).toFin
      let v := on.foldl (fun acc l => max acc (amaxLane t (lane w rb l))) (t'.grp.amax.get r).toNat
      (t'.mapGrp fun g => { g with amax := g.amax.set r.val (BitVec.ofNat 32 v) r.isLt }).finish)

/-! ## The function pipe (R142 to R148) -/

/-- VFN (R142 to R145); fn is tested before a queue source (log 72). -/
def execVfn (t : FType) (fn : BitVec 5) (d b : VReg) (m : MReg) (p : Pat) (s : State) : Result :=
  .next (s.check (s.above 15 fn) fun s =>
    s.lanes1 (ftypeWidth t) d b m p fun s l x => vfnLane (ftypeFmt t) fn.toNat s.ticks l x)
/-- Word i of the user table at a well address (R146). -/
def Group.tableWord (g : Group) (a i : Nat) : Nat := g.well.nat (a + 4 * i) 4
/-- The checks of a user table, in the order of R146. -/
def Group.lutFault (g : Group) (a : Word) : Failure :=
  let finite (i : Nat) : Bool := decide (g.tableWord a.toNat i / 2 ^ 23 % 256 ≠ 255)
  let s := (BitVec.ofNat 32 (g.tableWord a.toNat 1)).toInt
  if 0x8000 < a.toNat + 3088 then some (0x04, a)
  else if a.toNat % 8 ≠ 0 then some (0x05, a)
  else if g.protected false a.toNat 3088 then some (0x06, a)
  else if finite 0 && decide (-126 ≤ s) && decide (s ≤ 127) && (upTo 768).all fun i => finite (4 + i) then none
  else some (0x03, a)
/-- VLUT (R146 to R148): the pipe keeps a copy of the table it read; n is tested before a queue source (log 72). DESIGN CHOICE (log 102):
one that traps on a field limit leaves no copy, and counts no read of the table. -/
def execVlut (t : FType) (n : BitVec 5) (d b : VReg) (m : MReg) (p : Pat) (s : State) : Result :=
  let a := s.getG (28 + n)
  let w := ftypeWidth t
  let i : Fin 4 := (n.setWidth 2).toFin
  .next (s.check (s.above 3 n) fun s =>
    s.withChecked w p b [d] (fun s => s.grp.lutFault a) fun rb t' =>
      let g := t'.grp
      let rs := laneResults w (laneCount w) (g.mask m) (g.row d) fun l => vlutLane (ftypeFmt t) (g.tableWord a.toNat) (lane w rb l)
      let t' := if t'.core.fnCopies.get i = some a.toNat then t' else t'.count 0x022 1 none
      (t'.mapCore fun c => { c with fnCopies := c.fnCopies.set i.val (some a.toNat) i.isLt }).rowResult d (gather w rs))

/-! ## Mask instructions (R149) -/

/-- md takes f of two masks. -/
def State.maskOp (d : MReg) (v : Word) (s : State) : State := (s.mapGrp (·.setMask d v)).finish
/-- MAND (R149). -/
def execMand (d a b : MReg) (s : State) : Result := .next (s.maskOp d (s.grp.mask a &&& s.grp.mask b))
/-- MOR (R149). -/
def execMor (d a b : MReg) (s : State) : Result := .next (s.maskOp d (s.grp.mask a ||| s.grp.mask b))
/-- MXOR (R149). -/
def execMxor (d a b : MReg) (s : State) : Result := .next (s.maskOp d (s.grp.mask a ^^^ s.grp.mask b))
/-- MNOT (R149). -/
def execMnot (d a : MReg) (s : State) : Result := .next (s.maskOp d (~~~s.grp.mask a))
/-- MPOPC (R149). -/
def execMpopc (d : GReg) (a : MReg) (s : State) : Result := .next (s.result d (popc (s.grp.mask a)))
/-- MFROM (R149). -/
def execMfrom (d : MReg) (a : GReg) (s : State) : Result := .next (s.maskOp d (s.getG a))
/-- MTO (R149). -/
def execMto (d : GReg) (a : MReg) (s : State) : Result := .next (s.result d (s.grp.mask a))

end Sys2Proof.Machine
end

