-- ==== Sys2Proof/Machine/Engines.lean ====
section
/-! DEFINITION. The engine instructions (spec 19) and the events of the matrix engine and the copy unit (spec 18): jobs and
batches, matrix steps, copies and collectives. -/

namespace Sys2Proof.Machine

/-! ## Distances, octets, owners and lending -/

def absDiff (a b : Nat) : Nat := (a - b) + (b - a)
/-- The die edges on the way between two cores. -/
def dieEdges (a b : Coord) : Nat := absDiff (a.x / 104) (b.x / 104) + absDiff (a.y / 100) (b.y / 100)
/-- The cycles of the way between two cores by plain hops (R369). DESIGN CHOICE (log 142): the vectors of a COLL take no express hop. -/
def meshTransit (a b : Coord) : Nat := 2 * (absDiff a.x b.x + absDiff a.y b.y) + 6 * dieEdges a b

/-- The number o = 2c + h of a core's octet (R9, R326). -/
def octetOf (c : Coord) : Nat := 2 * clusterOf c + (if c.y % 4 < 2 then 0 else 1)
/-- The octet core index (R285). -/
def octetIndex (c : Coord) : Nat := 4 * (c.y % 2) + c.x % 4
/-- An octet that has done nothing. DESIGN CHOICE (log 128): its units begin with octet core index 0. -/
def Octet.empty (n : Nat) : Octet := { number := n, jobs := [], lastMatrix := 7, lastCopy := 7, copyTail := 0 }
def State.octet (n : Nat) (s : State) : Octet := (s.octets.find? fun o => o.number = n).getD (Octet.empty n)
def State.setOctet (o : Octet) (s : State) : State :=
  { s with octets := if s.octets.any fun x => x.number == o.number then s.octets.map fun x => if x.number = o.number then o else x
                     else s.octets ++ [o] }
/-- The engine writer identity of an octet (R326). -/
def engineKey (device o : Nat) : WriterKey := BitVec.ofNat 41 (2 ^ 40 + device * 2 ^ 28 + o * 2 ^ 8)
/-- The core of a named owner, as a job of the core at `c` finds it: a group's own name is itself (R357). -/
def State.ownerCore (c : Coord) (n : Name) (s : State) : Option Core :=
  match s.coreAt c with
  | some x => if !x.vacant && x.grp.name == n then some x else s.holder n
  | none => s.holder n
/-- Change the group of a core. -/
def State.mapOwn (c : Coord) (f : Group → Group) (s : State) : State := s.mapAt c fun x => { x with grp := f x.grp }
/-- The core of an owner that is resident in the cluster of `c` and not sealed (R297, R301, R311). -/
def State.owner? (c : Coord) (n : Name) (s : State) : Option Core :=
  match s.ownerCore c n with
  | some x => if clusterOf x.at_ = clusterOf c ∧ !x.grp.sealed then some x else none
  | none => none
/-- A named owner is about to leave its core, past the freeze of a swap: a job that named it now would not keep it (R217, R310). -/
def State.leaving (c : Coord) (n : Name) (s : State) : Bool :=
  match (s.ownerCore c n).bind (·.swap) with
  | some w => w.stage == .frozen || w.stage == .drained
  | none => false
/-- The range of an operand: from its base to the end of its last row (R295). -/
def Operand.lo (o : Operand) : Nat := o.base
def Operand.hi (o : Operand) : Nat := o.base + (o.rows - 1) * o.stride + o.width
/-- The words of a range (R296). -/
def wordsOf (lo hi : Nat) : List Nat := (upTo ((hi + 7) / 8 - lo / 8)).map fun i => lo / 8 + i
/-- Lend a range of the owner's well to a job; identical ranges share one of the 16 places (R295). -/
def Group.lend (lo hi : Nat) (j : Name × Nat) (g : Group) : Option Group :=
  if g.lent.any fun r => r.lo == lo && r.hi == hi then
    some { g with lent := g.lent.map fun r => if r.lo = lo ∧ r.hi = hi then { r with jobs := r.jobs ++ [j] } else r }
  else if g.lent.length < Config.lentRanges then some { g with lent := g.lent ++ [{ lo := lo, hi := hi, jobs := [j] }] }
  else none
/-- Lend an operand at its owner, if there is a place. -/
def State.lendOperand (at_ : Coord) (j : Name × Nat) (o : Operand) (s : State) : Option State :=
  match s.ownerCore at_ o.owner with
  | none => none
  | some c => (c.grp.lend o.lo o.hi j).map fun g => s.mapOwn c.at_ fun _ => g
def State.lendBoth (at_ : Coord) (j : Name × Nat) (x : StepJob) (s : State) : Option State :=
  (s.lendOperand at_ j x.a).bind (State.lendOperand at_ j x.b)

/-! ## Batches and status records (R286, R307, R308) -/

/-- Rows stay busy while a batch that targets them is open or in flight (R294). -/
def Group.recountBusy (g : Group) : Group :=
  let rows (ps : List JobPart) : BitVec 32 := ps.foldl (fun b p => b ||| p.rows) 0
  { g with busy := (g.records.filter fun r => r.batch && r.state != 3).foldl (fun b r => b ||| rows r.parts) (rows g.openJobs) }
/-- The newest `n` members of a list that satisfy `p` stay, with all that do not. -/
def keepLast (p : JobRecord → Bool) (n : Nat) (l : List JobRecord) : List JobRecord :=
  (l.foldr (fun r (acc : Nat × List JobRecord) =>
    if p r then (acc.1 + 1, if acc.1 < n then r :: acc.2 else acc.2) else (acc.1, r :: acc.2)) (0, [])).2
/-- Sixteen completed jobs and sixteen completed batches keep their records (R307). -/
def prune (l : List JobRecord) : List JobRecord :=
  keepLast (fun r => r.batch && r.state == 3) 16 (keepLast (fun r => !r.batch && r.state == 3) 16 l)
/-- Close every batch whose jobs have all completed: its record becomes the newest, its rows are free again. -/
def Group.closeBatches (g : Group) : Group :=
  let done (r : JobRecord) : Bool := r.batch && r.state != 3 && r.parts.all (·.done)
  { g with records := prune (g.records.filter (fun r => !done r) ++ (g.records.filter done).map fun (r : JobRecord) => { r with state := 3 }) }
    |>.recountBusy
/-- The jobs of the batches that complete now. -/
def Group.closing (g : Group) : List Nat :=
  ((g.records.filter fun r => r.batch && r.state != 3 && r.parts.all (·.done)).flatMap (·.parts)).map (·.serial)
/-- Batches of the group that are done complete: rows, lent ranges, and the event of R107 (R286, R294, R295). -/
def State.completeBatches (c : Coord) (s : State) : State :=
  match (s.coreAt c).map (·.grp) with
  | none => s
  | some g =>
    let l := g.closing
    if l.isEmpty then s
    else
      ((s.mapGroups (Group.unlend fun j => j.1 == g.name && l.contains j.2)).mapOwn c Group.closeBatches).mapOwn c
        (·.mapSlots fun _ sl => sl.notify)
/-- The empty batch, which 0x100 names: complete at all times (R313). -/
def JobRecord.emptyBatch : JobRecord := { batch := true, id := 0, state := 3, kind := 6, deliv := 0, parts := [] }
/-- The record that an id word names: one in flight before a completed one, and of those the latest (R307). -/
def Group.record? (g : Group) (batch : Bool) (id : BitVec 8) : Option JobRecord :=
  if batch && id == 0 then some JobRecord.emptyBatch else
  let mine := g.records.filter fun r => r.batch == batch && r.id == id
  (mine.find? fun r => r.state ≠ 3).orElse fun _ => mine.getLast?

/-! ## Enqueuing (R284) -/

/-- The octet's queue has a free entry. -/
def State.queueFree (s : State) : Bool := (s.octet (octetOf s.core.at_)).jobs.length < Config.jobQueue
/-- Job ids run from 1 to 255 and skip 0 (R284). -/
def nextId (i : BitVec 8) : BitVec 8 := if i = 255 then 1 else i + 1
def JobKind.code : JobKind → BitVec 3
  | .step _ => 0 | .tzero _ => 1 | .dtload _ => 2 | .copy j => if j.two then 4 else 3 | .coll _ => 5
/-- A job of the issuing core enters the queue: its id is the group's next, its target rows become busy, and JOBSTAT counts
it (R284, R286, R294, R307). -/
def State.enqueue (kind : JobKind) (rows : BitVec 32) (s : State) : State :=
  let g := s.grp
  let id := g.nextJob
  let o := s.octet (octetOf s.core.at_)
  let job : Job := { owner := g.name, at_ := s.core.at_, id := id, serial := g.jobSerial, running := false, error := 0, kind := kind }
  let part : JobPart := { id := id, serial := g.jobSerial, rows := rows, done := false, error := 0, publish := none }
  let record : JobRecord := { batch := false, id := id, state := 1, kind := kind.code, deliv := 0, parts := [part] }
  (s.setOctet { o with jobs := o.jobs ++ [job] }).mapGrp fun g =>
    { g with nextJob := nextId id, jobSerial := g.jobSerial + 1, jobLast := id, jobQueued := g.jobQueued + 1,
             jobOpen := min 255 (g.jobOpen + 1), openJobs := g.openJobs ++ [part], records := g.records ++ [record],
             busy := g.busy ||| rows }
/-- An earlier load is still to write one of the rows of a mask (R25, R288). -/
def State.rowPending (rows : BitVec 32) (s : State) : Bool :=
  s.core.tags.any fun t => match t.dest with | .v v => rows.getLsbD v.toNat | .g _ => false
/-- Wait for a free entry and for earlier writers of the rows, enqueue, and deliver the id. -/
def State.enqueueWith (kind : JobKind) (rows : BitVec 32) (d : GReg) (s : State) : State :=
  if !s.queueFree || s.rowPending rows then s.stall
  else (s.enqueue kind rows).result d (s.grp.nextJob.setWidth 64)

/-! ## MSTEP (R288 to R291, R310, R311) -/

/-- The bytes of an element (R287, R289): codes of R27. -/
def elemBytes (fmt : BitVec 4) : Nat := match fmt.toNat with | 0 => 4 | 1 => 2 | 2 => 2 | _ => 1
def accWidth (t : AccType) : Nat := match t with | .f32 => 32 | .i32 => 32 | _ => 16
/-- The rule of R290. -/
def Group.typesOk (g : Group) : Bool :=
  if g.fmta = 5 ∨ g.fmtb = 5 then
    g.fmta = 5 && g.fmtb = 5 && g.tilecfg == .i32 && !g.scla.getLsbD 16 && !g.sclb.getLsbD 16
  else g.tilecfg != .i32
/-- The end of the area that an operand starting at `lo` may fill (R297): the area between the mailbox and the log carve-out, or the
spill carve-out; an operand that starts in neither fills nothing. -/
def Group.operandEnd (g : Group) (lo : Nat) : Nat :=
  let stop := if g.logCarve.2 = 0 then 0x8000 - g.spill else g.logCarve.1
  if 0x800 + 160 * g.mbox.length ≤ lo ∧ lo < stop then stop
  else if 0x8000 - g.spill ≤ lo ∧ lo < 0x8000 then 0x8000
  else lo
/-- CheckOperand (R311), of the bytes from lo below hi: the whole range lies in one of the two areas (R297). -/
def checkOperand (owner : Option Core) (lo hi : Nat) : Failure :=
  if lo % 8 ≠ 0 then some (0x05, BitVec.ofNat 64 lo)
  else if 0x8000 < hi then some (0x04, BitVec.ofNat 64 (max lo 0x8000))
  else
    match owner with
    | none => none
    | some c => if c.grp.operandEnd lo < hi then some (0x06, BitVec.ofNat 64 (c.grp.operandEnd lo)) else none
/-- CheckScale (R311). -/
def Group.checkScale (g : Group) (sc : BitVec 17) (n : Nat) : Failure :=
  let a := (sc.setWidth 16).toNat
  if !sc.getLsbD 16 then none
  else if 0x8000 < a + n then some (0x04, BitVec.ofNat 64 (max a 0x8000))
  else ((upTo n).find? fun i => overlaps (a + i) 1 g.logCarve.1 g.logCarve.2).map fun i => (0x06, BitVec.ofNat 64 (a + i))
/-- The scale bytes that a step copies at its enqueue (R288). -/
def Group.scaleBytes (g : Group) (sc : BitVec 17) (n : Nat) : Option (List Byte) :=
  if sc.getLsbD 16 then some (g.well.readN (sc.setWidth 16).toNat n) else none
/-- The owner that a descriptor names (R310). -/
def State.descOwner (w : Word) (s : State) : Name := if w.getLsbD 63 then s.grp.name else w.setWidth 40
/-- The first failure of a list of checks. -/
def firstFailure : List Failure → Failure
  | [] => none
  | f :: rest => match f with | some x => some x | none => firstFailure rest
def failIf (b : Bool) (v : Word) : Failure := if b then some (0x03, v) else none
/-- The step that two descriptors ask for. -/
def State.stepJob (wf : Bool) (rows : StepRows) (wa wb : Word) (s : State) : StepJob :=
  let g := s.grp
  let k := bits wa.toNat 61 56 + 1
  let n := match rows with | .all => 32 | _ => 16
  let cols := 1024 / accWidth g.tilecfg
  { wf := wf, red := wb.getLsbD 61, row0 := (match rows with | .hi => 16 | _ => 0), rows := n, cols := cols, k := k,
    fmta := g.fmta, fmtb := g.fmtb, acc := g.tilecfg,
    a := { owner := s.descOwner wa, base := bits wa.toNat 55 40, stride := g.astride.toNat, width := k * elemBytes g.fmta, rows := n },
    b := { owner := s.descOwner wb, base := bits wb.toNat 55 40, stride := g.bstride.toNat, width := cols * elemBytes g.fmtb, rows := k },
    scla := g.scaleBytes g.scla n, sclb := g.scaleBytes g.sclb cols, lent := !wf, held := none }
/-- The rows that a step targets, as a mask. -/
def StepJob.mask (j : StepJob) : BitVec 32 := (BitVec.ofNat 32 (2 ^ j.rows - 1)) <<< j.row0
/-- The checks of R311, in their order. -/
def State.stepChecks (j : StepJob) (wa wb : Word) (s : State) : Failure :=
  let g := s.grp
  let oa := s.owner? s.core.at_ j.a.owner
  let ob := s.owner? s.core.at_ j.b.owner
  let badDesc (w : Word) : Bool := w.getLsbD 63 && w.extractLsb' 0 40 != 0
  firstFailure [
    failIf (badDesc wa) wa,
    failIf (badDesc wb || wb.extractLsb' 56 5 != 0) wb,
    failIf oa.isNone wa, failIf ob.isNone wb,
    failIf (!g.typesOk) (BitVec.ofNat 64 (g.fmta.toNat + g.fmtb.toNat * 16 + (match g.tilecfg with | .f32 => 0 | .i32 => 1 | .f16 => 2 | .b16 => 3) * 256)),
    checkOperand oa j.a.lo j.a.hi, checkOperand ob j.b.lo j.b.hi,
    g.checkScale g.scla j.rows, g.checkScale g.sclb j.cols]
/-- MSTEP (R311). -/
def execMstep (wf : Bool) (rows : StepRows) (d a b : GReg) (s : State) : Result :=
  let wa := s.getG a
  let wb := s.getG b
  let j := s.stepJob wf rows wa wb
  .next (s.check (s.stepChecks j wa wb) fun s =>
    -- a job can name an owner that a swap moves only when the swap is over (R310)
    if s.leaving s.core.at_ j.a.owner || s.leaving s.core.at_ j.b.owner then s.stall
    else if wf then s.enqueueWith (.step j) j.mask d
    else if !s.queueFree || s.rowPending j.mask then s.stall
    else
      match s.lendBoth s.core.at_ (s.grp.name, s.grp.jobSerial) j with
      | none => s.stall
      | some t => t.enqueueWith (.step j) j.mask d)

/-! ## MCOMMIT, JWAIT, JPOLL (R313 to R315) -/

/-- MCOMMIT (R313). -/
def execMcommit (d : GReg) (s : State) : Result :=
  .next (match s.grp.openJobs.getLast? with
    | none => s.result d 0x100
    | some p =>
      let record : JobRecord := { batch := true, id := p.id, state := 2, kind := 6, deliv := 0, parts := s.grp.openJobs }
      let t := s.mapGrp fun g => { g with jobOpen := 0, openJobs := [], records := g.records ++ [record] }
      (t.completeBatches s.core.at_).result d (BitVec.ofNat 64 (0x100 + p.id.toNat)))
/-- An id word with a reserved bit set, or job 0 (R307). -/
def badId (w : Word) : Bool := w.extractLsb' 9 55 != 0 || w == 0
/-- The errors of R309 that JWAIT traps on. -/
def trapsAtJwait (e : Nat) : Bool := [1, 2, 3, 5, 6].contains e
/-- JWAIT (R314). -/
def execJwait (a : GReg) (s : State) : Result :=
  let w := s.getG a
  .next (if badId w then s.illegal w
    else
      match s.grp.record? (w.getLsbD 8) (w.setWidth 8) with
      | none => s.finishNow
      | some r =>
        if r.state ≠ 3 then s.stall
        else
          let t := (r.parts.filterMap (·.publish)).foldl (fun s x => State.acquire x.1 x.2 s) s
          if trapsAtJwait (bits r.word.toNat 15 12) then t.takeTrap s.k 0x0C (s.slot.pc + 1) r.word else t.finishNow)
/-- JPOLL (R315). -/
def execJpoll (d a : GReg) (s : State) : Result :=
  let w := s.getG a
  .next (if badId w then s.illegal w
    else
      s.result d (match s.grp.record? (w.getLsbD 8) (w.setWidth 8) with
        | some r => r.word
        | none => BitVec.ofNat 64 (bits w.toNat 7 0 * 2 ^ 16)))

/-! ## The tile, the decode table and delayed scaling (R316 to R322) -/

/-- TCFG (R316). -/
def execTcfg (t : AccType) (s : State) : Result :=
  .next (if s.grp.busy ≠ 0 then s.trap 0x0B 0 else (s.mapGrp fun g => { g with tilecfg := t }).finish)
/-- TREL (R317): held rows stay held. -/
def execTrel (s : State) : Result :=
  .next (if s.grp.busy ≠ 0 then s.trap 0x0B 0
    else if s.rowPending (BitVec.allOnes 32) then s.stall
    else (s.mapGrp fun g => { g with tile := Vector.replicate 32 0, tilecfg := .f32 }).finish)
/-- TZERO (R318). -/
def execTzero (a : GReg) (s : State) : Result :=
  let w := s.getG a
  let rows : BitVec 32 := w.setWidth 32
  .next (if w.extractLsb' 32 32 ≠ 0 then s.illegal w
    else if w = 0 then s.finish
    else s.enqueueWith (.tzero rows) rows 0)
/-- DTLOAD (R319): bits [18:0] of each word. -/
def execDtload (a : GReg) (s : State) : Result :=
  let w := s.getG a
  .next (s.check (s.grp.checkLocal false w.toNat 1024 8 w) fun s =>
    s.enqueueWith (.dtload ((upTo 256).map fun i => BitVec.ofNat 19 (leNat (s.localBytes (w.toNat + 4 * i) 4)))) 0 0)
/-- AMPUSH (R321). -/
def execAmpush (n : BitVec 2) (s : State) : Result :=
  .next (s.mapGrp fun g =>
    let l := g.rings.get n.toFin ++ [g.amax.get n.toFin]
    { g with rings := g.rings.set n.toNat (l.drop (l.length - 16)) n.isLt, amax := g.amax.set n.toNat 0 n.isLt }).finish
/-- The least integer e with m <= f * 2^e, both positive and finite (R322). -/
def leastExponent (m f : FVal) : Int :=
  match m, f with
  | .num _ mm em, .num _ mf ef =>
    let e : Int := (Nat.log2 mm : Int) + em - ((Nat.log2 mf : Int) + ef)
    if m.cmp (.num false mf (ef + e)) = .gt then e + 1 else e
  | _, _ => 0
/-- The scale byte of R322. -/
def scaleByte (m f : FVal) : Nat :=
  let e : Int := if m.isZero then 0 else match m with | .inf _ => 127 | _ => leastExponent m f
  (min (max (127 + e) 0) 254).toNat
/-- AMSCALE (R322): the bits of the magnitudes order as their values do. -/
def execAmscale (fmt : QFmt) (d : GReg) (n : BitVec 2) (s : State) : Result :=
  .next (s.whenTable (fmt == .d8) fun s =>
    s.check (if fmt = .d8 then s.tableFault else none) fun s =>
      let top := (s.grp.rings.get n.toFin).foldl (fun (a b : BitVec 32) => if a.ult b then b else a) (s.grp.amax.get n.toFin)
      let f : FVal := match fmt with | .e4 => .num false 448 0 | .e5 => .num false 57344 0 | .d8 => s.grp.entryVal 0x7F
      s.result d (BitVec.ofNat 64 (scaleByte (Fmt.f32.unpack top.toNat) f)))

/-! ## CPY and CPY2 (R323 to R325) -/

/-- A copy block (R324). -/
structure CopyBlock where
  rows : Nat
  width : Nat
  sstride : Nat
  dstride : Nat
  ndest : Nat
  mode : Nat
  reserved : Nat
  deriving DecidableEq, Repr
def State.copyBlock (a : Nat) (s : State) : CopyBlock :=
  let f (off n : Nat) : Nat := leNat (s.localBytes (a + off) n)
  ⟨f 0 4, f 4 4, f 8 4, f 12 4, f 16 1, f 17 1, f 18 6⟩
/-- The limits of R324. -/
def CopyBlock.ok (b : CopyBlock) (two : Bool) : Bool :=
  (if two then 1 ≤ b.rows && b.rows ≤ 65535 && b.sstride % 8 == 0 && b.dstride % 8 == 0 && b.width ≤ b.dstride
   else b.rows == 0 && b.sstride == 0 && b.dstride == 0) &&
  8 ≤ b.width && b.width ≤ 2 ^ 24 && b.width % 8 == 0 && 1 ≤ b.ndest && b.ndest ≤ 8 && b.mode ≤ 1 && b.reserved == 0
/-- The failure of endpoint word w among the destinations before it (R325 step 3). DESIGN CHOICE (log 140): a shared destination with ndest
above 1 fails here, and not in step 2. -/
def State.endpointBad (b : CopyBlock) (isDest : Bool) (first : Word) (before : List Word) (w : Word) (s : State) : Bool :=
  let owner := if w.getLsbD 62 then s.grp.name else w.setWidth 40
  w.extractLsb' 56 6 != 0 ||
  (if w.getLsbD 63 then
    w.getLsbD 62 || w.extractLsb' 48 8 != 0 || (isDest && (b.ndest ≠ 1 || b.mode = 1))
   else
    (w.getLsbD 62 && w.extractLsb' 0 40 != 0) || (s.owner? s.core.at_ owner).isNone ||
    (isDest && before.any fun x => !x.getLsbD 63 && (if x.getLsbD 62 then s.grp.name else x.setWidth 40) == owner)) ||
  (isDest && first.getLsbD 63 != w.getLsbD 63)
def State.endpointFault (b : CopyBlock) (first : Word) (s : State) : List Word → List Word → Failure
  | _, [] => none
  | before, w :: rest =>
    if s.endpointBad b true first before w then some (0x03, w) else State.endpointFault b first s (before ++ [w]) rest
/-- The well range of an endpoint. -/
def State.endpointRange (w : Word) (rows stride width : Nat) (s : State) : Failure :=
  if w.getLsbD 63 then none
  else
    let lo := bits w.toNat 55 40
    checkOperand (s.owner? s.core.at_ (if w.getLsbD 62 then s.grp.name else w.setWidth 40)) lo (lo + (rows - 1) * stride + width)
/-- The addresses of the words of a range, row by row. -/
def wordAddrs (a rows stride width : Nat) : List Nat :=
  (upTo rows).flatMap fun r => (upTo (width / 8)).map fun o => a + r * stride + 8 * o
/-- Translate the words of a shared range of a copy in ascending order (R246, R325 step 5), each with what it needs; each makes its entry the
most recently used (R244). A trap is taken; otherwise the addresses found, latest first, and the address of a page that the TLB lacks. -/
def State.translateWords (s : State) (acc : List Nat) : List (Nat × Need) → State ⊕ (State × List Nat × Option Nat)
  | [] => .inr (s, acc, none)
  | (a, need) :: rest =>
    if a % 8 ≠ 0 then .inl (s.trap 0x05 (BitVec.ofNat 64 a))
    else
      match s.core.translate need a 8 with
      | .trap c x => .inl (s.trap c (BitVec.ofNat 64 x))
      | .miss x => .inr (s, acc, some x)
      | .ok ps => State.translateWords (s.mapCore (Core.translated s.k a 8)) ((ps.map (·.1)).headD 0 :: acc) rest
/-- CheckShared of one shared range of a copy (R273): all its bytes are translated before a reserved range is looked for (R235). `found`
holds what was found before, latest first. -/
def State.checkRange (need : Need) (words found : List Nat) (s : State) : State ⊕ (State × List Nat × Option Nat) :=
  match s.translateWords found ((words.drop found.length).map fun a => (a, need)) with
  | .inl t => .inl t
  | .inr (t, ps, some m) => .inr (t, ps, some m)
  | .inr (t, ps, none) =>
    match (words.zip ps.reverse).find? fun e => t.unreachable e.2 with
    | some e => .inl (t.trap 0x08 (BitVec.ofNat 64 e.1))
    | none => .inr (t, ps, none)
/-- The same of a copy's source and then of its destination, with what both have found, latest first. -/
def State.checkRanges (source dest found : List Nat) (s : State) : State ⊕ (State × List Nat × Option Nat) :=
  let old := found.reverse
  match s.checkRange ⟨true, false⟩ source (old.take source.length).reverse with
  | .inl t => .inl t
  | .inr (t, ps, some m) => .inr (t, ps, some m)
  | .inr (t, ps, none) =>
    match t.checkRange ⟨false, true⟩ dest (old.drop source.length).reverse with
    | .inl t => .inl t
    | .inr (t, qs, miss) => .inr (t, qs ++ ps, miss)
/-- The words of an endpoint in shared memory, by their virtual addresses. -/
def sharedWords (w : Word) (rows stride width : Nat) : List Nat := if w.getLsbD 63 then wordAddrs (bits w.toNat 47 0) rows stride width else []
/-- The endpoint of a checked word. -/
def State.endpoint (w : Word) (found : List Nat) (s : State) : Endpoint :=
  if w.getLsbD 63 then .shared found else .well (if w.getLsbD 62 then s.grp.name else w.setWidth 40) (bits w.toNat 55 40)
/-- The words that a copy of these operands has translated before (R247). -/
def Slot.translatedFor (ops : List Nat) (sl : Slot) : List Nat :=
  match sl.progress with | .translating o f => if o = ops then f else [] | _ => []
/-- The owners of a copy's wells. -/
def State.endpointOwners (ws : List Word) (s : State) : List Name :=
  (ws.filter fun w => !w.getLsbD 63).map fun w => if w.getLsbD 62 then s.grp.name else w.setWidth 40
/-- CPY and CPY2 (R325): the checks in their order, with a miss of the translation service for each page that the TLB lacks (R247), the
wait for an entry, and the job. -/
def State.copyOp (two : Bool) (d a b : GReg) (s : State) : State :=
  let src := s.getG a
  let x := s.getG b
  s.check (s.grp.checkLocal false x.toNat 24 8 x) fun s =>
    let blk := s.copyBlock x.toNat
    s.check (s.grp.checkLocal false x.toNat (24 + 8 * blk.ndest) 8 x) fun s =>
      let rows := if two then blk.rows else 1
      let ws := (upTo blk.ndest).map fun i => BitVec.ofNat 64 (leNat (s.localBytes (x.toNat + 24 + 8 * i) 8))
      let first := ws.headD 0
      s.check (firstFailure ([failIf (!blk.ok two) x, failIf (s.endpointBad blk false first [] src) src,
          s.endpointFault blk first [] ws, s.endpointRange src rows blk.sstride blk.width] ++
          ws.map fun w => s.endpointRange w rows blk.dstride blk.width)) fun s =>
        let sw := sharedWords src rows blk.sstride blk.width
        let dw := sharedWords first rows blk.dstride blk.width
        let ops := [src.toNat, first.toNat, rows, blk.sstride, blk.dstride, blk.width]
        match s.checkRanges sw dw (s.slot.translatedFor ops) with
        | .inl t => t
        | .inr (t, found, miss) =>
          let t := if sw.isEmpty && dw.isEmpty then t else t.mapSlot fun sl => { sl with progress := .translating ops found }
          match miss with
          | some m => t.sendMiss m
          | none =>
            if (s.endpointOwners (src :: ws)).any fun n => s.leaving s.core.at_ n then t.stall
            else
              let ps := found.reverse
              let dests := if first.getLsbD 63 then [s.endpoint first (ps.drop sw.length)] else ws.map fun w => s.endpoint w []
              let j : CopyJob :=
                { two := two, rows := rows, width := blk.width, sstride := blk.sstride, dstride := blk.dstride,
                  fill := blk.mode = 1, src := s.endpoint src (ps.take sw.length), dests := dests, next := 0,
                  failed := dests.map fun _ => false, tail := 0 }
              t.enqueueWith (.copy j) 0 d
/-- CPY (R325). -/
def execCpy (d a b : GReg) (s : State) : Result := .next (s.copyOp false d a b)
/-- CPY2 (R325). -/
def execCpy2 (d a b : GReg) (s : State) : Result := .next (s.copyOp true d a b)

/-! ## COLL (R327) -/

def State.collBlock (a : Nat) (s : State) : CollBlock :=
  let f (off n : Nat) : Nat := leNat (s.localBytes (a + off) n)
  { op := f 0 1, fn := f 1 1, type := f 2 1, level := f 3 1, count := f 4 4, buf := f 8 2, res := f 10 2, tag := BitVec.ofNat 32 (f 12 4) }
/-- The bytes of an element of a collective. -/
def CollBlock.width (b : CollBlock) : Nat := if b.type = 1 ∨ b.type = 2 then 2 else 4
def CollBlock.bytes (b : CollBlock) : Nat := b.count * b.width
/-- The limits of R327; a level's domain is at most the device (codes 0 octet to 3 device), and the result's place counts only
where the member receives one. -/
def State.collBlockOk (b : CollBlock) (receives : Bool) (s : State) : Bool :=
  let level := if b.level = 0 ∨ 8 < b.level then none else (s.launch?.map (·.levels)).bind fun l => l[b.level - 1]?
  b.op ≤ 2 && b.fn ≤ 2 && (b.op != 2 || b.fn == 0) && b.type ≤ 3 && 1 ≤ b.count && b.count ≤ 8192 &&
    b.buf % 8 == 0 && (!receives || b.res % 8 == 0) && (match level with | some l => decide (l.domain ≤ 3) | none => false)
/-- The collectives that a group has issued at a level (log 16). -/
def Group.collsAt (level : Nat) (g : Group) : Nat := if h : level < 9 then g.collNo[level] else 0
def Group.countColl (level : Nat) (g : Group) : Group :=
  if h : level < 9 then { g with collNo := g.collNo.set level (g.collNo[level] + 1) h } else g
/-- COLL (R327). -/
def execColl (d a b : GReg) (s : State) : Result :=
  let x := s.getG a
  let w := s.getG b
  .next (s.check (s.grp.checkLocal false x.toNat 16 8 x) fun s =>
    let blk := s.collBlock x.toNat
    let p := (s.launch?.map fun l => l.unitSize blk.level).getD 1
    let parent := bits w.toNat 63 32
    let isRoot := parent == 0xFFFFFFFF
    let nchild := bits w.toNat 7 0
    let result := if blk.op = 1 then blk.bytes else if isRoot then (if blk.op = 2 then blk.bytes * p else blk.bytes) else 0
    s.check (firstFailure [
        failIf (!s.collBlockOk blk (blk.op == 1 || isRoot)) x,
        failIf (w.extractLsb' 16 16 != 0 || 15 < bits w.toNat 15 8 || 16 < nchild || (!isRoot && p ≤ parent)) w,
        checkOperand (some s.core) blk.buf (blk.buf + blk.bytes),
        if result = 0 then none else checkOperand (some s.core) blk.res (blk.res + result)]) fun s =>
      let j : CollJob :=
        { block := blk, launch := s.grp.launch, unit := s.grp.ordinal / p, member := s.grp.ordinal % p,
          number := s.grp.collsAt blk.level + 1, parent := if isRoot then none else some parent, child := bits w.toNat 15 8, nchild := nchild,
          parts := [], sent := false, taken := false, result := none }
      if !s.queueFree then s.stall else (s.mapGrp (Group.countColl blk.level)).enqueueWith (.coll j) 0 d)

/-! ## Steps of the matrix engine (R291) -/

/-- The exact value of an element (R35, R45, R51). -/
def Group.elemVal (g : Group) (fmt : BitVec 4) (x : Nat) : FVal :=
  match fmt.toNat with
  | 0 => Fmt.f32.unpack x
  | 1 => Fmt.f16.unpack x
  | 2 => Fmt.b16.unpack x
  | 3 => Fmt.e4.unpack x
  | 4 => Fmt.e5.unpack x
  | _ => g.entryVal x
/-- Times a scale byte (R36, R291). -/
def FVal.scaleBy (sc : Option (List Byte)) (i : Nat) (v : FVal) : FVal :=
  match sc with
  | none => v
  | some l =>
    let e := (l[i]?.getD 127).toNat
    if e = 255 then .nan false
    else match v with | .num n m x => .num n m (x + e - 127) | v => v
/-- The elements of an operand row. -/
def elements (fmt : BitVec 4) (row : List Byte) : List Nat :=
  (upTo (row.length / elemBytes fmt)).map fun i => leNat ((row.drop (i * elemBytes fmt)).take (elemBytes fmt))
/-- The rows of an operand as they stand. -/
def Operand.rowsIn (o : Operand) (well : Memory) : List (List Byte) := (upTo o.rows).map fun r => well.readN (o.base + r * o.stride) o.width
def accFmt : AccType → Fmt | .f16 => .f16 | .b16 => .b16 | _ => .f32
/-- One element: K products added in ascending k, each sum rounded once (R291, R292). -/
def stepElement (acc : AccType) (as bs : List (FVal × Int)) (c : Nat) : Nat :=
  (as.zip bs).foldl (fun c p =>
    match acc with
    | .i32 => ((BitVec.ofNat 32 c).toInt + p.1.2 * p.2.2) % (2 ^ 32 : Int) |>.toNat
    | _ => ((accFmt acc).fma .rne p.1.1 p.2.1 ((accFmt acc).unpack c)).bits) c
/-- An operand row r as values, with the scale of element i. -/
def Group.operandVals (g : Group) (fmt : BitVec 4) (row : List Byte) (scale : Nat → FVal → FVal) : List (FVal × Int) :=
  let xs := elements fmt row
  (upTo xs.length).map fun i =>
    let x := xs[i]?.getD 0
    (if fmt = 5 then .num false 0 0 else scale i (g.elemVal fmt x), laneInt 8 x)
/-- The tile after a step. -/
def StepJob.run (j : StepJob) (arows brows : List (List Byte)) (g : Group) : Group :=
  let w := accWidth j.acc
  let bv := brows.map fun row => g.operandVals j.fmtb row (fun c v => v.scaleBy j.sclb c)
  (upTo j.rows).foldl (fun g' r =>
    let av := g.operandVals j.fmta (arows[r]?.getD []) (fun _ v => v.scaleBy j.scla r)
    let v : VReg := BitVec.ofNat 5 (j.row0 + r)
    let old := g.row v
    let row := (upTo j.cols).map fun c => stepElement j.acc av (bv.map fun b => b[c]?.getD (.num false 0 0, 0)) (lane w old c)
    g'.setRow v (rowOfLanes w row)) g

/-! ## Starting jobs (R285, R295, R296, R298) -/

def JobKind.onUnit (u : JobUnit) : JobKind → Bool
  | .step _ => u == .matrix | .tzero _ => u == .matrix | .dtload _ => u == .matrix
  | .copy _ => u == .copy | .coll _ => u == .copy
def JobKind.isColl : JobKind → Bool | .coll _ => true | _ => false
/-- Both operand owners can still be read (R309). -/
def State.ownersOk (c : Coord) (j : StepJob) (s : State) : Bool := (s.owner? c j.a.owner).isSome && (s.owner? c j.b.owner).isSome
/-- Every word of both operand ranges is full (R296). -/
def State.operandsFull (at_ : Coord) (j : StepJob) (s : State) : Bool :=
  [j.a, j.b].all fun o =>
    match s.ownerCore at_ o.owner with
    | some c => (wordsOf o.lo o.hi).all c.grp.isFull
    | none => false
/-- The collective that a part belongs to. -/
def CollJob.coll (x : CollJob) : CollId := ⟨x.launch, x.block.level, x.unit, x.number⟩
def CollVector.coll (v : CollVector) : CollId := ⟨v.launch, v.block.level, v.unit, v.number⟩
def Job.coll? (j : Job) : Option CollJob := match j.kind with | .coll x => some x | _ => none
/-- An earlier collective over the same unit. -/
def CollId.before (c d : CollId) : Bool := c.launch == d.launch && c.level == d.level && c.unit == d.unit && decide (c.number < d.number)
/-- A member on this core, sealed or ended no more than others wait for it, has not issued the collective before this one (R303, R328). -/
def State.behindIn (x : CollJob) (s : State) (c : Core) : Bool :=
  let p := ((s.launches.find? fun l => l.id = x.launch).map fun l => l.unitSize x.block.level).getD 1
  !c.vacant && c.grp.launch == x.launch && !c.grp.sealed && !c.grp.ended && c.grp.ordinal / p == x.unit &&
    decide (c.grp.collsAt x.block.level + 1 < x.number)
/-- A part may run beside those that run if they are other members' parts of the same collective; and an earlier collective over its unit
comes first in the octet: no part of one is queued there, and no member of the octet is behind (R285, R303; log 16). -/
def State.joins (o : Octet) (x : CollJob) (s : State) : Bool :=
  (o.jobs.all fun y => !y.running || match y.coll? with | some z => z.coll == x.coll | none => true) &&
    !(o.jobs.any fun y => match y.coll? with | some z => z.coll.before x.coll | none => false) &&
    !(s.cores.any fun c => octetOf c.at_ == o.number && s.behindIn x c)
/-- A matrix job that the group enqueued earlier stands under another core, of this octet or another, where a swap has left it (R293,
R320). -/
def State.matrixElsewhere (j : Job) (s : State) : Bool :=
  s.octets.any fun x => x.jobs.any fun y =>
    y.owner == j.owner && y.now == j.now && y.at_ != j.at_ && y.kind.onUnit .matrix && decide (y.serial < j.serial)
/-- The job can start: a .wf step needs its words full and places to lend them, unless it has lost an owner (R285, R295, R296,
R309), and a matrix job its core's earlier ones (R293, R320); while a collective runs, only other members' parts of it join it (R285, R303;
log 16). -/
def State.startable (o : Octet) (j : Job) (s : State) : Bool :=
  match j.kind with
  | .step x => !s.matrixElsewhere j &&
      (j.error != 0 || !x.wf || !s.ownersOk j.at_ x || (s.operandsFull j.at_ x && (s.lendBoth j.at_ (j.owner, j.serial) x).isSome))
  | .copy _ => !o.jobs.any fun y => y.running && y.kind.isColl
  | .coll x => s.joins o x
  | _ => !s.matrixElsewhere j
/-- The core that the unit serves next, and its job: the first in cyclic order whose oldest queued job can start (R285). -/
def State.pick (u : JobUnit) (o : Octet) (s : State) : Option Job :=
  let last := match u with | .matrix => o.lastMatrix | .copy => o.lastCopy
  (upTo 8).findSome? fun i =>
    let ix := (last + 1 + i) % 8
    match o.jobs.find? (fun j => !j.running && j.kind.onUnit u && octetIndex j.at_ == ix) with
    | some j => if s.startable o j then some j else none
    | none => none
/-- A unit is busy with a job of its own; a collective's parts in one octet are one job of its copy unit, which `startable` lets
others join (R285, R303; log 16). -/
def Octet.unitBusy (u : JobUnit) (o : Octet) : Bool := o.jobs.any fun j => j.running && j.kind.onUnit u && !j.kind.isColl
/-- Change a job of an octet. -/
def State.mapJob (o : Nat) (n : Name) (serial : Nat) (f : Job → Job) (s : State) : State :=
  let x := s.octet o
  s.setOctet { x with jobs := x.jobs.map fun j => if j.owner = n ∧ j.serial = serial then f j else j }
/-- The state of a job's record becomes running. -/
def Group.markRunning (serial : Nat) (g : Group) : Group :=
  { g with records := g.records.map fun r => if !r.batch && r.parts.any (fun p => p.serial == serial) then { r with state := 2 } else r }
/-- A redundant step copies its operands at its start and ends the lending at once (R298). -/
def State.hold (j : Job) (x : StepJob) (s : State) : State × StepJob :=
  match s.ownerCore j.at_ x.a.owner, s.ownerCore j.at_ x.b.owner with
  | some ca, some cb =>
    (s.mapGroups (Group.unlend fun y => y == (j.owner, j.serial)),
      { x with held := some (x.a.rowsIn ca.grp.well, x.b.rowsIn cb.grp.well) })
  | _, _ => (s, x)
/-- What starting a step does: lend under .wf, and copy for redundancy; error 3 when an owner is sealed or gone. -/
def State.startStep (j : Job) (x : StepJob) (s : State) : State × Job :=
  if j.error ≠ 0 then (s, j)
  else if !s.ownersOk j.at_ x then (if x.wf || x.red then (s, { j with error := 3 }) else (s, j))
  else
    let r : State × StepJob :=
      if x.wf then (match s.lendBoth j.at_ (j.owner, j.serial) x with | some t => (t, { x with lent := true }) | none => (s, x)) else (s, x)
    let r := if x.red then r.1.hold j r.2 else r
    (r.1, { j with kind := .step r.2 })
/-- The vector of a member, its own combined with its children's in ascending child index (R303). -/
def combine (b : CollBlock) (x y : List Byte) : List Byte :=
  (upTo b.count).flatMap fun i =>
    let e (l : List Byte) : Nat := leNat ((l.drop (i * b.width)).take b.width)
    let F : Fmt := match b.type with | 1 => .f16 | 2 => .b16 | _ => .f32
    let p := e x
    let q := e y
    let si (v : Nat) : Int := laneInt 32 v
    leBytes b.width (
      if b.type = 3 then
        (match b.fn with | 0 => (p + q) % 2 ^ 32 | 1 => (if si p < si q then q else p) | _ => (if si q < si p then q else p))
      else
        (match b.fn with
        | 0 => (F.add .rne (F.unpack p) (F.unpack q)).bits
        | 1 => (F.minMax true p q).bits
        | _ => (F.minMax false p q).bits))
/-- The children's vectors in ascending child index. -/
def CollJob.ordered (j : CollJob) : List CollPart := (upTo 16).filterMap fun i => j.parts.find? fun p => p.child == i
/-- What a member passes on, once every child has come in: the members it stands for, and the vectors. -/
def CollJob.vectors (j : CollJob) (own : List Byte) : List Nat × List (Nat × List Byte) :=
  let ps := j.ordered
  (j.member :: ps.flatMap (·.members),
    if j.block.op = 2 then (j.member, own) :: ps.flatMap (·.vectors)
    else [(j.member, (ps.flatMap (·.vectors)).foldl (fun r v => combine j.block r v.2) own)])
/-- The bytes that go into the root's result area: the combined vector, or the members' in ascending ordinal (R303). DESIGN CHOICE (log
130): of a tree without every member, those of the first members, one after another. -/
def CollJob.rootResult (j : CollJob) (vs : List (Nat × List Byte)) : List Byte :=
  if j.block.op = 2 then
    (upTo (vs.length)).flatMap fun m => ((vs.find? fun v => v.1 = m).map (·.2)).getD []
  else (vs.head?.map (·.2)).getD []
/-- A collective's job goes on when all its children have come in: a member sends its vector to its parent, and the root
has its result. -/
def State.advanceColl (o : Nat) (j : Job) (x : CollJob) (s : State) : State :=
  if x.sent || x.parts.length < x.nchild then s
  else
    let own := ((s.coreAt j.now).map fun c => c.grp.well.readN x.block.buf x.block.bytes).getD []
    let v := x.vectors own
    match x.parent with
    | none => s.mapJob o j.owner j.serial fun j => { j with kind := .coll { x with sent := true, taken := true, result := some (x.rootResult v.2) } }
    | some p =>
      let c : CollVector :=
        { block := x.block, owner := j.owner, launch := x.launch, unit := x.unit, number := x.number, parent := p, member := x.member, child := x.child, members := v.1, vectors := v.2 }
      let s := s.mapJob o j.owner j.serial fun j => { j with kind := .coll { x with sent := true } }
      -- a secondary's copy goes nowhere (R357)
      if ((s.coreAt j.now).map fun c => c.grp.isSecondary).getD false then s else { s with collVectors := s.collVectors ++ [c] }
/-- The members of a collective's unit, by ordinal. -/
def State.collNames (x : CollJob) (s : State) : List (Nat × Name) :=
  match s.launches.find? (fun l => l.id = x.launch) with
  | none => []
  | some l =>
    let p := l.unitSize x.block.level
    (upTo (min p (l.groups - x.unit * p))).map fun m => (m, BitVec.ofNat 40 (l.nameOf s.board.module (x.unit * p + m)))
def State.isSealed (n : Name) (s : State) : Bool := (s.dirEntry n).any (·.sealed)
/-- A member's part of a collective, while it is queued or runs. -/
def State.partOf (c : CollId) (member : Nat) (s : State) : Option CollJob :=
  s.octets.findSome? fun o => o.jobs.findSome? fun j =>
    j.coll?.bind fun x => if x.coll == c && x.member == member && j.error == 0 then some x else none
/-- The members with a part, whether queued or running. -/
def State.partsOf (x : CollJob) (s : State) : List CollJob := (s.collNames x).filterMap fun m => s.partOf x.coll m.1
/-- The members whose vectors the parts of a collective hold. -/
def State.receivedIn (x : CollJob) (s : State) : List Nat := (s.partsOf x).flatMap fun y => y.parts.flatMap (·.members)
/-- A member's part stands below `x`: its parent chain reaches it; a chain is no longer than the unit. -/
def State.below (x : CollJob) (s : State) : Nat → Nat → Bool
  | 0, _ => false
  | fuel + 1, m =>
    match s.partOf x.coll m with
    | some y => (match y.parent with | some p => p == x.member || State.below x s fuel p | none => false)
    | none => false
/-- The parts below `x` end with error code 6 (R328, R333), and their vectors on the way are dropped. -/
def State.failBelow (x : CollJob) (s : State) : State :=
  let falls (j : Job) : Option CollJob := j.coll?.bind fun y => if y.coll == x.coll && s.below x (s.collNames x).length y.member then some y else none
  let fallen := s.octets.flatMap fun o => o.jobs.filterMap falls
  { s with
    octets := s.octets.map fun o => { o with jobs := o.jobs.map fun j => if (falls j).isSome then { j with error := 6 } else j }
    collVectors := s.collVectors.filter fun v => !(v.coll == x.coll && fallen.any fun y => y.member == v.member)
    collFailures := s.collFailures ++ fallen.map fun y => { coll := y.coll, member := y.member, parent := y.parent, error := 6 } }
/-- A part of this collective that has ended with an error, of those that `p` selects. -/
def State.failedPart (c : CollId) (p : CollFailure → Bool) (s : State) : Bool := s.collFailures.any fun f => f.coll == c && p f
/-- A part ends with an error: those that have still to wait for it must know (R328). -/
def State.notePart (x : CollJob) (error : Nat) (s : State) : State :=
  { s with collFailures := s.collFailures ++ [{ coll := x.coll, member := x.member, parent := x.parent, error := error }] }
/-- A member's part starts. Where a mismatch has been found at its parent or above it ends with code 6, and so does every part below it
that came before (R328, R333). -/
def State.startColl (j : Job) (x : CollJob) (s : State) : State × Job :=
  if s.failedPart x.coll fun f => f.error == 6 && x.parent == some f.member then ((s.failBelow x).notePart x 6, { j with error := 6 })
  else (s, j)
/-- JOB_START (R285). -/
def execJobStart (u : JobUnit) (s : State) : Result :=
  let n := octetOf s.core.at_
  let o := s.octet n
  .next (if o.unitBusy u then s.stall
    else
      match s.pick u o with
      | none => s.stall
      | some j =>
        let s := s.setOctet (match u with
          | .matrix => { o with lastMatrix := octetIndex j.at_ }
          | .copy => { o with lastCopy := octetIndex j.at_ })
        let s := s.mapOwn j.now (Group.markRunning j.serial)
        let r : State × Job := match j.kind with | .step x => s.startStep j x | .coll x => s.startColl j x | _ => (s, j)
        let j' : Job := { r.2 with running := true }
        let s := r.1.mapJob n j.owner j.serial fun _ => j'
        match j'.kind with
        | .coll x => if j'.error = 0 then s.advanceColl n j' x else s
        | _ => s)

/-! ## Completing jobs (R286, R296, R309, R312) -/

/-- The cycles that a job occupies its unit, without the waits that add to them (R304, R330); a part of a collective counts the tree
edges to its children (log 100). -/
def JobKind.cycles : JobKind → Nat
  | .step x =>
    let d := match max (elemBytes x.fmta) (elemBytes x.fmtb) with | 4 => 64 | 2 => 256 | _ => 512
    (if x.red then 2 else 1) * ((x.rows * x.cols + d - 1) / d * x.k) + 22
  | .copy x => (8 * x.next + 63) / 64 + 16
  | .tzero m => (((upTo 32).filter m.getLsbD).length + 3) / 4 + 4
  | .dtload _ => 8
  | .coll x => x.edges
/-- With the waits that have added to them. -/
def Job.cycles (j : Job) : Nat := j.kind.cycles + j.waited
/-- The cycles of a running job's unit that `n` passing cycles add (R397): what is left is counted at its end. -/
def Job.due (n : Nat) (j : Job) : Nat := if j.running then min n (j.cycles - j.spent) else 0
/-- A job after n cycles, in which it waits or does not (R304). -/
def Job.pass (n : Nat) (waits : Bool) (j : Job) : Job :=
  if waits then { j with spent := j.spent + n, waited := j.waited + n } else { j with spent := j.spent + j.due n }
/-- The engine events that a job's end counts at its core (R401): the cycles that are still to be counted. -/
def State.countJob (j : Job) (error : Nat) (s : State) : State :=
  let s := match j.kind with | .step _ => s.count 0x030 1 none | _ => s
  (s.count 0x031 (j.cycles - j.spent) none).count 0x033 (if error = 0 then 0 else 1) none
/-- The bytes that a copy moves from word `a` up to word `b` are counted at its core, in units of 64 (R397, R401). -/
def State.countMoved (c : Coord) (a b : Nat) (s : State) : State :=
  if (s.coreAt c).isSome then s.atCore c (State.count 0x032 (8 * b / 64 - 8 * a / 64) none) else s
/-- A job leaves the queue with its outcome; its record becomes the newest completed one; it is an event, and its batch may
complete (R107, R286, R307). -/
def State.endJob (o : Nat) (j : Job) (error : Nat) (deliv : Nat) (publish : Option (WriterKey × BitVec 32)) (s : State) : State :=
  let x := s.octet o
  let s := s.setOctet { x with jobs := x.jobs.filter fun y => !(y.owner == j.owner && y.serial == j.serial) }
  let close (p : JobPart) : JobPart :=
    if p.serial = j.serial then { p with done := true, error := BitVec.ofNat 4 error, publish := publish } else p
  let s := s.mapOwn j.now fun g =>
    let mine (r : JobRecord) : Bool := !r.batch && r.parts.any fun p => p.serial == j.serial
    let rs := g.records.map fun r => { r with parts := r.parts.map close }
    { g with jobQueued := g.jobQueued - 1, openJobs := g.openJobs.map close
             records := prune (rs.filter (fun r => !mine r) ++ (rs.filter mine).map fun r => { r with state := 3, deliv := BitVec.ofNat 8 deliv }) }
  let s := if (s.coreAt j.now).isSome then s.atCore j.now (State.countJob j error) else s
  (s.mapOwn j.now (·.mapSlots fun _ sl => sl.notify)).completeBatches j.now
/-- The full/empty bits of a range change; where one does, it is an event for the group (R107). -/
def Group.setRange (lo hi : Nat) (full : Bool) (g : Group) : Group :=
  let g' := (wordsOf lo hi).foldl (fun g w => g.setFull w full) g
  if g'.fe = g.fe then g else g'.mapSlots fun _ sl => sl.notify
/-- A step ends: its rows are written, unless an owner is sealed or gone, or an error was found (R309, R312); under .wf its
operand words become empty (R296). -/
def State.endStep (o : Nat) (j : Job) (x : StepJob) (s : State) : State :=
  let emptied (s : State) : State :=
    if x.wf && x.lent then
      [x.a, x.b].foldl (fun s o =>
        match s.ownerCore j.at_ o.owner with
        | some c => s.mapOwn c.at_ (Group.setRange o.lo o.hi false)
        | none => s) s
    else s
  if j.error ≠ 0 then (emptied s).endJob o j j.error.toNat 0 none
  else
    let data : Option (List (List Byte) × List (List Byte)) :=
      match x.held with
      | some d => some d
      | none =>
        match s.owner? j.at_ x.a.owner, s.owner? j.at_ x.b.owner with
        | some ca, some cb => some (x.a.rowsIn ca.grp.well, x.b.rowsIn cb.grp.well)
        | _, _ => none
    match data with
    | none => (emptied s).endJob o j 3 0 none
    | some d =>
      let s := s.mapOwn j.now (x.run d.1 d.2)
      (emptied s).endJob o j (if x.red && Config.redundantMismatch s.ticks then 1 else 0) 0 none
/-- The words of a copy (R325). -/
def CopyJob.words (j : CopyJob) : Nat := j.rows * (j.width / 8)
def CopyJob.isShared (j : CopyJob) : Bool := j.dests.any fun d => match d with | .shared _ => true | _ => false
/-- The bytes of a well destination: from its base to the end of its last row. -/
def CopyJob.deliv (j : CopyJob) : Nat :=
  if j.isShared then 0 else (upTo j.failed.length).foldl (fun n i => if j.failed[i]?.getD true then n else n + 2 ^ i) 0
/-- A record of the octet's copy unit is still on its way (R302). -/
def State.unacked (k : WriterKey) (s : State) : Bool := s.records.any fun r => r.writer == k
/-- A copy ends when it has moved its last word and its last record is acknowledged, or has found an error (R302, R309); in that case it
publishes nothing: DESIGN CHOICE (log 129). -/
def State.endCopy (o : Nat) (j : Job) (x : CopyJob) (s : State) : State :=
  let key := engineKey s.board.module o
  if s.unacked key then s.stall
  else if j.error ≠ 0 then s.endJob o j j.error.toNat 0 none
  else if x.next < x.words then s.stall
  else s.endJob o j (if x.failed.any id then 4 else 0) x.deliv (if x.isShared then some (key, x.tail) else none)
/-- A member is sealed, or has been since this part was enqueued (R328). -/
def State.lostMember (x : CollJob) (m : Nat) (s : State) : Bool :=
  (s.collNames x).any fun e => e.1 == m && (s.isSealed e.2 || x.lost.contains e.2)
/-- The members that the parent chain of member m names. -/
def State.ancestors (x : CollJob) (s : State) : Nat → Nat → List Nat
  | 0, _ => []
  | fuel + 1, m =>
    match (s.partOf x.coll m).bind (·.parent) with
    | some p => p :: State.ancestors x s fuel p
    | none => []
/-- The members that have issued no part of the collective, and that may be children of member m. -/
def State.silent (x : CollJob) (m : Nat) (s : State) : List Nat :=
  let up := s.ancestors x (s.collNames x).length m
  ((s.collNames x).map (·.1)).filter fun k =>
    k != m && !up.contains k && (s.partOf x.coll k).isNone && !(s.receivedIn x).contains k && !s.failedPart x.coll fun f => f.member == k
/-- A part waits on a sealed member below it (R328): a child that has not come in is sealed, waits itself or has ended with code 5, or among
its children that have not issued there must be a sealed member, since the others are too few. -/
def State.waitsBelow (x : CollJob) (s : State) : Nat → CollJob → Bool
  | 0, _ => false
  | fuel + 1, y =>
    let known := (s.partsOf x).filter fun z => z.parent == some y.member && !y.parts.any fun p => p.child == z.child
    let quiet := s.silent x y.member
    known.any (fun z => s.lostMember x z.member || State.waitsBelow x s fuel z) ||
      (s.failedPart x.coll fun f => f.error == 5 && f.parent == some y.member) ||
      (quiet.any (fun k => s.lostMember x k) && decide ((quiet.filter fun k => !s.lostMember x k).length < y.nchild - y.parts.length - known.length))
/-- A part waits on a sealed member above it: its parent, while it has not taken the vector, or whose part has ended with code 5; under
all-reduce, whatever the members above it wait on (R328, R329). -/
def State.waitsAbove (x : CollJob) (s : State) : Nat → CollJob → Bool
  | 0, _ => false
  | fuel + 1, y =>
    match y.parent with
    | none => false
    | some p =>
      (!y.taken || x.block.op == 1) && (s.lostMember x p || s.failedPart x.coll fun f => f.error == 5 && f.member == p) ||
        (x.block.op == 1 && match s.partOf x.coll p with
          | some z => s.waitsBelow x (s.collNames x).length z || State.waitsAbove x s fuel z
          | none => false)
/-- The member waits on one whose name is sealed (R328). -/
def State.waitsOnSealed (x : CollJob) (s : State) : Bool :=
  let n := (s.collNames x).length
  x.result.isNone && (s.waitsBelow x n x || s.waitsAbove x n x)
/-- The running collective jobs of a member: one, or that of each replica of a twin, the primary's first. -/
def State.memberJobs (c : CollId) (member : Nat) (s : State) : List (Nat × Job × CollJob) :=
  let l := s.octets.flatMap fun o => o.jobs.filterMap fun j =>
    j.coll?.bind fun x => if j.running && x.coll == c && x.member == member && j.error == 0 then some (o.number, j, x) else none
  let second (e : Nat × Job × CollJob) : Bool := ((s.coreAt e.2.1.at_).map fun c => c.grp.isSecondary).getD false
  l.filter (fun e => !second e) ++ l.filter second
def State.memberJob (c : CollId) (member : Nat) (s : State) : Option (Nat × Job × CollJob) :=
  match s.memberJobs c member with
  | [] => none
  | e :: rest =>
    -- a twin takes a vector once both replicas' jobs run
    if ((s.coreAt e.2.1.at_).map fun c => c.grp.twin.isSome).getD false && rest.isEmpty then none else some e
/-- A member's result area, if it receives a result (R327). -/
def CollJob.receives (x : CollJob) : Bool := x.block.op == 1 || x.parent.isNone
/-- The result goes down to the children under all-reduce (R329). -/
def State.passDown (x : CollJob) (bs : List Byte) (s : State) : State :=
  if x.block.op ≠ 1 then s
  else
    { s with octets := s.octets.map fun o => { o with jobs := o.jobs.map fun j =>
      match j.kind with
      | .coll y =>
        if j.running && y.coll == x.coll && y.parent == some x.member then
          { j with kind := .coll { y with result := some bs } }
        else j
      | _ => j } }
/-- A member's part of a collective ends (R329): with an error no result is written; the result is a plain copy, which waits
for lent ranges and sets its words full (R300). -/
def State.endColl (o : Nat) (j : Job) (x : CollJob) (s : State) : State :=
  -- an error leaves no vector of it on the way
  let fails (error : Nat) (s : State) : State :=
    ({ s with collVectors := s.collVectors.filter fun v => !(x.sent && !x.taken && v.coll == x.coll && v.member == x.member) } : State).endJob
      o j error 0 none
  if j.error ≠ 0 then fails j.error.toNat s
  else
    match (if x.receives then x.result else none) with
    | some bs =>
      (match s.coreAt j.now with
      | none => s.stall
      | some c =>
        if c.grp.lentAt x.block.res bs.length then s.stall
        else
          let s := s.atCore c.at_ fun s =>
            (s.writeWell x.block.res bs).mapGrp (Group.setRange x.block.res (x.block.res + bs.length) true)
          (s.passDown x bs).endJob o j 0 0 none)
    | none =>
      if !x.receives && x.taken then s.endJob o j 0 0 none
      else if s.waitsOnSealed x then fails 5 (s.notePart x 5)
      else s.stall
/-- The jobs of the unit that run, and whether each can end; the first that can ends. -/
def State.tryEnd (o : Nat) (j : Job) (s : State) : State :=
  match j.kind with
  | .step x => s.endStep o j x
  | .tzero m =>
    if j.error ≠ 0 then s.endJob o j j.error.toNat 0 none
    else
      (s.mapOwn j.now fun g => (upTo 32).foldl (fun g i => if m.getLsbD i then g.setRow (BitVec.ofNat 5 i) 0 else g) g).endJob o j 0 0 none
  | .dtload es =>
    if j.error ≠ 0 then s.endJob o j j.error.toNat 0 none
    else (s.mapOwn j.now fun g => { g with dtable := es }).endJob o j 0 0 none
  | .copy x => s.endCopy o j x
  | .coll x => s.endColl o j x
def State.endFirst (o : Nat) : List Job → State → State
  | [], s => s.stall
  | j :: rest, s =>
    let t := s.tryEnd o j
    if t.stalled && !s.stalled then State.endFirst o rest s else t
/-- JOB_COMPLETE (R286). -/
def execJobComplete (u : JobUnit) (s : State) : Result :=
  let n := octetOf s.core.at_
  .next (State.endFirst n ((s.octet n).jobs.filter fun j => j.running && j.kind.onUnit u) s)

/-! ## Copy words (R299 to R302, R325) -/

/-- The local address or the physical address of word w of an endpoint. -/
def Endpoint.word (e : Endpoint) (j : CopyJob) (stride w : Nat) : Nat :=
  match e with
  | .well _ a => a + w / (j.width / 8) * stride + 8 * (w % (j.width / 8))
  | .shared ps => ps[w]?.getD 0
/-- A source word: its value, or a wait, or an error code (R299, R309). -/
inductive Fetch | word (v : List Byte) | wait | error (code : Nat)
  deriving DecidableEq, Repr
def State.fetchWord (j : Job) (x : CopyJob) (w : Nat) (s : State) : Fetch :=
  let a := x.src.word x x.sstride w
  match x.src with
  | .well n _ => match s.owner? j.at_ n with | some c => .word (c.grp.well.readN a 8) | none => .error 3
  | .shared _ =>
    let bytes := (upTo 8).map fun i => s.norm (a + i)
    if ((s.coreAt j.now).map fun c => c.grp.overlapped bytes).getD false then .wait
    else if s.isPoisoned bytes then .error 2
    else .word (bytes.map s.homeByte)
/-- The destinations that have failed by now: sealed, or gone from the cluster (R301). -/
def State.failedNow (j : Job) (x : CopyJob) (s : State) : List Bool :=
  (upTo x.dests.length).map fun i =>
    x.failed[i]?.getD true ||
      match x.dests[i]? with
      | some (Endpoint.well n _) => (s.owner? j.at_ n).isNone
      | _ => false
/-- The well destinations that still take words, with their owners' cores. -/
def State.liveDests (at_ : Coord) (x : CopyJob) (failed : List Bool) (s : State) : List (Core × Name × Nat) :=
  (upTo x.dests.length).filterMap fun i =>
    if failed[i]?.getD true then none
    else match x.dests[i]? with
      | some (Endpoint.well n a) => (s.ownerCore at_ n).map fun c => (c, n, a)
      | _ => none
/-- The place of the next word in a well destination. -/
def CopyJob.place (x : CopyJob) (a : Nat) : Nat := (Endpoint.well 0 a).word x x.dstride x.next
/-- The next word waits for a lent range, or under .fill for an empty word (R295, R300). -/
def State.wellHeld (j : Job) (x : CopyJob) (s : State) : Bool :=
  (s.liveDests j.at_ x (s.failedNow j x)).any fun d =>
    d.1.grp.lentAt (x.place d.2.2) 8 || (x.fill && d.1.grp.isFull (x.place d.2.2 / 8))
/-- The next word into every well destination, once none of them must wait (R300); after the last word, all words of a
destination delivered in full become full. -/
def State.moveWell (o : Nat) (j : Job) (x : CopyJob) (s : State) : State :=
  let failed := s.failedNow j x
  let live := s.liveDests j.at_ x failed
  if s.wellHeld j x then s.stall
  else
    match s.fetchWord j x x.next with
    | .wait => s.stall
    | .error e => s.mapJob o j.owner j.serial fun j => { j with error := BitVec.ofNat 4 e, kind := .copy { x with failed := failed } }
    | .word v =>
      let s := live.foldl (fun s d => s.atCore d.1.at_ (State.writeWell (x.place d.2.2) v)) s
      let last := decide (x.next + 1 = x.words)
      let full (a : Nat) (g : Group) : Group :=
        (upTo x.rows).foldl (fun g r => g.setRange (a + r * x.dstride) (a + r * x.dstride + x.width) true) g
      let s := if last then live.foldl (fun s d => s.mapOwn d.1.at_ (full d.2.2)) s else s
      (s.countMoved j.now x.next (x.next + 1)).mapJob o j.owner j.serial fun j => { j with kind := .copy { x with next := x.next + 1, failed := failed } }
/-- The words of a run that lie in one 32-byte block. -/
def sameBlock (b : Nat) : List Nat → List Nat
  | [] => []
  | a :: rest => if a / 32 = b then a :: sameBlock b rest else []
/-- Read the words of a run; none when one must wait. -/
def State.fetchRun (j : Job) (x : CopyJob) (s : State) : Nat → Nat → List Fetch
  | _, 0 => []
  | w, n + 1 => s.fetchWord j x w :: State.fetchRun j x s (w + 1) n
/-- The words of the next record of a copy into shared memory: those that share a 32-byte block (R302). -/
def CopyJob.run (x : CopyJob) (ps : List Nat) : List Nat := sameBlock ((ps.drop x.next).headD 0 / 32) (ps.drop x.next)
/-- The next record waits: a home takes at most four records of the unit's log at a time, and the log holds 64 (R257, R260). -/
def State.unitLogHeld (o : Nat) (x : CopyJob) (ps : List Nat) (s : State) : Bool :=
  let mine := s.records.filter fun r => r.writer == engineKey s.board.module o
  decide (64 ≤ mine.length) || decide (4 ≤ (mine.filter fun r => r.entry.home == s.homeAt (32 * ((ps.drop x.next).headD 0 / 32))).length)
/-- The next record of a copy into shared memory (R302); one for a remote address leaves by a fabric port (R236, R378). -/
def State.moveShared (o : Nat) (j : Job) (x : CopyJob) (ps : List Nat) (s : State) : State :=
  let run := x.run ps
  let block := run.headD 0 / 32
  let key := engineKey s.board.module o
  let fs := s.fetchRun j x x.next run.length
  if s.unitLogHeld o x ps then s.stall
  else if fs.any fun f => f == .wait then s.stall
  else
    match fs.findSome? (fun f => match f with | .error e => some e | _ => none) with
    | some e => s.mapJob o j.owner j.serial fun j => { j with error := BitVec.ofNat 4 e }
    | none =>
      let pairs := (run.zip fs).flatMap fun p =>
        match p.2 with | .word v => (upTo 8).map fun i => (p.1 + i, v[i]?.getD 0) | _ => []
      let oct := s.octet o
      let seq := oct.copyTail + 1
      let e := { s.addressed (blockRecord pairs block) with seq := seq, firstSeq := seq, sent := true }
      let s := (s.setOctet { oct with copyTail := seq }).countMoved j.now x.next (x.next + run.length)
      let s := s.mapJob o j.owner j.serial fun j => { j with kind := .copy { x with next := x.next + run.length, tail := seq } }
      ({ s with records := s.records ++ [{ writer := key, entry := e, stage := .toHome }] } : State).toFabric e.phys (.record key seq)
/-- How many words the next move takes. -/
def CopyJob.takes (x : CopyJob) : Nat := match x.dests with | .shared ps :: _ => (x.run ps).length | _ => 1
/-- The first source word of the next move that has still to be asked for from a fabric port (R236, R378). -/
def CopyJob.unasked (x : CopyJob) : Option Nat :=
  match x.src with
  | .well _ _ => none
  | .shared ps =>
    ((upTo x.takes).map (x.next + ·)).find? fun w => decide (x.asked ≤ w) && ((ps[w]?).bind portModule).isSome
/-- An access of the job that no port has taken yet. -/
def State.copyAtPort (j : Job) (s : State) : Bool := s.net.any fun p => p.carries (.copy j.owner j.serial)
/-- Ask for the words from w on that lie in one 256-byte piece of remote memory, which one port takes (R375). -/
def State.askWords (o : Nat) (j : Job) (x : CopyJob) (w : Nat) (s : State) : State :=
  match x.src with
  | .well _ _ => s
  | .shared ps =>
    let a := ps[w]?.getD 0
    let n := ((ps.drop w).takeWhile fun b => decide (b / 256 = a / 256)).length
    (s.toFabric a (.copy j.owner j.serial)).mapJob o j.owner j.serial fun j => { j with kind := .copy { x with asked := w + n } }
/-- A running job waits for what R304 lets add to its cycles: a lent range, an empty word, or a full log (R295, R300, R260). -/
def State.jobWaits (o : Nat) (j : Job) (s : State) : Bool :=
  j.running && j.error == 0 &&
    match j.kind with
    | .copy x =>
      decide (x.next < x.words) && (match x.dests with | .shared ps :: _ => s.unitLogHeld o x ps | _ => s.wellHeld j x)
    | .coll x =>
      (match (if x.receives then x.result else none), s.coreAt j.now with
      | some bs, some c => c.grp.lentAt x.block.res bs.length
      | _, _ => false)
    | _ => false
/-- COPY_WORD_WRITE (R300): words of another module, or of a remote address of this one, are asked for first (R236, R378). -/
def execCopyWordWrite (s : State) : Result :=
  let n := octetOf s.core.at_
  .next (match (s.octet n).jobs.find? (fun j => j.running && j.kind.onUnit .copy && !j.kind.isColl) with
    | none => s.stall
    | some j =>
      match j.kind with
      | .copy x =>
        if j.error ≠ 0 || x.words ≤ x.next || s.copyAtPort j then s.stall
        else
          match x.unasked with
          | some w => s.askWords n j x w
          | none =>
            match x.dests with
            | .shared ps :: _ => s.moveShared n j x ps
            | _ => s.moveWell n j x
      | _ => s.stall)

/-! ## A child's vector (R328, R333) -/

/-- A mismatch completes the parent's job, and the job of every member below it, with error code 6 (R328, R333). -/
def State.mismatch (x : CollJob) (s : State) : State :=
  let s := (s.failBelow x).notePart x 6
  let top (j : Job) : Bool := match j.coll? with | some y => y.coll == x.coll && y.member == x.member | none => false
  { s with octets := s.octets.map fun o => { o with jobs := o.jobs.map fun j => if top j then { j with error := 6 } else j } }
/-- COLL_CHILD_ARRIVAL (R328): the vector reaches its parent once the parent's job runs; the parent takes it, or finds a
mismatch. -/
def execCollChildArrival (n : Nat) (s : State) : Result :=
  .next (match s.collVectors[n]? with
    | none => s.stall
    | some v =>
      match s.memberJob v.coll v.parent with
      | none => s.stall
      | some (_, top, x) =>
        let s : State := { s with collVectors := listDrop s.collVectors n }
        let same := v.block.op == x.block.op && v.block.fn == x.block.fn && v.block.type == x.block.type &&
          v.block.count == x.block.count && v.block.tag == x.block.tag
        if !same || decide (x.nchild ≤ v.child) || x.parts.any fun p => p.child == v.child then s.mismatch x
        else
          let taken (s : State) (e : Nat × Job × CollJob) : State :=
            s.mapJob e.1 e.2.1.owner e.2.1.serial fun j => { j with kind := .coll { e.2.2 with taken := true } }
          let senders := s.memberJobs v.coll v.member
          let s := senders.foldl taken s
          let way := (senders.head?.map fun e => meshTransit top.now e.2.1.now).getD 0
          let take (s : State) (e : Nat × Job × CollJob) : State :=
            let x' : CollJob := { e.2.2 with parts := e.2.2.parts ++ [{ child := v.child, members := v.members, vectors := v.vectors }]
                                             edges := e.2.2.edges + (x.block.bytes + 63) / 64 + 16 + way }
            (s.mapJob e.1 e.2.1.owner e.2.1.serial fun j => { j with kind := .coll x' }).advanceColl e.1 e.2.1 x'
          (s.memberJobs v.coll v.parent).foldl take s)

end Sys2Proof.Machine
end

