-- ==== Sys2Proof/Machine/Control.lean ====
section
/-! DEFINITION. Branches, jumps, hardware loops and activation control (spec 06 R94, R97 to R107), and what the fetch does
with a word that is reserved or lies beyond the code image (R91, R94). -/

namespace Sys2Proof.Machine

/-! ## Branches and jumps -/

/-- A branch compares g[a] with g[b]; taken, it goes to A plus the offset (R76, R97). -/
def State.branch (b a : GReg) (imm : BitVec 16) (taken : Word → Word → Bool) (s : State) : State :=
  if taken (s.getG a) (s.getG b) then s.jump (s.slot.pc + imm.signExtend 24) else s.finish
/-- A + 1 as a link value (R98). -/
def State.link (s : State) : Word := BitVec.ofNat 64 (s.slot.pc.toNat + 1)
/-- BEQ (R97). -/
def execBeq (b a : GReg) (imm : BitVec 16) (s : State) : Result := .next (s.branch b a imm fun x y => x == y)
/-- BNE (R97). -/
def execBne (b a : GReg) (imm : BitVec 16) (s : State) : Result := .next (s.branch b a imm fun x y => x != y)
/-- BLT (R97). -/
def execBlt (b a : GReg) (imm : BitVec 16) (s : State) : Result := .next (s.branch b a imm fun x y => x.slt y)
/-- BGE (R97). -/
def execBge (b a : GReg) (imm : BitVec 16) (s : State) : Result := .next (s.branch b a imm fun x y => !x.slt y)
/-- BLTU (R97). -/
def execBltu (b a : GReg) (imm : BitVec 16) (s : State) : Result := .next (s.branch b a imm fun x y => x.ult y)
/-- BGEU (R97). -/
def execBgeu (b a : GReg) (imm : BitVec 16) (s : State) : Result := .next (s.branch b a imm fun x y => !x.ult y)
/-- JAL (R98): links in g1. -/
def execJal (imm : BitVec 26) (s : State) : Result :=
  .next ((s.setG 1 s.link).jump (s.slot.pc + imm.setWidth 24))
/-- JALR (R98): g[a] is read before gd is written. -/
def execJalr (d a : GReg) (imm : BitVec 16) (s : State) : Result :=
  .next ((s.setG d s.link).jump ((s.localAddr a imm).setWidth 24))

/-! ## Hardware loops -/

/-- LOOP and LOOPI (R100) with a count, a body, and the TRAPVAL of their traps. -/
def State.loop (count : Nat) (body : BitVec 11) (v : Word) (s : State) : State :=
  let a := s.slot.pc.toNat
  let last := a + body.toNat
  let levels := s.slot.levels
  let outside := match levels.getLast? with | some l => decide (l.stop.toNat < last) | none => false
  if body = 0 ∨ 2 ^ 24 - 1 < last ∨ 2 ^ 32 ≤ count ∨ levels.length = 3 ∨ outside = true then s.illegal v
  else if count = 0 then
    -- a zero trip closes no level: of the transfers, R102 names a taken branch, JAL and JALR (log 12)
    (s.mapSlot fun sl => { sl with pc := BitVec.ofNat 24 (last + 1), progress := .none }).retire
  else
    let l : LoopLevel := { count := BitVec.ofNat 32 count, start := BitVec.ofNat 24 (a + 1), stop := BitVec.ofNat 24 last }
    (s.mapSlot fun sl => { sl with levels := sl.levels ++ [l], pc := BitVec.ofNat 24 (a + 1), progress := .none }).retire
/-- LOOP (R100): TRAPVAL holds g[a]. -/
def execLoop (a : GReg) (body : BitVec 11) (s : State) : Result := .next (s.loop (s.getG a).toNat body (s.getG a))
/-- LOOPI (R100): TRAPVAL holds the instruction word. -/
def execLoopi (count : BitVec 15) (body : BitVec 11) (s : State) : Result := .next (s.loop count.toNat body s.irVal)

/-! ## Activation control -/

/-- An earlier-issued instruction of the slot is still to write its destination (R105, R343, R344). -/
def State.outstanding (s : State) : Bool := s.core.tags.any fun t => t.slot == s.k
/-- ENDH (R105): in slot 3 while it handles a trap, an illegal operand. -/
def execEndh (s : State) : Result :=
  .next (
    if s.k = 3 ∧ s.grp.trapact then s.illegal s.irVal
    else if s.outstanding then s.stall
    else
      let t := s.retireNow.endActivation
      if s.k = 3 then t.mapGrp fun g => { g with sysact := false } else t)
/-- YIELD (R106): no effect on group state. DEDUCED (log 132): the slot is not ready when its core next comes to issue, and being the last
to issue it goes last in the round robin (R157). -/
def execYield (s : State) : Result := .next (s.finish.mapSlot fun sl => { sl with yielded := true })
/-- WFE (R107): it retires as it completes (R118). -/
def execWfe (s : State) : Result :=
  .next (if s.slot.latch then (s.mapSlot fun sl => { sl with latch := false }).finishNow else s.stall)

/-! ## The fetch -/

/-- RESERVED_INSTRUCTION (R91): the word is in TRAPVAL. -/
def execReservedInstruction (w : IWord) (s : State) : Result := .next (s.trap 0x01 (w.setWidth 64))
/-- INSTRUCTION_ADDRESS_TRAP (R94): the trap is at the address that cannot be fetched. -/
def execInstructionAddressTrap (s : State) : Result := .next (s.trap 0x07 (s.slot.pc.setWidth 64))

end Sys2Proof.Machine
end

