-- ==== Sys2Proof/Machine/System.lean ====
section
/-! DEFINITION. The system registers (R26, R27, R118, R340 to R342), TRAP and ERET (R343, R344), the privileged system
instructions (R350, R352, R353), and the events that start a trap activation, confirm a seal and wake a core. -/

namespace Sys2Proof.Machine

/-! ## The user system registers (R26, R27) -/

def RMode.ok (v : BitVec 3) : Bool := v.toNat < 5
/-- The value of a user system register, as slot k reads it. -/
def State.userReg (k : SlotId) (n : Nat) (s : State) : Option Word :=
  match n with
  | 0x00 => some (BitVec.ofNat 64 s.cycle)
  | 0x01 => some (s.grp.instret - BitVec.ofNat 64 s.grp.inFlight)
  | 0x12 => some (BitVec.ofNat 64 ((s.grp.slot k).lc 0))
  | 0x13 => some (BitVec.ofNat 64 ((s.grp.slot k).lc 1))
  | 0x14 => some (BitVec.ofNat 64 ((s.grp.slot k).lc 2))
  | _ => s.grp.reg n
/-- LC0 to LC2 belong to a slot (R26, R342). -/
def isLoopReg (n : Nat) : Bool := 0x12 ≤ n && n ≤ 0x14
/-- What MTS of a user register does (R118); none for a read-only register or a reserved encoding. Bits that the map
does not list are ignored (R3). -/
def Group.setUserReg (n : Nat) (v : Word) (g : Group) : Option Group :=
  match n with
  | 0x07 => some { g with lpat := v &&& 0x1FFFFFFF }
  | 0x09 => if 7 ≤ bits v.toNat 3 0 then none else some { g with fmta := v.setWidth 4 }
  | 0x0A => if 7 ≤ bits v.toNat 3 0 then none else some { g with fmtb := v.setWidth 4 }
  | 0x0B => some { g with scla := v.setWidth 17 }
  | 0x0C => some { g with sclb := v.setWidth 17 }
  | 0x0D => if v.setWidth 3 ≠ (0 : BitVec 3) then none else some { g with astride := v.setWidth 16 }
  | 0x0E => if v.setWidth 3 ≠ (0 : BitVec 3) then none else some { g with bstride := v.setWidth 16 }
  | 0x0F =>
    if 5 ≤ bits v.toNat 2 0 then none
    else some { g with fflags := v.extractLsb' 16 5, satf8 := v.getLsbD 8, rm := v.setWidth 3 }
  | _ => none

/-! ## The privileged registers (R340 to R342) -/

def State.statusp (s : State) : Word :=
  let g := s.grp
  let b (c : Bool) (i : Nat) : Nat := if c then 2 ^ i else 0
  BitVec.ofNat 64 (b g.sealed 15 + b (g.slot 2).susp 10 + b (g.slot 1).susp 9 + b (g.slot 0).susp 8 + b g.sysact 2 +
    b g.trapact 1 + b g.sys 0)
def AnnMode.code : AnnMode → Nat | .off => 0 | .live => 1 | .dryRun => 2 | .commit => 3
/-- An annealer register (R228). -/
def Annealer.reg (a : Annealer) (n : Nat) : Word :=
  match n with
  | 0x30 => BitVec.ofNat 64 (a.tempCurrent.toNat * 2 ^ 32 + a.tempStart.toNat)
  | 0x31 => a.alpha.setWidth 64
  | 0x32 => a.floor.setWidth 64
  | 0x33 => a.seed.setWidth 64
  | 0x34 => a.period.setWidth 64
  | _ => BitVec.ofNat 64 (a.round.toNat * 2 ^ 40 + a.head.toNat * 2 ^ 32 + a.left.toNat * 2 ^ 12 +
      (if a.best then 8 else 0) + (if a.wsrc then 4 else 0) + a.mode.code)
/-- The privileged registers that R340 lists, and whether they are of system level. -/
inductive PrivKind | trap | system | none
  deriving DecidableEq, Repr
def privKind (n : Nat) : PrivKind :=
  if (0x20 ≤ n && n ≤ 0x24) || (0x40 ≤ n && n ≤ 0x5F) then .trap
  else if (0x28 ≤ n && n ≤ 0x2B) || (0x30 ≤ n && n ≤ 0x35) then .system
  else .none
def isSlotReg (n : Nat) : Bool := (0x21 ≤ n && n ≤ 0x23) || (0x40 ≤ n && n ≤ 0x5F)
/-- The slot that the field s names for a per-slot register (R342). -/
def State.namedSlot (f : SlotId) (s : State) : Option SlotId :=
  if f ≠ 3 then some f else if s.k == 3 && s.grp.trapact then some s.grp.trapSlot else none
/-- The slot behind register n and field s, if R342 allows the field. -/
def State.fieldSlot (n : Nat) (f : SlotId) (s : State) : Option SlotId :=
  if isSlotReg n || isLoopReg n then s.namedSlot f else if f = 0 then some 0 else none
/-- Read a privileged register of slot k; a general register of a slot that no trap has stopped cannot be read. -/
def State.privReg (k : SlotId) (n : Nat) (s : State) : Option Word :=
  let g := s.grp
  let sl := g.slot k
  match n with
  | 0x20 => some s.statusp
  | 0x21 => some (sl.trapPc.setWidth 64)
  | 0x22 => some sl.trapCause
  | 0x23 => some sl.trapVal
  | 0x24 => some (g.trapSlot.setWidth 64)
  | 0x28 => some g.logArea
  | 0x29 => some g.logOvf
  | 0x2A => some g.logLim
  | 0x2B => some g.spillOvf
  | _ =>
    if 0x40 ≤ n then (if sl.susp then some (sl.get (BitVec.ofNat 5 (n - 0x40))) else none)
    else some (s.ann.reg n)
/-- Write a privileged register of slot k; none for an illegal operand (R229, R261, R340 to R342). DESIGN CHOICE (log 127): LOGAREA.base
has no limit. -/
def State.setPrivReg (k : SlotId) (n : Nat) (v : Word) (s : State) : Option State :=
  let g := s.grp
  let anneal (ok : Bool) : Option State :=
    if ok then some (s.mapAnn fun a => { a with pendingRegs := a.pendingRegs ++ [(n, v)] }) else none
  match n with
  | 0x21 => if v.extractLsb' 24 40 ≠ 0 then none else some (s.mapSlotOf k fun sl => { sl with trapPc := v.setWidth 24 })
  | 0x23 => some (s.mapSlotOf k fun sl => { sl with trapVal := v })
  | 0x28 =>
    let n := bits v.toNat 13 0
    if g.spilled || 8192 < n || n % 64 ≠ 0 then none
    else some (s.mapGrp fun g => { g with logArea := v &&& 0xFFFF3FFF })
  | 0x29 =>
    let b := bits v.toNat 51 12 * 4096
    if g.spilled || b < 0x1000000000 || 0x9000000000 ≤ b then none else some (s.mapGrp fun g => { g with logOvf := BitVec.ofNat 64 b })
  | 0x2A =>
    let n := bits v.toNat 31 0
    if g.spilled || 2 ^ 30 < n || n % 4096 ≠ 0 then none else some (s.mapGrp fun g => { g with logLim := BitVec.ofNat 64 n })
  | 0x2B =>
    -- only a system activation runs while its group stands frozen (R358)
    if s.k == 3 && g.sysact then some (s.mapGrp fun g => { g with spillOvf := v &&& 0xFFFFFFFFF8000 }) else none
  | 0x30 => anneal true
  | 0x31 => anneal true
  | 0x32 => anneal true
  | 0x33 => anneal true
  | 0x34 => anneal (decide (65536 ≤ bits v.toNat 31 0) && decide (bits v.toNat 31 0 ≤ 2 ^ 31))
  | 0x35 => anneal (bits v.toNat 1 0 != 3)
  | _ =>
    if 0x40 ≤ n then (if (g.slot k).susp then some (s.mapSlotOf k fun sl => sl.set (BitVec.ofNat 5 (n - 0x40)) v) else none)
    else none

/-- Register n is a general register of slot k that an access of that slot is still to write (R25, R342). -/
def State.gregOwed (k : SlotId) (n : Nat) (s : State) : Bool :=
  decide (0x40 ≤ n) && s.core.tags.any fun t => t.slot == k && decide (t.dest = .g (BitVec.ofNat 5 (n - 0x40)))
/-- Read register n with the slot field f, the privilege having been checked. -/
def State.readReg (d : GReg) (f : SlotId) (n : Nat) (s : State) : State :=
  match s.fieldSlot n f with
  | none => s.illegal s.irVal
  | some k =>
    match (if n < 0x20 then s.userReg k n else s.privReg k n) with
    | some v => if s.gregOwed k n then s.stall else s.result d v
    | none => s.illegal s.irVal
/-- Write register n with the slot field f. -/
def State.writeReg (a : GReg) (f : SlotId) (n : Nat) (s : State) : State :=
  let v := s.getG a
  match s.fieldSlot n f with
  | none => s.illegal v
  | some k =>
    let t := if n < 0x20 then (s.grp.setUserReg n v).map fun g => s.mapGrp fun _ => g else s.setPrivReg k n v
    match t with
    | some t => if s.gregOwed k n then s.stall else t.finish
    | none => s.illegal v
/-- The checks of R91 and R340 before a register is named: an unlisted number is reserved, and a register of system level
needs that privilege. -/
def State.checkReg (n : Nat) (go : State → State) (s : State) : State :=
  if n < 0x20 then (if (s.userReg 0 n).isSome then go s else s.reservedTrap)
  else if !s.privileged then s.privTrap
  else
    match privKind n with
    | .none => s.reservedTrap
    | .system => s.asSystem go
    | .trap => go s
/-- The field s that MFS and MTS stand for (R26, R342): of a per-slot register the issuing slot's own. -/
def State.ownField (n : Nat) (s : State) : SlotId := if isSlotReg n then s.k else 0
/-- MFS (R26, R118). LC0 to LC2 are the issuing slot's. -/
def execMfs (d : GReg) (n : BitVec 8) (s : State) : Result :=
  .next (s.checkReg n.toNat (fun s =>
    if isLoopReg n.toNat then (match s.userReg s.k n.toNat with | some v => s.result d v | none => s.illegal s.irVal)
    else s.readReg d (s.ownField n.toNat) n.toNat))
/-- MTS (R26, R118). -/
def execMts (a : GReg) (n : BitVec 8) (s : State) : Result :=
  .next (s.checkReg n.toNat fun s =>
    if isLoopReg n.toNat then s.illegal (s.getG a) else s.writeReg a (s.ownField n.toNat) n.toNat)
/-- MFSP (R342). -/
def execMfsp (d : GReg) (f : SlotId) (n : BitVec 8) (s : State) : Result :=
  .next (if !s.privileged then s.privTrap else s.checkReg n.toNat (State.readReg d f n.toNat))
/-- MTSP (R342). -/
def execMtsp (a : GReg) (f : SlotId) (n : BitVec 8) (s : State) : Result :=
  .next (if !s.privileged then s.privTrap else s.checkReg n.toNat (State.writeReg a f n.toNat))

/-! ## TRAP and ERET (R343, R344) -/

/-- TRAP (R343): it retires at issue (R118). -/
def execTrap (n : BitVec 5) (s : State) : Result :=
  .next (if s.outstanding then s.stall else s.retireNow.takeTrap s.k 0x0D (s.slot.pc + 1) (n.setWidth 64))
/-- Slot 3 becomes idle: its registers and loop levels are discarded; the end of an activation is an event (R107). -/
def State.idleSlot3 (s : State) : State :=
  (s.mapSlotOf 3 Slot.idle).raiseOthers
/-- A system activation ends: slots 0 to 2 resume with an event, and with wait counts zero (R363). -/
def State.resumeSlots (s : State) : State := s.mapGrp (·.resumeSlots)
/-- ERET (R344). -/
def execEret (s : State) : Result :=
  .next (
    if !s.privileged then s.privTrap
    else if s.k ≠ 3 ∨ (!s.grp.trapact ∧ !s.grp.sysact) then s.illegal s.irVal
    else if s.outstanding then s.stall
    else if s.grp.trapact then
      ((s.retireNow.mapGrp fun g => { g with trapact := false }).mapSlotOf s.grp.trapSlot fun sl =>
        { sl with susp := false, pc := sl.trapPc, wait := 0 }).idleSlot3
    else ((s.retireNow.mapGrp fun g => { g with sysact := false }).resumeSlots).idleSlot3)
/-- TRAP_ACTIVATION_START (R335): idle slot 3 takes the oldest pending trap. -/
def execTrapActivationStart (s : State) : Result :=
  .next (if s.core.vacant || s.grp.stopped || s.grp.trapQueue.isEmpty || (s.grp.slot 3).active || s.grp.sysact || s.core.swap.isSome then s.stall
    else s.startTrap)

/-! ## KILL, SEAL, UNSEAL (R350) -/

/-- Change the latest kill record of a name in a partition's ring. -/
def State.mapKill (part : Nat) (n : Name) (f : KillRecord → KillRecord) (s : State) : State :=
  let one (ks : List KillRecord) : List KillRecord :=
    (ks.foldr (fun k (acc : Bool × List KillRecord) =>
      if !acc.1 && k.name == n then (true, f k :: acc.2) else (acc.1, k :: acc.2)) (false, [])).2
  s.mapPart part fun p => { p with kills := one p.kills }
/-- The latest kill record of a name in a partition's ring. -/
def State.lastKill (part : Nat) (n : Name) (s : State) : Option KillRecord :=
  (s.partById part).kills.reverse.find? fun k => k.name = n
/-- The launch in progress that a name belongs to, and the name's ordinal in it (R200). -/
def State.launchOf (n : Name) (s : State) : Option (Launch × Nat) :=
  (s.launches.find? fun (l : Launch) =>
    l.admitted && !l.ended && decide (l.base ≤ bits n.toNat 27 8) &&
      decide (bits n.toNat 27 8 - l.base < l.groups) && l.nameOf s.board.module (bits n.toNat 27 8 - l.base) == n.toNat).map
    fun l => (l, bits n.toNat 27 8 - l.base)
/-- A group that has not been created, and that has been killed, is to start on a spare core. -/
def State.killWaits (n : Name) (s : State) : Bool :=
  match s.dirEntry n, s.launchOf n with
  | some e, some (l, _) => e.residence == .unplaced && match s.lastKill l.part n with | some k => k.restarted && k.newCore.isNone | none => false
  | _, _ => false
/-- Kill a group that is not resident (R359): the name is sealed; without restart its saved counts are settled, and what waits
for it in the sump ends there; with restart the sump keeps it (R349). A group that has not been created runs no more than its
record, until it restarts (R350). DESIGN CHOICE (log 131): the record's old core is the saved position, or (0, 0). DESIGN CHOICE (log 141):
what its open batch lends in other wells is lent no more, as at a kill on a core. -/
def State.killSaved (cause : Nat) (n : Name) (restart : Bool) (s : State) : State :=
  let noted (g : Group) (part : Nat) (core : Coord) (s : State) : State :=
    let s : State := ((((s.mapGroups (Group.unlend fun j => j.1 == n)).loseOwner n).dropVectors n).mapDir n fun e => { e with sealed := true, ended := !restart })
    (if restart then s else s.endSump n).addKill part (g.killRecord cause restart core 0 (BitVec.ofNat 64 s.cycle))
  match s.frames.find? (fun x => x.name = n), s.launchOf n with
  | some x, _ =>
    let g := x.grp
    let ids := if restart then [] else g.withdrawn s.net
    let s := (s.recall n ids).mapGroup n fun g =>
      if restart then { g with sealed := true, stopped := true } else { (g.settle 0 ids) with sealed := true }
    noted g (s.killPart g) { x := bits g.posn.toNat 51 42, y := bits g.posn.toNat 41 32 } s
  | none, some (l, o) =>
    let s := { s with launches := s.launches.map fun (x : Launch) => if x.id = l.id then { x with unplaced := x.unplaced.filter (· ≠ o) } else x }
    noted
      { Group.reset with self := n.setWidth 64, launch := l.id, launchReg := BitVec.ofNat 64 (l.id % 2 ^ 32 * 2 ^ 32 + o) } l.part ⟨0, 0⟩ s
  | none, none => s
/-- Kill a named group wherever it stands. -/
def State.killName (cause : Nat) (n : Name) (restart : Bool) (s : State) : State :=
  match s.holder n with
  | some c => s.atCore c.at_ (State.kill cause 0 restart)
  | none => s.killSaved cause n restart
/-- Has the named group been killed already? -/
def State.isKilled (n : Name) (s : State) : Bool :=
  match s.holder n with
  | some c => c.grp.stopped
  | none => (s.dirEntry n).any (·.ended) || s.frames.any (fun x => x.name == n && (x.grp.ended || x.grp.stopped)) || s.killWaits n
/-- Set or clear the seal of a name, at its home and at its core (R184, R350); a job that still needs a sealed owner loses it
(R309). -/
def State.setSeal (n : Name) (b : Bool) (s : State) : State :=
  let s := (s.mapDir n fun e => { e with sealed := b }).mapGroup n fun g => { g with sealed := b }
  if b then s.loseOwner n else s
/-- The instruction waits for the confirmation of the seal. -/
def State.awaitSeal (s : State) : State := (s.mapSlot fun sl => { sl with progress := .sealing }).stall
/-- KILL, SEAL and UNSEAL: a bit beyond the ones they read is illegal; a released name, or one in the requested state,
completes with no effect. `already` holds of the states in which nothing is to be done. -/
def State.sealOp (allowed : Word) (a : GReg) (already : Name → State → Bool) (act : Name → State → State) (s : State) : State :=
  s.asSystem (fun s =>
    let w := s.getG a
    let n : Name := w.setWidth 40
    if w &&& ~~~allowed ≠ 0 then s.illegal w
    else if s.slot.progress = .sealing then s.stall
    else
      match s.dirEntry n with
      | none => s.finishNow
      | some e => if e.residence = .released || already n s then s.finishNow else act n s)
/-- The 40 bits of a name. -/
def nameMask : Word := 0xFFFFFFFFFF
/-- KILL (R350): cause 0x43. A group that kills itself stops with the rest of its slots. -/
def execKill (a : GReg) (s : State) : Result :=
  .next (s.sealOp (nameMask ||| (1#64 <<< 63)) a (fun n s => s.isKilled n) fun n t =>
    if t.isHere n then t.kill 0x43 0 ((t.getG a).getLsbD 63)
    else (t.killName 0x43 n ((t.getG a).getLsbD 63)).awaitSeal)
/-- SEAL (R350). -/
def execSeal (a : GReg) (s : State) : Result :=
  .next (s.sealOp nameMask a (fun n s => (s.dirEntry n).any (·.sealed)) fun n t => (t.setSeal n true).awaitSeal)
/-- UNSEAL (R350): the sump's queue is delivered before the seal clears (R184, R186); the name of a group killed without
restart stays sealed. -/
def execUnseal (a : GReg) (s : State) : Result :=
  .next (s.sealOp nameMask a (fun n s => (s.dirEntry n).any fun e => !e.sealed || e.ended) fun n t =>
    ((match t.holder n with | some c => t.deliverSump n c.at_ | none => t).setSeal n false).awaitSeal)
/-- SEAL_CONFIRMATION (R354): the waiting instruction of slot k completes. -/
def execSealConfirmation (k : SlotId) (s : State) : Result :=
  .next (if (s.grp.slot k).progress = .sealing ∧ !s.core.vacant ∧ !s.grp.stopped ∧ s.portClear then
      { ({ s with k := k } : State).finishNow with k := s.k }
    else s.stall)

/-! ## The annealer instructions (R352) -/

/-- ANCFG (R352); either form loads the temperature again at the next round start (R215). DESIGN CHOICE (log 111): one issued while a round
runs clears ANTRACE.round and ANTRACE.head at once, and that round's end still adds 1 to each. -/
def execAncfg (a b : GReg) (s : State) : Result :=
  .next (s.asSystem fun s =>
    let w := s.getG a
    let v := s.getG b
    match bits w.toNat 1 0 with
    | 0 =>
      if w ≠ 0 || v ≠ 0 then s.illegal w
      else (s.mapAnn fun a => { a with round := 0, head := 0, best := false, reloadTemp := true }).finish
    | 1 =>
      if w &&& ~~~(0xFFFF3F01 : Word) ≠ 0 || v &&& ~~~nameMask ≠ 0 then s.illegal w
      else
        (s.mapAnn fun a => { a with reloadTemp := true, pendingWeights :=
            a.pendingWeights ++ [(v.setWidth 40, bits w.toNat 13 8, bits w.toNat 31 16)] }).finish
    | _ => s.illegal w)
/-- ANRUN (R225, R352): with wait = 1 it completes when the commit ends. DESIGN CHOICE (log 99): one issued while a commit runs starts
the count of its 4,096 phases again. -/
def execAnrun (a : GReg) (s : State) : Result :=
  .next (s.asSystem fun s =>
    let w := s.getG a
    if w &&& ~~~(1 : Word) ≠ 0 then s.illegal w
    else if s.slot.progress = .committing then (if s.ann.mode = .commit then s.stall else s.finishNow)
    else if !s.ann.best then s.finish
    else
      let t := s.mapAnn fun a => { a with mode := .commit, phases := 0 }
      if w = 0 then t.finish else (t.mapSlot fun sl => { sl with progress := .committing }).stall)
/-- ANREAD (R226, R352). -/
def execAnread (d a : GReg) (s : State) : Result :=
  .next (s.asSystem fun s =>
    let w := s.getG a
    if w.extractLsb' 10 54 ≠ 0 then s.illegal w
    else s.result d ((s.ann.ring[bits w.toNat 7 0]?.getD 0).extractLsb' (64 * bits w.toNat 9 8) 64))

/-! ## SLEEPC (R353) -/

/-- SLEEPC gates the clocks of its core. -/
def execSleepc (a : GReg) (s : State) : Result :=
  .next (s.asSystem fun s =>
    (s.mapCore fun c => { c with asleep := some (s.getG a) }).mapSlot (fun sl => { sl with progress := .sleeping false }) |>.stall)
def Progress.asleep : Progress → Bool | .sleeping _ => true | _ => false
def Progress.woken : Progress → Bool | .sleeping w => w | _ => false
/-- The core wakes, and its SLEEPC completes. -/
def State.wake (s : State) : State :=
  let k := [(0 : SlotId), 1, 2, 3].find? fun k => (s.grp.slot k).progress.asleep
  let s := s.mapCore fun c => { c with asleep := none }
  match k with
  | some k => { ({ s with k := k } : State).finishNow with k := s.k }
  | none => s
/-- SLEEPC_WAKE (R353): at the deadline, if there is one, or when an event of R107 has occurred. -/
def execSleepcWake (s : State) : Result :=
  .next (match s.core.asleep with
    | none => s.stall
    | some d =>
      if (d ≠ 0 ∧ d.toNat ≤ s.cycle) ∨ [(0 : SlotId), 1, 2, 3].any (fun k => (s.grp.slot k).progress.woken) then s.wake else s.stall)

end Sys2Proof.Machine
end

