-- ==== Sys2Proof/Machine/Annealing.lean ====
section
/-! DEFINITION. The placement annealer (spec 11): rounds, weights, phases and decisions (R206 to R215), the swap protocol
(R216 to R222), the dry run and the commit (R224, R225) and the trace (R226). An annealer event acts for the partition of
the focus core. -/

namespace Sys2Proof.Machine

/-! ## Distance and energy (R209, R210) -/

/-- The distance between two cores (R209). -/
def distance (a b : Coord) : Nat :=
  absDiff a.x b.x + absDiff a.y b.y + 2 * dieEdges a b
/-- The channel numbers. -/
def allChannels : List (BitVec 6) := (upTo 64).map (BitVec.ofNat 6)
/-- The open ends of a group, with their annealer entries. -/
def Group.openEnds (g : Group) : List (Chan × AnnEntry) :=
  allChannels.filterMap fun c =>
    let e := g.chan c
    if e.isOpen then some (e, g.ann[c.toNat]?.getD AnnEntry.reset) else none
/-- The product p of an end: w * weight (R208). -/
def endProduct (e : Chan × AnnEntry) : Nat := e.2.w * e.1.weight
/-- The cores of the focus core's partition that the annealer considers (R206). -/
def State.considered (s : State) (c : Coord) : Bool :=
  (s.partAt c).id == s.part.id && decide (4 * s.board.fwWidth ≤ c.x) && !((s.coreAt c).map (·.retired)).getD false
/-- The resident groups of the partition, with their cores; of a twin, the primary. A group that ended without restart keeps its
core (log 29) and is none of them (R224). -/
def State.residents (s : State) : List Core :=
  s.cores.filter fun c => !c.vacant && !c.grp.isSecondary && !c.grp.ended && (s.partAt c.at_).id == s.part.id
/-- Where the round sees a group: live, or in the shadow table (R224). -/
def State.placeOf (s : State) (n : Name) : Option Coord :=
  if s.ann.roundMode = .dryRun then (s.ann.shadow.find? fun e => e.1 = n).map (·.2) else (s.holder n).map (·.at_)
/-- The position of the peer of an end, as the sums use it: none counts as zero distance (R209). DESIGN CHOICE (log 98): in a dry
run a resident peer that has no shadow entry counts as zero distance; and (log 110) a group killed without restart, which keeps its
core, still counts in a live round, by its last position. -/
def State.peerAt (s : State) (e : Chan × AnnEntry) : Option Coord :=
  match s.holder e.1.peer with
  | none => none
  | some _ => if s.ann.roundMode = .dryRun then (if e.2.peer.isSome then s.placeOf e.1.peer else none) else e.2.peer
/-- The part of the energy's change that a group adds when it moves from one core to another, leaving out the channels to
the group it changes places with (R210). -/
def State.moveDelta (s : State) (g : Group) (other : Name) (src dst : Coord) : Int :=
  g.openEnds.foldl (fun (acc : Int) e =>
    if e.1.peer = other then acc
    else match s.peerAt e with
      | none => acc
      | some p => acc + ((endProduct e + e.2.q : Nat) : Int) * ((distance dst p : Nat) - (distance src p : Nat) : Int)) 0
/-- The energy of the placement (R210). -/
def State.energy (s : State) : Nat :=
  s.residents.foldl (fun acc c =>
    match s.placeOf c.grp.name with
    | none => acc
    | some at_ => c.grp.openEnds.foldl (fun acc e =>
        match s.peerAt e with | none => acc | some p => acc + endProduct e * distance at_ p) acc) 0

/-! ## Round starts (R208, R211, R215, R229) -/

/-- A write to an annealer register takes effect (R228, R229). -/
def State.annWrite (s : State) (w : Nat × Word) : State :=
  let v := w.2
  s.mapAnn fun a =>
    match w.1 with
    | 0x30 => { a with tempStart := v.setWidth 32 }
    | 0x31 => { a with alpha := v.setWidth 8 }
    | 0x32 => { a with floor := v.setWidth 32 }
    | 0x33 => { a with seed := v.setWidth 32 }
    | 0x34 => { a with period := v.setWidth 32 }
    | _ =>
      let mode : AnnMode := match bits v.toNat 1 0 with | 1 => .live | 2 => .dryRun | _ => .off
      let a := { a with wsrc := v.getLsbD 2, mode := mode }
      -- setting the mode to dry run copies the live positions (R224)
      if mode = .dryRun then { a with shadow := s.residents.map fun c => (c.grp.name, c.at_) } else a
/-- The group stands in the focus core's partition, or was saved there. -/
def State.inPart (n : Name) (s : State) : Bool :=
  match s.holder n with
  | some c => (s.partAt c.at_).id == s.part.id
  | none => s.frames.any fun x => x.name == n && s.killPart x.grp == s.part.id
/-- The weight of an end as ANCFG wrote it (R352); it has no effect unless the group and its entry are open in the partition. -/
def State.weightWrite (s : State) (w : Name × Nat × Nat) : State :=
  s.mapHeld w.1 fun g =>
    if s.inPart w.1 && (g.chan (BitVec.ofNat 6 w.2.1)).isOpen then
      match g.ann[w.2.1]? with
      | some e => { g with ann := listSet g.ann w.2.1 { e with w := w.2.2 } }
      | none => g
    else g
/-- What takes effect at a round start, in every mode (R211, R215, R229, R352). -/
def State.roundEffects (s : State) : State :=
  let a := s.ann
  let s := s.mapAnn fun a => { a with pendingRegs := [], pendingWeights := [], reloadTemp := false }
  let s := a.pendingRegs.foldl State.annWrite s
  let s := a.pendingWeights.foldl State.weightWrite s
  if a.reloadTemp then s.mapAnn fun a => { a with tempCurrent := a.tempStart } else s
/-- The weight updates of one group's open ends (R208). -/
def Group.newWeights (wsrc : Bool) (g : Group) : Group :=
  { g with ann := (upTo 64).map fun c =>
      let e := g.ann[c]?.getD AnnEntry.reset
      if (g.chan (BitVec.ofNat 6 c)).isOpen then { e with w := if wsrc then e.w else (e.w + e.count) / 2, count := 0 } else e }
def State.sendWeights (c : Core) (s : State) : State :=
  s.atCore c.at_ fun s => allChannels.foldl (fun s ch =>
    let e := c.grp.chan ch
    if e.isOpen then
      s.emitTo e.peer 0 (.weight e.peer c.grp.name ch (endProduct (e, c.grp.ann[ch.toNat]?.getD AnnEntry.reset)) c.at_)
    else s) s
/-- The shadow table follows the groups that came and went (R224). DESIGN CHOICE (log 98): one that came enters at the core it stands
on, also where the shadow table has another group there. -/
def State.shadowNow (s : State) : List (Name × Coord) :=
  let live := s.residents.map fun c => (c.grp.name, c.at_)
  (s.ann.shadow.filter fun e => live.any fun x => x.1 == e.1) ++ live.filter fun x => !s.ann.shadow.any fun e => e.1 == x.1
/-- A round begins (R208, R211). DESIGN CHOICE (log 121): the open ends of a group that is saved keep their weights and counts, and
send nothing. -/
def State.beginRound (s : State) : State :=
  let mode := s.ann.mode
  let wsrc := s.ann.wsrc
  let s := if mode = .dryRun then s.mapAnn fun a => { a with shadow := s.shadowNow } else s
  let s := s.mapAnn fun a =>
    { a with inRound := true, roundMode := mode, phase := 0, pairs := [], energy := 0, accepted := 0, rejected := 0, busy := 0, aborted := 0 }
  let s := s.residents.foldl (fun s c => s.mapAt c.at_ fun c => { c with grp := c.grp.newWeights wsrc }) s
  s.residents.foldl (fun s c => s.sendWeights c) s
/-- The groups of the best placement that do not stand at their targets; one that stands nowhere does not (R225). -/
def State.away (s : State) : Nat :=
  (s.ann.bestPlacement.filter fun e => match s.holder e.1 with | some c => decide (c.at_ ≠ e.2) | none => true).length
/-- A commit has come to its end (R225): every group of the best placement stands at its target, or 4,096 phases are over. -/
def State.commitOver (s : State) : Bool :=
  s.ann.mode == .commit && (s.away == 0 || (decide (4096 ≤ s.ann.phases) && s.ann.pairs.isEmpty))
/-- The round that runs is one of a commit that has come to its end: it decides and begins nothing more. -/
def State.commitStops (s : State) : Bool := s.ann.inRound && s.ann.roundMode == .commit && s.commitOver
/-- ROUND_INSTANT (R211): CYCLE has passed a multiple of ANPERIOD, or a commit runs back to back (R225); a round in
progress is waited for. DESIGN CHOICE (log 109): several multiples that have passed since the last round began begin one round. -/
def execRoundInstant (s : State) : Result :=
  let a := s.ann
  let due := decide (a.instant < s.cycle / a.period.toNat * a.period.toNat) || a.mode == .commit
  .next (if a.inRound || !due || s.commitOver then s.stall
    else
      let s := (s.mapAnn fun a => { a with instant := s.cycle }).roundEffects
      if s.ann.mode = .off then s else s.beginRound)
/-- Change the annealer entry of a channel. -/
def Group.setAnn (c : BitVec 6) (f : AnnEntry → AnnEntry) (g : Group) : Group :=
  { g with ann := listSet g.ann c.toNat (f (g.ann[c.toNat]?.getD AnnEntry.reset)) }
/-- A weight or position update comes up at the focus core's port: a locked port holds it, and one for a group that is not
here goes on (R182, R218; log 73). -/
def State.updateArrival (n : Nat) (p : Packet) (dst : Name) (take : State → State) (s : State) : State :=
  if p.place ≠ .core s.core.at_ || !s.turnAt n p then s.stall
  else if s.portHolds then s.holdAtPort n p
  else if !s.isHere dst then (s.dropNet n).passUpdate p dst
  else take (s.dropNet n)
/-- WEIGHT_UPDATE_ARRIVAL (R208): the peer's open end stores it. -/
def execWeightUpdateArrival (n : Nat) (s : State) : Result :=
  .next (match s.net[n]? with
    | none => s.stall
    | some p =>
      match p.body with
      | .weight dst name c q at_ =>
        let e := s.grp.chan c
        s.updateArrival n p dst fun t =>
          if e.isOpen && e.peer == name then t.mapGroup dst (Group.setAnn c fun e => { e with q := q, peer := some at_ }) else t
      | _ => s.stall)
/-- POSITION_UPDATE_ARRIVAL (R219): the peer's core also learns where the name stands, on the module that its name gives; so does
that of a secondary (R231, R357). -/
def execPositionUpdateArrival (n : Nat) (s : State) : Result :=
  .next (match s.net[n]? with
    | none => s.stall
    | some p =>
      match p.body with
      | .position dst name c at_ =>
        let e := s.grp.chan c
        s.updateArrival n p dst fun t =>
          if e.isOpen && e.peer == name then
            (t.mapGroup dst (Group.setAnn c fun e => { e with peer := some at_ })).bothReplicas
              (State.mapCore (Core.learn name (bits name.toNat 39 28) at_))
          else t
      | _ => s.stall)

/-! ## Phases and pairs (R211, R213, R224) -/

def Traffic.isWeight : Traffic → Bool | .weight .. => true | _ => false
def Traffic.isPosition : Traffic → Bool | .position .. => true | _ => false
/-- An update of the module's own is still on its way, in the network, at a port or at a home. -/
def State.updateOut (is : Traffic → Bool) (s : State) : Bool :=
  let inside (p : Packet) : Bool := is p.body && p.away.isNone && match p.place with | .fabric _ => false | _ => true
  s.net.any inside || s.cores.any (fun c => c.held.any inside) || s.directory.any fun e => e.held.any inside
/-- A swap of the partition that has neither installed nor aborted. -/
def State.swapping (s : State) : Bool :=
  s.cores.any fun c => (s.partAt c.at_).id == s.part.id && match c.swap with | some w => w.stage != .installed | none => false
/-- The other core of the pair whose lower core is `c`, in a phase (R211). -/
def upperOf (phase : Nat) (c : Coord) : Coord := if phase < 2 then { c with x := c.x + 1 } else { c with y := c.y + 1 }
/-- Is `c` a lower core of the phase? -/
def isLower (phase : Nat) (c : Coord) : Bool :=
  match phase with
  | 0 => c.x % 2 == 0 | 1 => c.x % 2 == 1 | 2 => c.y % 2 == 0 | _ => c.y % 2 == 1
/-- The pairs of a phase among the partition's cores outside the firmware column, counted die by die: 104 columns and 100 rows
each; a phase of odd lower cores also pairs across the edge of two dies of the partition (log 49). -/
def State.pairCount (s : State) (phase : Nat) : Nat :=
  let mine (d : Nat) : Bool := (s.partAt { x := d % 8 * 104, y := d / 8 * 100 }).id == s.part.id
  let fw (d : Nat) : Nat := if d % 8 = 0 then 4 * s.board.fwWidth else 0
  let count (d : Nat) : Nat :=
    let w := 104 - fw d
    match phase with
    | 0 => w / 2 * 100
    | 1 => (w / 2 - 1) * 100 + (if d % 8 < 7 ∧ mine (d + 1) then 100 else 0)
    | 2 => w * 50
    | _ => w * 49 + (if d / 8 < 7 ∧ mine (d + 8) then w else 0)
  ((upTo 64).filter mine).foldl (fun n d => n + count d) 0
/-- The groups that the round sees at the two cores of a pair. -/
def State.groupAt (s : State) (c : Coord) : Option Group :=
  if s.ann.roundMode = .dryRun then
    match s.ann.shadow.find? (fun e => e.2 = c) with
    | some e => (s.holder e.1).map (·.grp)
    | none => none
  else
    match s.coreAt c with
    | some x => if x.vacant then none else some x.grp
    | none => none
/-- The pairs that hold two groups, with their changes of energy, at the phase start (R210, R212). -/
def State.phasePairs (s : State) (phase : Nat) : List (Coord × Int) :=
  let lowers := if s.ann.roundMode = .dryRun then s.ann.shadow.map (·.2) else s.residents.map (·.at_)
  (lowers.filter (isLower phase)).filterMap fun a =>
    let b := upperOf phase a
    if s.considered a && s.considered b then
      match s.groupAt a, s.groupAt b with
      | some g, some h => some (a, s.moveDelta g h.name a b + s.moveDelta h g.name b a)
      | _, _ => none
    else none
/-- PHASE_START (R211): phase 0 once every weight update has been stored or dropped; a later phase once every swap of the
one before has installed or aborted and its position updates are stored. At the first phase of a round its energy is
noted, and in a dry run the best placement kept (R224). -/
def execPhaseStart (s : State) : Result :=
  let a := s.ann
  let waiting := s.swapping || s.updateOut fun b => b.isWeight || b.isPosition
  .next (if !a.inRound || 4 ≤ a.phase || !a.pairs.isEmpty || waiting || s.commitStops then s.stall
    else
      let s :=
        if a.phase = 0 then
          let e := s.energy
          s.mapAnn fun a =>
            let a := { a with energy := e }
            if a.roundMode = .dryRun ∧ (!a.best ∨ e < a.bestEnergy) then
              { a with best := true, bestEnergy := e, bestPlacement := a.shadow }
            else a
        else s
      let pairs := s.phasePairs a.phase
      let idle := s.pairCount a.phase - pairs.length
      s.mapAnn fun a => { a with pairs := pairs, phase := a.phase + 1, phases := if a.roundMode = .commit then a.phases + 1 else a.phases, busy := a.busy + idle })

/-- The instance of a level's domain that a core lies in (R9, R159). -/
def domainOf (d : Nat) (c : Coord) : Nat :=
  match d with
  | 0 => octetOf c
  | 1 => clusterOf c
  | 2 => dieOf c
  | _ => 0
/-- The group may stand at `b` as well as at `a` (R159, R213). -/
def State.staysInDomain (s : State) (g : Group) (a b : Coord) : Bool :=
  match s.launches.find? (fun l => l.id = g.launch) with
  | none => true
  | some l => l.levels.all fun v => domainOf v.domain a == domainOf v.domain b
/-- A job that works on its own group's tile, or, a collective, on its own group's well (R213, R329). -/
def JobKind.onOwn : JobKind → Bool | .step _ => true | .tzero _ => true | .dtload _ => false | .copy _ => false | .coll _ => true
/-- The groups whose wells a job reads or writes by name (R310). -/
def JobKind.names : JobKind → List Name
  | .step x => [x.a.owner, x.b.owner]
  | .copy x => (x.src :: x.dests).filterMap fun e => match e with | .well n _ => some n | .shared _ => none
  | _ => []
/-- A group is pinned (R213, R295, R310). -/
def State.pinned (s : State) (g : Group) : Bool :=
  !g.lent.isEmpty || s.octets.any fun o => o.jobs.any fun j => (j.owner == g.name && j.kind.onOwn) || j.kind.names.contains g.name
/-- R213: a pair is skipped. In a dry run the pinned, trap-activation and pre-emption conditions are ignored (R224); that a killed group
still is skipped there is DESIGN CHOICE (log 98). A pre-emption that is asked for while the cores are locked waits for the swap's
end (R221). -/
def State.skippedIn (s : State) (dry locked : Bool) (a b : Coord) (g h : Group) : Bool :=
  let bad (x : Group) : Bool := x.anchored || x.twin.isSome || x.ended || x.stopped ||
    (!dry && (x.trapact || s.pinned x || (!locked && x.preempt.isSome) || x.sysact))
  !s.considered a || !s.considered b || bad g || bad h || !s.staysInDomain g a b || !s.staysInDomain h b a
/-- R213 at a decision of the round (R224). -/
def State.skipped (s : State) (a b : Coord) (g h : Group) : Bool := s.skippedIn (s.ann.roundMode == .dryRun) false a b g h
/-- R213 where a swap is about to begin outside the rounds (R395), whatever mode the annealer is in. -/
def State.swapSkipped (s : State) (a b : Coord) (g h : Group) : Bool := s.skippedIn false false a b g h

/-! ## Decisions (R214, R225) -/

/-- The draw U of R214. -/
def annealDraw (seed : BitVec 32) (round : Nat) (phase : Nat) (c : Coord) : BitVec 32 :=
  let s := seed ^^^ BitVec.ofNat 32 (c.y * 2 ^ 22 ||| c.x * 2 ^ 12 ||| phase * 2 ^ 10)
  let s := s ^^^ BitVec.ofNat 32 (round * 0x9E3779B9)
  let s := if s = 0 then 0x6D2B79F5#32 else s
  let s := s ^^^ (s <<< 13)
  let s := s ^^^ (s >>> 17)
  s ^^^ (s <<< 5)
/-- The acceptance rule of R214. -/
def annealAccepts (delta : Int) (t : Nat) (u : BitVec 32) : Bool :=
  if delta ≤ 0 then true
  else if t = 0 then false
  else
    let i := 16 * delta.toNat / t
    if 256 ≤ i then false else decide (u.toNat < expTable i)
/-- The distance of a group from its best position; a group that has none counts as zero (R225; log 17). -/
def Annealer.toTarget (a : Annealer) (n : Name) (c : Coord) : Nat :=
  ((a.bestPlacement.find? fun e => e.1 = n).map fun e => distance c e.2).getD 0
/-- The rule of a commit (R225). -/
def Annealer.commitAccepts (x : Annealer) (a b : Coord) (g h : Name) : Bool :=
  let dg := x.toTarget g a
  let dh := x.toTarget h b
  let ng := x.toTarget g b
  let nh := x.toTarget h a
  decide (ng + nh < dg + dh) ||
    (ng + nh == dg + dh && ((decide (dh < dg) && decide (ng < dg)) || (decide (dg < dh) && decide (nh < dh))))
/-- Lock both cores (R216): a sleeping core wakes first (R353), and both directory entries are moving (R183). -/
def State.lockPair (a b : Coord) (s : State) : State :=
  let single := [a, b].any fun c => ((s.coreAt c).map (·.vacant)).getD true
  let lock (c d : Coord) (s : State) : State :=
    (s.atCore c fun s => if s.core.asleep.isSome then s.wake else s).mapAt c fun x =>
      { x with swap := some { partner := d, since := s.cycle, stage := .locked, single := single } }
  let s := lock b a (lock a b s)
  [a, b].foldl (fun s c =>
    match s.coreAt c with
    | some x => if x.vacant then s else s.mapDir x.grp.name fun e => { e with moving := true, awaits := bits x.grp.posn.toNat 31 0 + 1 }
    | none => s) s
/-- A core of the pair is still to resume from its last swap. -/
def State.inSwap (a b : Coord) (s : State) : Bool := s.cores.any fun c => (c.at_ == a || c.at_ == b) && c.swap.isSome
/-- PAIR_DECISION (R212, R214, R224, R225) of the pair with this lower core. The decisions of a commit are not those of R214, so
none of them counts as rejected (R226); a swap begins once both cores have resumed from their last one (R216, R219). DESIGN CHOICE (log
135): the delta is that of the groups that stood on the pair at the phase's start. -/
def execPairDecision (lower : Coord) (s : State) : Result :=
  let x := s.ann
  .next (if s.commitStops then s.stall else match x.pairs.find? (fun e => e.1 = lower) with
    | none => s.stall
    | some (_, delta) =>
      let phase := x.phase - 1
      let upper := upperOf phase lower
      let t := s.mapAnn fun a => { a with pairs := a.pairs.filter fun e => decide (e.1 ≠ lower) }
      match s.groupAt lower, s.groupAt upper with
      | some g, some h =>
        if s.skipped lower upper g h then t.mapAnn fun a => { a with busy := a.busy + 1 }
        else if x.roundMode = .commit then
          if !x.commitAccepts lower upper g.name h.name then t
          else if s.inSwap lower upper then s.stall else t.lockPair lower upper
        else if !annealAccepts delta x.tempCurrent.toNat (annealDraw x.seed x.round.toNat phase lower) then
          t.mapAnn fun a => { a with rejected := a.rejected + 1 }
        else if x.roundMode = .dryRun then
          t.mapAnn fun a => { a with accepted := a.accepted + 1, shadow := a.shadow.map fun e =>
            if e.1 = g.name then (e.1, upper) else if e.1 = h.name then (e.1, lower) else e }
        else if s.inSwap lower upper then s.stall else t.lockPair lower upper
      | _, _ => t.mapAnn fun a => { a with busy := a.busy + 1 })

/-! ## The swap protocol (R217 to R222) -/

/-- Both cores of the focus core's swap, when they stand at a stage. -/
def State.pairAt (stage : SwapStage) (s : State) : Option (Core × Core × SwapState) :=
  match s.core.swap with
  | none => none
  | some w =>
    match s.coreAt w.partner with
    | some d => if w.stage = stage then some (s.core, d, w) else none
    | none => none
def State.setStage (stage : SwapStage) (a b : Coord) (s : State) : State :=
  let f (x : Core) : Core := { x with swap := x.swap.map fun w => { w with stage := stage } }
  (s.mapAt a f).mapAt b f
/-- Every issued instruction of the core has completed its effect on group state (R217). -/
def Core.quiet (c : Core) : Bool :=
  c.tags.isEmpty && [(0 : SlotId), 1, 2, 3].all fun k => (c.grp.slot k).progress != .sealing
/-- The freeze is complete in cycles; an access whose miss is open is evaluated again later (R247). -/
def Core.dropMiss (c : Core) : Core := { c with misses := [] }
/-- SWAP_FREEZE_END (R217): R213 is tested again, and the swap aborts if the pair would now be skipped. -/
def execSwapFreezeEnd (s : State) : Result :=
  .next (match s.pairAt .locked with
    | none => s.stall
    | some (c, d, w) =>
      if !c.quiet || !d.quiet then s.stall
      else
        let s := (s.mapAt c.at_ Core.dropMiss).mapAt d.at_ Core.dropMiss
        -- a core whose group has left since the lock holds no resident group
        let left := if w.single then c.vacant == d.vacant else c.vacant || d.vacant
        if left || s.skippedIn false true c.at_ d.at_ c.grp d.grp then s.abortSwap else s.setStage .frozen c.at_ d.at_)
/-- An injection entry is settled (R218). -/
def InjEntry.settled (e : InjEntry) : Bool := match e.stage with | .bounced => true | .notice _ _ => true | _ => false
/-- The core is drained (R218, R271). -/
def Group.drained (g : Group) : Bool := g.log.isEmpty && g.inj.all (·.settled)
/-- SWAP_DRAIN_END (R218, R271). -/
def execSwapDrainEnd (s : State) : Result :=
  .next (match s.pairAt .frozen with
    | none => s.stall
    | some (c, d, _) => if c.grp.drained && d.grp.drained then s.setStage .drained c.at_ d.at_ else s.stall)
/-- A group at its new core (R201, R219): every instruction that it has issued has retired, and its old core has counted it (R118, R217). -/
def Group.movedTo (c : Coord) (g : Group) : Group :=
  let moves := BitVec.ofNat 32 (bits g.posn.toNat 31 0 + 1)
  { g with inFlight := 0, posn := BitVec.ofNat 64 (bits g.posn.toNat 63 52 * 2 ^ 52 + c.x * 2 ^ 42 + c.y * 2 ^ 32 + moves.toNat) }
/-- What a core becomes when a new group is installed: its caches start empty, and what the old group had in flight has retired (R118,
R148, R242, R244, R267). -/
def Core.install (w : Nat) (g : Group) (c : Core) : Core :=
  let c := c.retiresAll w
  { c with vacant := false, grp := g, tlb := [], view := [], frontier := [], tags := [], misses := [],
           fnCopies := Vector.replicate 4 none }
/-- Set a forward pointer; a core holds four, and a fifth displaces the oldest (R222). -/
def Core.addPointer (n : Name) (c : Coord) (now : Nat) (x : Core) : Core :=
  let l := x.forwards ++ [{ name := n, target := c, since := now }]
  { x with forwards := l.drop (l.length - 4) }
/-- The position updates of a group to the peers of its open channels (R219). -/
def State.sendPositions (g : Group) (c : Coord) (s : State) : State :=
  allChannels.foldl (fun s ch =>
    let e := g.chan ch
    if e.isOpen then s.atCore c (State.emitTo e.peer 0 (.position e.peer g.name ch c)) else s) s
/-- SWAP_INSTALL (R219): within 4,096 cycles of the lock (R220). DESIGN CHOICE (log 122): a launch that has ended since R213 was tested
for the last time leaves its core vacant, and the swap goes on: the other group moves there. DESIGN CHOICE (log 136): a swap of an evacuation counts in the
round that runs. -/
def execSwapInstall (s : State) : Result :=
  .next (match s.pairAt .drained with
    | none => s.stall
    | some (c, d, w) =>
      if w.since + 4096 ≤ s.cycle then s.stall
      else
        let a := c.at_
        let b := d.at_
        let g := c.grp
        let h := d.grp
        -- an evacuation changes a group with a vacant core (R395)
        let fill (v : Bool) (new : Group) (at_ : Coord) (x : Core) : Core :=
          if v then { x.vacate s.board.fwWidth with held := x.held, fills := x.fills, swap := x.swap }
          else x.install s.board.fwWidth (new.movedTo at_)
        let leave (v : Bool) (n : Name) (dst : Coord) (x : Core) : Core :=
          if v then x else (x.addPointer n dst s.cycle).learn n s.board.module dst
        let s := (s.mapAt a fun x => leave c.vacant g.name b (fill d.vacant h a x)).mapAt b fun x => leave d.vacant h.name a (fill c.vacant g b x)
        let dir (v : Bool) (g : Group) (n : Name) (dst at_ : Coord) (s : State) : State :=
          if v then s else s.emit { place := .directory, id := 0, source := at_, body := .dirUpdate n dst (bits (g.posn.toNat) 31 0) }
        let s := dir d.vacant (h.movedTo a) h.name a b (dir c.vacant (g.movedTo b) g.name b a s)
        -- the jobs that do not pin a group follow it (R213)
        let moved (j : Job) : Job :=
          if j.now = a ∧ j.owner = g.name then { j with now := b } else if j.now = b ∧ j.owner = h.name then { j with now := a } else j
        let s : State := { s with octets := s.octets.map fun o => { o with jobs := o.jobs.map moved } }
        let s := (s.sendPositions (g.movedTo b) b).sendPositions (h.movedTo a) a
        let s := (s.setStage .installed a b).mapAnn fun x => { x with accepted := x.accepted + 1 }
        (s.count 0x060 1 none).atCore b (State.count 0x060 1 none))
/-- SWAP_RESUME (R219): both cores resume, and what their ports held arrives. -/
def execSwapResume (s : State) : Result :=
  .next (match s.pairAt .installed with
    | none => s.stall
    | some (c, d, _) => (s.unlock c.at_).unlock d.at_)
/-- SWAP_ABORT (R220): 4,096 cycles after the lock, the swap has not reached install. -/
def execSwapAbort (s : State) : Result :=
  .next (match s.core.swap with
    | none => s.stall
    | some w => if w.stage ≠ .installed ∧ w.since + 4096 ≤ s.cycle then s.abortSwap else s.stall)
/-- FORWARD_POINTER_EXPIRY (R222). -/
def execForwardPointerExpiry (n : Nat) (s : State) : Result :=
  .next (match s.core.forwards[n]? with
    | none => s.stall
    | some f => if f.since + 4096 ≤ s.cycle then s.mapCore fun c => { c with forwards := listDrop c.forwards n } else s.stall)

/-! ## Round and commit ends (R215, R225, R226) -/

/-- A trace entry (R226). -/
def Annealer.entry (a : Annealer) : BitVec 256 :=
  BitVec.ofNat 256 (a.energy % 2 ^ 64 * 2 ^ 192 + a.round.toNat * 2 ^ 160 + a.accepted % 2 ^ 32 * 2 ^ 128 +
    a.rejected % 2 ^ 32 * 2 ^ 96 + a.busy % 2 ^ 32 * 2 ^ 64 + a.aborted % 2 ^ 32 * 2 ^ 32)
/-- ROUND_END (R215, R226). -/
def execRoundEnd (s : State) : Result :=
  let a := s.ann
  .next (if !a.inRound || a.phase < 4 || !a.pairs.isEmpty || s.swapping || s.updateOut Traffic.isPosition then s.stall
    else
      s.mapAnn fun a =>
        { a with ring := listSet a.ring a.head.toNat a.entry, head := a.head + 1, round := a.round + 1, inRound := false,
                 tempCurrent := BitVec.ofNat 32 (max a.floor.toNat (a.tempCurrent.toNat * a.alpha.toNat / 256)) })
/-- COMMIT_END (R225): every group stands at its target or 4,096 phases have run. DESIGN CHOICE (log 126): the round that runs then ends
with the commit, without a trace entry; one whose four phases are over ends first by itself. -/
def execCommitEnd (s : State) : Result :=
  let own := s.commitStops
  .next (if !s.commitOver || (own && (s.swapping || (decide (4 ≤ s.ann.phase) && s.ann.pairs.isEmpty))) then s.stall
    else s.mapAnn fun a =>
      { a with mode := .off, best := false, left := BitVec.ofNat 20 s.away, inRound := a.inRound && !own, pairs := if own then [] else a.pairs })

end Sys2Proof.Machine
end

