-- ==== Sys2Proof/Machine/Launches.lean ====
section
/-! DEFINITION. Launch queues and packets (spec 25 R384 to R389), the launch record (R158), admission, placement and the
creation of groups (spec 08 R150, R155, R160, R161), the sweeps and the end of a launch (R163, R164), the firmware's
updates (R392, R393) and partitions (R394). -/

namespace Sys2Proof.Machine

/-- The first number from `start` up that satisfies `p`, among `n`. -/
def firstFrom (p : Nat → Bool) (start : Nat) : Nat → Option Nat
  | 0 => none
  | n + 1 => if p start then some start else firstFrom p (start + 1) n

/-! ## Queues and completion (R385, R387, R389) -/

def State.queue? (id : Nat) (s : State) : Option LaunchQueue := s.queues.find? fun q => q.id = id
def State.mapQueue (id : Nat) (f : LaunchQueue → LaunchQueue) (s : State) : State :=
  { s with queues := s.queues.map fun q => if q.id = id then f q else q }
def State.mapLaunch (id : Nat) (f : Launch → Launch) (s : State) : State :=
  { s with launches := s.launches.map fun l => if l.id = id then f l else l }
/-- The completion record (R387), and after it vector 0 of the queue's function (R388). -/
def State.complete (queue off status launch kills error tail : Nat) (s : State) : State :=
  let bs := leBytes 4 status ++ leBytes 4 launch ++ leBytes 4 kills ++ leBytes 4 error ++ leBytes 8 tail ++ leBytes 8 s.cycle
  let s := s.writeMain off bs
  { s with interrupts := s.interrupts ++ ((s.queue? queue).map fun q => { port := q.port, fn := q.fn, vector := 0 }).toList }
/-- A function of a port (R384). -/
def State.function? (port fn : Nat) (s : State) : Option HostFunction := s.functions.find? fun f => f.port = port && f.number = fn
/-- LAUNCH_QUEUE_CREATE (R385): its notify page is a free 4 KiB page of a function's BAR0 (R384), a system queue's only of a physical one;
DESIGN CHOICE (log 123): the lowest. The queue is
that of a virtual function's partition (R384), or, on a physical function, of the focus core's; no packet has been taken. -/
def execLaunchQueueCreate (id base log2 : Nat) (owner : QueueOwner) (s : State) : Result :=
  let fn := owner.fn
  .next (match s.function? owner.port fn with
    | none => s.stall
    | some f =>
      let used (n : Nat) : Bool := s.queues.any fun q => q.port == owner.port && q.fn == fn && q.page == n
      match firstFrom (fun n => !used n) 0 Config.notifyPages with
      | none => s.stall
      | some page =>
      if 16 < log2 || (s.queue? id).isSome || (owner.system && fn != 0) || s.board.failed then s.stall
      else
        { s with queues := s.queues ++
          [{ id := id, part := if fn = 0 then s.part.id else f.part, port := owner.port, fn := fn, page := page, base := base, log2 := log2, system := owner.system,
             readIdx := 0, latched := 0, pending := false, announced := 0, gated := false, stopped := false, pendingRel := [] }] })
/-- The latch hands what it holds to the processor, unless the aperture is gated (R389). -/
def LaunchQueue.handOver (q : LaunchQueue) : LaunchQueue :=
  if q.pending && !q.gated then { q with announced := q.latched, pending := false } else q
/-- NOTIFY_WRITE (R389): the latch keeps the last index written, whether or not the aperture is gated. -/
def execNotifyWrite (queue : Nat) (index : BitVec 32) (s : State) : Result :=
  .next (if (s.queue? queue).isNone then s.stall
    else s.mapQueue queue fun q => ({ q with latched := index, pending := true } : LaunchQueue).handOver)
/-- APERTURE_GATE (R389). -/
def execApertureGate (queue : Nat) (s : State) : Result :=
  .next (if (s.queue? queue).isNone then s.stall else s.mapQueue queue fun q => { q with gated := true })
/-- APERTURE_WAKE (R389): the latch's index reaches the processor. -/
def execApertureWake (queue : Nat) (s : State) : Result :=
  .next (if (s.queue? queue).isNone then s.stall else s.mapQueue queue fun q => ({ q with gated := false } : LaunchQueue).handOver)
/-- HOST_BAR2_ACCESS (R384, R392): eight bytes of main memory at their home, within the function's DMA window; a read gives the host
its data. -/
def execHostBar2Access (write : Bool) (at_ : BarAddress) (value : Word) (s : State) : Result :=
  .next (match s.function? at_.port at_.fn with
    | none => s.stall
    | some f =>
      let offset := at_.offset
      if offset < f.base || f.base + f.size < offset + 8 then s.stall
      else if write then s.writeMain offset (leBytes 8 value.toNat)
      else { s with hostData := BitVec.ofNat 64 (s.mainNat offset 8) })

/-! ## The launch record (R158) -/

/-- The fields of a launch packet (R386). -/
structure PacketFields where
  kind : Nat
  fence : Nat
  arglen : Nat
  twin : Nat
  gang : Nat
  record : Nat
  args : Nat
  completion : Nat
  save : Nat
  saveSize : Nat
  reserved : Nat
  deriving DecidableEq, Repr
def State.packetFields (s : State) (off : Nat) : PacketFields :=
  let f (o n : Nat) : Nat := s.mainNat (off + o) n
  { kind := f 0 1, fence := f 1 1, arglen := f 2 2, twin := f 4 2, gang := f 6 1, record := f 8 8, args := f 16 8,
    completion := f 24 8, save := f 32 8, saveSize := f 40 8, reserved := f 7 1 + f 48 16 }
/-- The limits of R386, but for the record's. -/
def PacketFields.ok (p : PacketFields) (gangs : Nat) : Bool :=
  p.kind ≤ 2 && p.fence < 4 && p.arglen ≤ 128 && (p.kind == 1 || p.twin == 0) && p.gang < gangs && p.reserved == 0 &&
  p.record % 64 == 0 && p.completion % 32 == 0 && p.save % 4096 == 0 &&
  [p.record, p.args, p.completion, p.save].all (· < 2 ^ 39)
/-- A main-memory range lies in a main lease of a launch of the partition. -/
def Launch.mainHolds (l : Launch) (off n : Nat) : Bool :=
  l.leases.any fun e => e.kind == 2 &&
    (upTo ((off % 4096 + n + 4095) / 4096)).all fun i => e.frames.contains (mainAt (off / 4096 * 4096 + 4096 * i))
/-- A range lies in a lease or save area of the partition, or in what is mapped for the partition itself (R386; log 82). -/
def State.rangeOk (s : State) (part off n : Nat) : Bool :=
  let within (base size : Nat) : Bool := decide (base ≤ off) && decide (off + n ≤ base + size)
  (s.partById part).mapped.any (fun r => within r.1 r.2) ||
    s.launches.any fun l => l.part == part && !l.ended && (within l.saveBase l.saveSize || (l.admitted && l.mainHolds off n))
/-- A launch's shared space maps a byte of a range of main memory. -/
def State.leased (off n : Nat) (s : State) : Bool :=
  s.launches.any fun l => l.admitted && !l.ended && l.leases.any fun e =>
    e.kind != 0 && e.frames.any fun f => overlaps (s.norm f) 4096 (mainAt off) n
/-- Each offset of a packet lies where R386 lets it, and no launch's space maps its save area (R360); a packet without a record, or without arguments, names none there. -/
def State.offsetsOk (s : State) (part : Nat) (p : PacketFields) : Bool :=
  (p.kind == 0 || s.rangeOk part p.record (if p.kind = 1 then 1120 else 32)) && (p.arglen == 0 || s.rangeOk part p.args p.arglen) &&
    s.rangeOk part p.completion 32 && (p.saveSize == 0 || (s.rangeOk part p.save p.saveSize && !s.leased p.save p.saveSize))
/-- A launch's save area has a frame for every group: any of them can be parked or pre-empted (R360, R386; log 52). -/
def State.saveOk (s : State) (p : PacketFields) : Bool :=
  p.kind != 1 || decide (Config.saveFrame * s.mainNat (p.record + 4) 4 ≤ p.saveSize)

def State.readLevels (s : State) (r n : Nat) : List (Level × Nat) :=
  (upTo n).map fun i =>
    let a := r + 32 + 8 * i
    ({ count := s.mainNat a 4, domain := s.mainNat (a + 4) 1, fence := s.mainNat (a + 5) 1 }, s.mainNat (a + 6) 2)
def State.readChannels (s : State) (a n : Nat) : List ChannelDecl :=
  (upTo n).map fun i =>
    let c := a + 8 * i
    { chan := s.mainNat c 1, kind := s.mainNat (c + 1) 1, weight := s.mainNat (c + 2) 1, queue := s.mainNat (c + 3) 1,
      peer := s.mainNat (c + 4) 4 }
/-- Kind i of a record: its fields, its image's size, and its reserved bytes. -/
def State.readKind (s : State) (r i : Nat) : Kind × Nat × Nat × Nat :=
  let a := r + 96 + 32 * i
  let e := s.mainNat (a + 8) 4
  let entry := if e = 0xFFFFFFFF then s.mainNat (r + 8) 4 else e
  let size := s.mainNat (a + 16) 4
  let nch := s.mainNat (a + 24) 1
  ({ first := s.mainNat a 4, count := s.mainNat (a + 4) 4, entry := BitVec.ofNat 24 entry,
     image := Memory.ofBytes (s.mem.readN (mainAt (r + s.mainNat (a + 12) 4)) (min size 0x8000)),
     channels := s.readChannels (r + s.mainNat (a + 20) 4) (min nch 64) }, size, nch, s.mainNat (a + 25) 7 + entry / 2 ^ 24)
/-- Lease i of a record, its image's size, and its reserved bytes. -/
def State.readLease (s : State) (r i : Nat) : Lease × Nat × Nat :=
  let a := r + 608 + 32 * i
  let size := s.mainNat (a + 16) 8
  let n := s.mainNat (a + 28) 4
  ({ kind := s.mainNat a 1, module := s.mainNat (a + 2) 2, base := s.mainNat (a + 8) 8, size := size, frames := [],
     image := s.mem.readN (mainAt (r + s.mainNat (a + 24) 4)) (min n size) }, n, s.mainNat (a + 1) 1 + s.mainNat (a + 4) 4)
/-- Entries beyond the counts are zero (R158). -/
def State.unusedZero (s : State) (r nl nk ne : Nat) : Bool :=
  s.mainNat (r + 32 + 8 * nl) (64 - 8 * nl) == 0 && s.mainNat (r + 96 + 32 * nk) (512 - 32 * nk) == 0 &&
    s.mainNat (r + 608 + 32 * ne) (512 - 32 * ne) == 0
/-- No domain is narrower than that of the level below (R65). -/
def widening : List Level → Bool
  | a :: b :: rest => decide (a.domain ≤ b.domain) && widening (b :: rest)
  | _ => true
/-- The kinds cover every ordinal exactly once (R66); a kind of no ordinal is refused (log 78). -/
def coverOnce (groups : Nat) (ks : List Kind) : Bool :=
  let sum := ks.foldl (fun n k => n + k.count) 0
  sum == groups && ks.all (fun k => decide (1 ≤ k.count) && decide (k.first + k.count ≤ groups)) &&
    (upTo ks.length).all fun i => (upTo i).all fun j =>
      match ks[i]?, ks[j]? with
      | some a, some b => !overlaps a.first a.count b.first b.count
      | _, _ => true
/-- No number stands twice in a list. -/
def noRepeat : List Nat → Bool
  | [] => true
  | x :: rest => !rest.contains x && noRepeat rest
/-- The limits of a channel list (R68, R158). -/
def channelsOk (groups : Nat) (cs : List ChannelDecl) : Bool :=
  noRepeat (cs.map (·.chan)) && noRepeat ((cs.filter fun c => c.kind = 1).map (·.queue)) &&
    cs.all fun c => decide (c.chan ≤ 63) && decide (c.kind ≤ 2) && decide (1 ≤ c.weight) && decide (c.weight ≤ 15) &&
      decide (c.queue ≤ 7) && (c.kind == 1 || c.queue == 0) && decide (c.peer < groups)
/-- The limits of a lease (R69, R158, R250). DESIGN CHOICE (log 114): a lease of any kind may have an image, which is written to it, though
R70 has sections for pool and cistern leases alone. -/
def leaseOk (pod : List Nat) (levels : List Level) (e : Lease × Nat × Nat) : Bool :=
  let l := e.1
  decide (l.kind ≤ 4) && l.base % 4096 == 0 && l.size % 4096 == 0 && decide (4096 ≤ l.size) && decide (l.base + l.size ≤ 2 ^ 48) &&
    decide (e.2.1 ≤ l.size) && e.2.2 == 0 && (if l.kind = 4 then pod.contains l.module else l.module == 0) &&
    (l.kind != 0 || (decide (l.size ≤ 0x10000) && match levels with | v :: _ => decide (v.domain ≤ 1) | [] => false))
def leasesApart (ls : List Lease) : Bool :=
  (upTo ls.length).all fun i => (upTo i).all fun j =>
    match ls[i]?, ls[j]? with | some a, some b => !overlaps a.base a.size b.base b.size | _, _ => true

/-! ## Domain instances and cores (R159, R160) -/

/-- The dies of a partition. -/
def State.partDies (s : State) (part : Nat) : List Nat :=
  (upTo 64).filter fun d => (s.partAt { x := d % 8 * 104, y := d / 8 * 100 }).id == part
/-- Every nonzero byte of a kind's image stands where a source may place one: a handler entry of the types 0x00 to 0xEF and 0xFD to
0xFF, or user_base and up, below log_base (R67, R70). DEDUCED (log 80): what an entry holds is not tested. -/
def imageOk (mbox spill logarea : Nat) (image : Memory) : Bool :=
  image.all fun c =>
    (decide (0x400 ≤ c.1) && decide (c.1 < 0x7C0)) || (decide (0x7F4 ≤ c.1) && decide (c.1 < 0x800)) ||
      (decide (0x800 + 160 * mbox ≤ c.1) && decide (c.1 < 0x8000 - spill - logarea))
/-- A core that a group may be placed on (R10, R395). -/
def State.placeable (s : State) (part : Nat) (c : Coord) : Bool :=
  decide (4 * s.board.fwWidth ≤ c.x) && decide (c.x < Config.columns) && decide (c.y < Config.rows) && (s.partAt c).id == part &&
    match s.coreAt c with | some x => !x.retired && x.evacuating.isNone | none => true
def State.isFree (s : State) (part : Nat) (c : Coord) : Bool :=
  s.placeable part c && match s.coreAt c with | some x => x.vacant && x.swap.isNone | none => true
/-- The box of instance i of a domain: its corner, width and height (R9). -/
def boxOf (d i : Nat) : Nat × Nat × Nat × Nat :=
  match d with
  | 0 => (i / 2 % 208 * 4, i / 2 / 208 * 4 + i % 2 * 2, 4, 2)
  | 1 => (i % 208 * 4, i / 208 * 4, 4, 4)
  | 2 => (i % 8 * 104, i / 8 * 100, 104, 100)
  | _ => (0, 0, Config.columns, Config.rows)
/-- Core j of a box in ascending (y, x). -/
def boxCore (b : Nat × Nat × Nat × Nat) (j : Nat) : Coord := { x := b.1 + j % b.2.2.1, y := b.2.1 + j / b.2.2.1 }
/-- The first core of an instance that satisfies `p`. -/
def firstCoreOf (d i : Nat) (p : Coord → Bool) : Option Coord :=
  let b := boxOf d i
  (firstFrom (fun j => p (boxCore b j)) 0 (b.2.2.1 * b.2.2.2)).map (boxCore b)
/-- How many instances of a domain the module has. -/
def instanceCount (d : Nat) : Nat := match d with | 0 => 83200 | 1 => 41600 | 2 => 64 | _ => 1
/-- Instance i of domain d lies in instance pi of domain pd, and in the partition (R160). DEDUCED (log 54): the device or the pod is an
instance also of a partition that holds only some of its dies. -/
def State.liesIn (s : State) (part d i pd pi : Nat) : Bool :=
  let b := boxOf d i
  let c : Coord := { x := b.1, y := b.2.1 }
  domainOf pd c == (if 2 < pd then 0 else pi) && (decide (2 < d) || (s.partAt c).id == part)
/-- A level's units, in the order of their parents: each takes the lowest-numbered instance in its parent's that no other
has taken, or its parent's own instance when the domains are the same (R160). -/
def State.takeUnits (s : State) (part d pd : Nat) (taken : List Nat) : List Nat → Option (List Nat)
  | [] => some []
  | p :: rest =>
    if d = pd then (State.takeUnits s part d pd taken rest).map (p :: ·)
    else
      match firstFrom (fun i => s.liesIn part d i pd p && !taken.contains i) 0 (instanceCount d) with
      | none => none
      | some i => (State.takeUnits s part d pd (i :: taken) rest).map (i :: ·)
/-- The level-1 instances, from the highest level down (R160); `levels` has the highest first. -/
def State.takeLevels (s : State) (part : Nat) : List Level → Nat → List Nat → Option (List Nat)
  | [], _, units => some units
  | l :: lower, pd, units =>
    let d := l.domain
    match s.takeUnits part d pd [] units with
    | none => none
    | some us =>
      match lower with
      | [] => some us
      | _ :: _ => State.takeLevels s part lower d (us.flatMap fun u => List.replicate l.count u)
/-- The instances of the level-1 units; a launch without levels has none. The highest level's units lie in the partition. -/
def State.instancesFor (s : State) (part groups : Nat) (levels : List Level) : Option (List Nat) :=
  if levels.isEmpty then some []
  else
    let top := levels.foldl (fun n l => n / l.count) groups
    s.takeLevels part levels.reverse 5 (List.replicate top 0)
/-- The cores where an ordinal of the launch may stand, by its level-1 instance. -/
def Launch.mayStand (l : Launch) (ord : Nat) (c : Coord) : Bool :=
  match l.levels, l.instances[ord / l.unitSize 1]? with
  | v :: _, some i => domainOf v.domain c == (if 2 < v.domain then 0 else i)
  | _, _ => true
/-- The cores that hold a group. -/
def State.occupied (s : State) : Nat := (s.cores.filter fun c => !c.vacant).length
/-- The first core, in ascending (y, x), where a group of the launch may be placed (R160). -/
def State.coreFor (s : State) (l : Launch) (ord : Nat) (also : Coord → Bool) : Option Coord :=
  let d := match l.levels with | v :: _ => min v.domain 3 | [] => 3
  firstCoreOf d (l.instances[ord / l.unitSize 1]?.getD 0) fun c => s.isFree l.part c && also c

/-! ## Packets (R386, R388) -/

/-- The launch that a record asks for, if it is valid (R158, R64 to R70, R160). An entry may name any code word address, in the
image or past it (R64; log 79). -/
def State.parseLaunch (s : State) (q : LaunchQueue) (p : PacketFields) : Option Launch :=
  let r := p.record
  let groups := s.mainNat (r + 4) 4
  let mbox := s.mainNat (r + 12) 2
  let spill := s.mainNat (r + 14) 2
  let logarea := s.mainNat (r + 16) 2
  let nl := s.mainNat (r + 18) 1
  let nk := s.mainNat (r + 19) 1
  let ne := s.mainNat (r + 20) 1
  let codeOff := s.mainNat (r + 24) 4
  let words := s.mainNat (r + 28) 4
  let head := s.mainNat r 4 == 1 && decide (1 ≤ groups) && decide (groups ≤ 1048576) && decide (1 ≤ mbox) && decide (mbox ≤ 64) &&
    decide (spill ≤ 16384) && spill % 8 == 0 && decide (logarea ≤ 8192) && logarea % 64 == 0 &&
    decide (0x800 + 160 * mbox + spill + logarea ≤ 0x8000) && decide (nl ≤ 8) && decide (1 ≤ nk) && decide (nk ≤ 16) &&
    decide (ne ≤ 16) && s.mainNat (r + 21) 3 == 0 && codeOff % 4 == 0 && decide (1 ≤ words) && decide (words ≤ 2 ^ 24) &&
    decide (s.mainNat (r + 8) 4 < 2 ^ 24)
  if !head then none
  else
    let levels := s.readLevels r nl
    let lv := levels.map (·.1)
    let kinds := (upTo nk).map (s.readKind r)
    let leases := (upTo ne).map (s.readLease r)
    let ok := s.unusedZero r nl nk ne &&
      levels.all (fun e => decide (1 ≤ e.1.count) && decide (e.1.count ≤ groups) && decide (e.1.domain ≤ 4) && decide (e.1.fence ≤ 1) && e.2 == 0) &&
      widening lv && (lv.isEmpty || lv.foldl (fun n v => n * v.count) 1 == groups) && coverOnce groups (kinds.map (·.1)) &&
      kinds.all (fun k => decide (k.2.1 + spill + logarea ≤ 0x8000) && decide (k.2.2.1 ≤ 64) && k.2.2.2 == 0 && channelsOk groups k.1.channels &&
        imageOk mbox spill logarea k.1.image) &&
      leases.all (leaseOk s.board.pod lv) && leasesApart (leases.map (·.1))
    if !ok then none
    else
      match s.instancesFor q.part groups lv with
      | none => none
      | some is =>
        some
          { id := s.nextLaunch, part := q.part, groups := groups, base := 0, gen := 0, mbox := mbox, spill := spill,
            logArea := logarea, levels := lv, kinds := kinds.map (·.1), leases := leases.map (·.1),
            code := (upTo words).map fun i => BitVec.ofNat 32 (s.mainNat (r + codeOff + 4 * i) 4),
            args := s.mem.readN (mainAt p.args) p.arglen, sys := q.system, twin := BitVec.ofNat 16 p.twin, gang := p.gang,
            saveBase := p.save, saveSize := p.saveSize, completion := p.completion, queue := q.id, rel := p.fence.testBit 1,
            kills := 0, instances := is, unplaced := [], admitted := false, sample := none, previous := none, ended := false }
/-- The queue whose next packet may be taken: it has one announced, no stop, and no slice change is under way (R366, R389). -/
def State.packetDue (queue : Nat) (s : State) : Option (LaunchQueue × PacketFields) :=
  match s.queue? queue with
  | none => none
  | some q =>
    if q.stopped || q.announced == q.readIdx || (s.partById q.part).gang.changing then none
    else some (q, s.packetFields (q.base + 64 * (q.readIdx.toNat % 2 ^ q.log2)))
/-- More packets announced than the ring holds stop the queue (R389). -/
def LaunchQueue.overrun (q : LaunchQueue) : Bool := decide (2 ^ q.log2 < (q.announced - q.readIdx).toNat)
/-- The packet at the read index has been taken. -/
def State.taken (queue : Nat) (s : State) : State := s.mapQueue queue fun q => { q with readIdx := q.readIdx + 1 }
/-- A packet with acq waits for every earlier one with rel (R388). -/
def LaunchQueue.fenced (q : LaunchQueue) (p : PacketFields) : Bool := p.fence.testBit 0 && !q.pendingRel.isEmpty
/-- An earlier launch of the queue has not started: a packet that is no launch waits for it (R388). -/
def State.unstarted (queue : Nat) (s : State) : Bool := s.launches.any fun x => x.queue == queue && !x.admitted && !x.ended
/-- LAUNCH_PACKET (R386, R388, R389): the packet at the read index is refused, completes at once (no-op), or becomes a
launch that waits for its admission. A collective packet is taken by POD_COLLECTIVE_PACKET. -/
def execLaunchPacket (queue : Nat) (s : State) : Result :=
  .next (match s.packetDue queue with
    | none => s.stall
    | some (q, p) =>
      if q.overrun then (s.mapQueue queue fun q => { q with stopped := true }).complete queue p.completion 1 0 0 0 0
      else if !p.ok (s.partById q.part).gang.gangs || !s.offsetsOk q.part p || !s.saveOk p then (s.taken queue).complete queue p.completion 1 0 0 0 0
      else if p.kind = 2 || q.fenced p || (p.kind = 0 && s.unstarted queue) then s.stall
      else if p.kind = 0 then (s.taken queue).complete queue p.completion 0 0 0 0 0
      else
        match s.parseLaunch q p with
        | none => (s.taken queue).complete queue p.completion 1 0 0 0 0
        | some l =>
          let t := s.taken queue
          ({ t with launches := t.launches ++ [l], nextLaunch := t.nextLaunch + 1 } : State).mapQueue queue fun q =>
            if l.rel then { q with pendingRel := q.pendingRel ++ [l.id] } else q)

/-! ## Names (R150) -/

/-- May an index be issued: free, and released 2^28 cycles ago if it was issued before? -/
def State.indexFree (s : State) (i : Nat) : Bool :=
  match s.indexes.find? (fun e => e.1 = i) with
  | none => true
  | some (_, _, none) => false
  | some (_, _, some t) => decide (t + 2 ^ 28 ≤ s.cycle)
/-- The indexes of a run that have been issued before. -/
def State.carried (s : State) (b n : Nat) : List (BitVec 8) :=
  (s.indexes.filter fun e => decide (b ≤ e.1) && decide (e.1 < b + n)).map (·.2.1)
/-- No index of the run stands in the way. -/
def State.runFree (s : State) (b n : Nat) : Bool :=
  decide (b + n ≤ 2 ^ 20) && s.indexes.all fun e => !(decide (b ≤ e.1) && decide (e.1 < b + n)) || s.indexFree e.1
/-- The generation for a run: the first after the last issued one that none of its indexes carried last. -/
def State.genFor (s : State) (b n : Nat) : Option (BitVec 8) :=
  (firstFrom (fun k => !(s.carried b n).contains (s.lastGen + BitVec.ofNat 8 k)) 1 256).map fun k => s.lastGen + BitVec.ofNat 8 k
/-- The run and generation that admission issues to n groups, if any can be issued. -/
def State.issueNames (s : State) (n : Nat) : Option (Nat × BitVec 8) :=
  (firstFrom (fun b => s.runFree b n && (s.genFor b n).isSome) 0 (2 ^ 20)).bind fun b => (s.genFor b n).map fun g => (b, g)

/-! ## Memory for a launch (R243, R249, R250, R261) -/

def State.liveLaunches (s : State) : List Launch := s.launches.filter fun l => l.admitted && !l.ended
/-- The cluster of every instance of a launch whose level 1 is an octet or a cluster. -/
def Launch.clusters (l : Launch) : List Nat :=
  match l.levels with
  | v :: _ => if v.domain = 0 then distinct (l.instances.map (· / 2)) else if v.domain = 1 then distinct l.instances else []
  | [] => []
/-- The pool offsets in use in a cluster that the launch shares with another. -/
def State.poolUsed (s : State) (l : Launch) : List (Nat × Nat) :=
  (s.liveLaunches.filter fun x => x.clusters.any l.clusters.contains).flatMap fun x =>
    (x.leases.filter (·.kind = 0)).flatMap fun e => e.frames.map fun f => (f, 4096)
/-- The ranges in use elsewhere: private areas, save areas and the kill rings, which no launch's space maps (R243, R261, R349, R360),
and the leases' frames. -/
def State.memUsed (s : State) : List (Nat × Nat) :=
  s.areas.map (fun a => (a.2.1, a.2.2)) ++ [(mainAt (2 ^ 39 - 2 ^ 22), 2 ^ 22)] ++
    (s.launches.filter fun l => !l.ended).map (fun l => (mainAt l.saveBase, l.saveSize)) ++
    s.liveLaunches.flatMap fun x => (x.leases.filter (·.kind ≠ 0)).flatMap fun e => e.frames.map fun f => (s.norm f, 4096)
/-- The addressable page p of the partition's cistern, counted slice by slice. -/
def State.cisternPage (s : State) (part p : Nat) : Nat :=
  let dies := s.partDies part
  let k := p % (650 * dies.length)
  let d := dies[k / 650]?.getD 0
  0x200000000 + (208 * (25 * (d / 8) + k % 650 / 26) + 26 * (d % 8) + k % 26) * 0x40000 + p / (650 * dies.length) * 4096
/-- The space that pages of a kind of lease come from: how many pages, and the address of each (R250). -/
def State.pageSpace (s : State) (part : Nat) (e : Lease) : Nat × (Nat → Nat) :=
  match e.kind with
  | 0 => (16, fun p => 4096 * p)
  | 1 => (650 * (s.partDies part).length * (2 * (s.partById part).cistArea), s.cisternPage part)
  | 2 => (2 ^ 27, fun p => 0x1000000000 + 4096 * p)
  | 3 => (2 ^ 30, fun p => 0x100000000000 + 4096 * p)
  | _ => (2 ^ 27, fun p => 0x8000000000000 + e.module * 2 ^ 39 + 4096 * p)
/-- A free page: the one the scheduler prefers, or the next free one after it. -/
def State.freePage (s : State) (space : Nat × (Nat → Nat)) (used : List (Nat × Nat)) (pref : Nat) : Option Nat :=
  let blocked := used.foldl (fun n u => n + u.2 / 4096 + 1) 0
  if space.1 = 0 then none
  else
    (firstFrom (fun i => !used.any fun u => overlaps (s.norm (space.2 ((pref + i) % space.1))) 4096 u.1 u.2) 0 (min (blocked + 1) space.1)).map
      fun i => space.2 ((pref + i) % space.1)
/-- Frames for pages k and on of a lease. -/
def State.framesFor (s : State) (l : Launch) (e : Lease) (which : Nat) (used : List (Nat × Nat)) (k : Nat) : Nat → Option (List Nat)
  | 0 => some []
  | n + 1 =>
    match s.freePage (s.pageSpace l.part e) used (Config.preferred l.id which k) with
    | none => none
    | some f => (State.framesFor s l e which ((s.norm f, 4096) :: used) (k + 1) n).map (f :: ·)
/-- Frames for every lease of a launch, if all can be made resident (R249). -/
def State.backLeases (s : State) (l : Launch) (pool mem : List (Nat × Nat)) (which : Nat) : List Lease → Option (List Lease)
  | [] => some []
  | e :: rest =>
    match s.framesFor l e which (if e.kind = 0 then pool else mem) 0 (e.size / 4096) with
    | none => none
    | some fs =>
      let used := fs.map fun f => (s.norm f, 4096)
      (State.backLeases s l (if e.kind = 0 then used ++ pool else pool) (if e.kind = 0 then mem else used ++ mem) (which + 1) rest).map
        ({ e with frames := fs } :: ·)
/-- A lease's image is written to it; a pool's to that of each cluster of the launch (R249, R250). -/
def State.writeImage (l : Launch) (e : Lease) (s : State) : State :=
  let put (s : State) (cluster : Nat) : State :=
    (upTo ((e.image.length + 4095) / 4096)).foldl (fun s i => s.writeHome (e.frame cluster i) ((e.image.drop (4096 * i)).take 4096)) s
  if e.kind = 0 then l.clusters.foldl put s else put s 0
/-- A private area in main memory, aligned to its size's granule: 8 pages for an overflow area, one for a log area; none while no
place is free (R243). -/
def State.newArea (l : Launch) (which part size align : Nat) (s : State) : Option (Nat × State) :=
  let used := s.memUsed
  let slots := 2 ^ 39 / align
  let pref := Config.preferred l.id which part % slots
  let blocked := used.foldl (fun n u => n + (u.2 + size) / align + 2) 0
  let at_ (i : Nat) : Nat := 0x1000000000 + (pref + i) % slots * align
  (firstFrom (fun i => decide (at_ i + size ≤ 0x9000000000) && !used.any fun u => overlaps (at_ i) size u.1 u.2) 0 (blocked + size / align + 1)).map
    fun i => (at_ i, { s with areas := s.areas ++ [(l.id, at_ i, size)] })

/-! ## Creating a group (R29, R155, R160) -/

/-- The kind of an ordinal. -/
def Launch.kindOf (l : Launch) (ord : Nat) : Option Kind := l.kinds.find? fun k => k.first ≤ ord && ord < k.first + k.count
/-- The ordinal's kind is twin (R357, R386). -/
def Launch.isTwin (l : Launch) (ord : Nat) : Bool :=
  match l.kinds.findIdx? (fun k => k.first ≤ ord && ord < k.first + k.count) with
  | some i => l.twin.getLsbD i
  | none => false
def Launch.name (l : Launch) (device ord : Nat) : Name := BitVec.ofNat 40 (l.nameOf device ord)
/-- Open a declared channel as CHOPEN does (R68, R197). -/
def Launch.openChannel (l : Launch) (device : Nat) (g : Group) (c : ChannelDecl) : Group :=
  let n : BitVec 6 := BitVec.ofNat 6 c.chan
  let g := g.setChan n
    { txseq := 0, rxseq := 0, credits := if c.kind = 1 ∧ 4 ≤ c.queue then 32 else 0, queue := c.queue, weight := c.weight,
      kind := c.kind, isOpen := true, peer := l.name device c.peer }
  if c.kind = 1 then g.setQueue (BitVec.ofNat 3 c.queue) { Queue.reset with bound := true, chan := n } else g
/-- What a kind's image leaves in a well: the channel table holds only the channels that are opened (R167), and bits [26:24] of a
handler entry read as zero (R24). -/
def placedImage (image : Memory) : Memory :=
  placedBytes (image.filter fun c => decide (0x400 ≤ c.1))
/-- The state of a new group at a core; its counts take up those of its directory entry (R164, R185). -/
def Launch.newGroup (l : Launch) (device ord : Nat) (c : Coord) (spillOvf logOvf logLim sent consumed : Nat) : Group :=
  let k := l.kindOf ord
  let name := l.name device ord
  -- with an empty block every byte of the entry is zero (R233; log 95)
  let argument := if l.args.isEmpty then List.replicate 160 0 else (Msg.plain name name 0xF0 0 l.args).image
  let g : Group :=
    { Group.reset with
      well := Memory.writeN (placedImage ((k.map (·.image)).getD [])) (mboxAddr 0) argument
      self := name.setWidth 64
      posn := BitVec.ofNat 64 (device * 2 ^ 52 + c.x * 2 ^ 42 + c.y * 2 ^ 32)
      launchReg := BitVec.ofNat 64 (l.id % 2 ^ 32 * 2 ^ 32 + ord)
      mbox := .running :: List.replicate (l.mbox - 1) .free
      argument := true
      sent := sent
      consumed := consumed
      logArea := BitVec.ofNat 64 ((0x8000 - l.spill - l.logArea) * 2 ^ 16 + l.logArea)
      logOvf := BitVec.ofNat 64 logOvf
      logLim := BitVec.ofNat 64 logLim
      spillOvf := BitVec.ofNat 64 spillOvf
      sys := l.sys
      spill := l.spill
      launch := l.id }
  let g := ((k.map (·.channels)).getD []).foldl (l.openChannel device) g
  g.startMain ((k.map (·.entry)).getD 0)
/-- The number that the secondary of two replicas has for a job of the primary's (log 57). -/
def secondSerial (n : Nat) : Nat := n + 2 ^ 40
/-- The group with the secondary's numbers for the jobs that its records, its open batch and its own lent ranges name (R295, R357). -/
def Group.secondJobs (g : Group) : Group :=
  let part (p : JobPart) : JobPart := { p with serial := secondSerial p.serial }
  { g with
    jobSerial := secondSerial g.jobSerial
    openJobs := g.openJobs.map part
    records := g.records.map fun r => { r with parts := r.parts.map part }
    lent := g.lent.map fun r => { r with jobs := r.jobs.map fun j => if j.1 = g.name then (j.1, secondSerial j.2) else j } }
/-- What the open batch of a group lends in another's well its secondary's batch lends too (R295, R357). -/
def Group.lendTwice (n : Name) (g : Group) : Group :=
  if g.name = n then g
  else { g with lent := g.lent.map fun r => { r with jobs := r.jobs ++ (r.jobs.filter (·.1 = n)).map fun j => (j.1, secondSerial j.2) } }
/-- The same group as one of two replicas; the secondary's jobs have numbers of their own (R357). -/
def Group.asReplica (primary : Bool) (partner : Coord) (g : Group) : Group :=
  { (if primary then g else g.secondJobs) with
    twin := some { primary := primary, partner := partner, made := 0, matched := 0, hashes := [], waiting := [], records := [],
                   suspects := (g.twin.map (·.suspects)).getD [] } }
/-- Install a group on a core, with a second replica on another if one is named. The name cache starts empty at a resumption and at
a restart (R347, R363); a new group finds it as it stands. -/
def State.installGroup (fresh : Bool) (c : Coord) (second : Option Coord) (g : Group) (s : State) : State :=
  let put (c : Coord) (g : Group) (s : State) : State :=
    s.atCore c fun s => s.mapCore fun x => { (x.install s.board.fwWidth g) with names := if fresh then x.names else [] }
  match second with
  | none => put c g s
  | some d => put d (g.asReplica false c) (put c (g.asReplica true d) (s.mapGroups (Group.lendTwice g.name)))
/-- Launches leave the spares free for as many cores as an ordinal takes; only kills and retirement use them (R10; log 77, 87). -/
def State.hasRoom (l : Launch) (ord : Nat) (spare : Bool) (s : State) : Bool :=
  spare || decide (s.occupied + (if l.isTwin ord then 2 else 1) ≤ Config.guaranteed)
/-- A free core for an ordinal, and a second one, at a distance of 2 or more, for a twin (R160, R357). -/
def State.seat (l : Launch) (ord : Nat) (spare : Bool) (s : State) : Option (Coord × Option Coord) :=
  if !s.hasRoom l ord spare then none
  else
    match s.coreFor l ord fun _ => true with
    | none => none
    | some c =>
      if l.isTwin ord then (s.coreFor l ord fun d => decide (2 ≤ distance c d)).map fun d => (c, some d) else some (c, none)
/-- Create an ordinal on the first core where it may stand (R160), sealed if its name is (R350). None when there is no core, or no place for its private areas
(R243). -/
def State.placeNew (l : Launch) (ord : Nat) (spare : Bool) (s : State) : Option State :=
  let device := s.board.module
  let name := l.name device ord
  let lim := Config.logPages l.id % (2 ^ 18 + 1) * 4096
  match s.seat l ord spare, s.newArea l (2 ^ 20) ord 0x8000 0x8000 with
  | some (c, second), some (spill, t) =>
    (match t.newArea l (2 ^ 20 + 1) ord lim 4096 with
    | none => none
    | some (log, t) =>
      let e := s.dirEntry name
      let g := l.newGroup device ord c spill log lim ((e.map (·.sent)).getD 0) ((e.map (·.consumed)).getD 0)
      let t := t.installGroup true c second { g with sealed := (e.map (·.sealed)).getD false }
      some (t.mapDir name fun e => { e with residence := .resident c, moves := 0, sent := 0, consumed := 0 }))
  | _, _ => none
/-- Place every ordinal of a launch that finds a core, in ascending order; the others become unplaced (R160). -/
def State.placeAll (l : Launch) (s : State) : State :=
  (upTo l.groups).foldl (fun s o =>
    match s.placeNew l o false with
    | some t => t
    | none => s.mapLaunch l.id fun x => { x with unplaced := x.unplaced ++ [o] }) s
/-- A pre-empted group of the gang that runs in a partition can resume, and comes before new placements (R366, R367). -/
def State.resumesFirst (part : Nat) (s : State) : Bool :=
  s.frames.any fun x =>
    match s.launches.find? (fun l => l.id = x.grp.launch) with
    | some l => l.part == part && l.gang == (s.partById part).gang.current && !x.grp.stopped && !l.unplaced.contains x.grp.ordinal &&
        (s.seat l x.grp.ordinal false).isSome
    | none => false
/-- No launch of lower number of its queue still waits for admission (R160, R388). -/
def State.nextOf (l : Launch) (s : State) : Bool := !s.launches.any fun x => x.queue == l.queue && decide (x.id < l.id) && !x.admitted && !x.ended
/-- A launch whose partition no longer holds the instances of its levels is refused at its admission (R158, R160, R394): DEDUCED (log
54). -/
def State.refuseLaunch (l : Launch) (s : State) : State :=
  ((s.mapLaunch l.id fun l => { l with ended := true }).mapQueue l.queue fun q => { q with pendingRel := q.pendingRel.filter (· ≠ l.id) }).complete
    l.queue l.completion 1 0 0 0 0
/-- ADMISSION (R160): the launch of lowest number of its queue that waits, in its gang's slice, once its leases can be made
resident and its names issued; it takes its domain instances then, which the partition may have lost since its packet was taken; the
groups of its gang that were pre-empted resume first. During a slice change it is one of the gang
whose slice has ended, whose packet has been taken: the change waits for it (R366). -/
def execAdmission (launch : Nat) (s : State) : Result :=
  .next (match s.launches.find? (fun l => l.id = launch) with
    | none => s.stall
    | some l =>
      let gang := (s.partById l.part).gang
      if l.admitted || l.ended || l.gang ≠ (if gang.changing then gang.last else gang.current) ||
          (!gang.changing && s.resumesFirst l.part) || !s.nextOf l then s.stall
      else
        match s.instancesFor l.part l.groups l.levels with
        | none => s.refuseLaunch l
        | some is =>
        let l := { l with instances := is }
        match s.issueNames l.groups, s.backLeases l (s.poolUsed l) s.memUsed 0 l.leases with
        | some (b, gen), some leases =>
          let l := { l with base := b, gen := gen, leases := leases, admitted := true }
          let s := s.mapLaunch launch fun _ => { l with leases := leases.map fun (e : Lease) => { e with image := [] } }
          let device := s.board.module
          let s : State := { s with
            lastGen := gen
            indexes := ((upTo l.groups).map fun o => (b + o, gen, none)) ++
              s.indexes.filter fun e => !(decide (b ≤ e.1) && decide (e.1 < b + l.groups))
            directory := s.directory.filter (fun e => !(upTo l.groups).any fun o => e.name == l.name device o) ++
              (upTo l.groups).map fun o =>
                { name := l.name device o, residence := .unplaced, sealed := false, ended := false, moving := false, held := [],
                  moves := 0, awaits := 0, sent := 0, consumed := 0 } }
          let s := leases.foldl (fun s e => s.writeImage l e) s
          let s := s.placeAll l
          s.mapPart l.part fun p => { p with ann := { p.ann with reloadTemp := true } }
        | _, _ => s.stall)

/-! ## Save frames (R360, R386) -/

/-- The lowest free frame of a launch's save area, if it has one (R360, R386). -/
def State.freeFrame (s : State) (l : Launch) : Option Nat :=
  (firstFrom (fun i => !s.frames.any fun f => overlaps f.base Config.saveFrame (l.saveBase + Config.saveFrame * i) Config.saveFrame) 0 (l.saveSize / Config.saveFrame)).map
    fun i => l.saveBase + Config.saveFrame * i

/-! ## Resumption, parking and placement (R161, R363) -/

/-- Resume a saved group on a core (R363): the image is loaded, the caches start empty, the sump's queue is delivered, every
slot raises its event and the position follows the core. -/
def State.resume (name : Name) (c : Coord) (second : Option Coord) (x : SaveFrame) (s : State) : State :=
  let old : Coord := { x := bits x.grp.posn.toNat 51 42, y := bits x.grp.posn.toNat 41 32 }
  let g : Group := { (s.loadFrame x).resumeSlots with preempt := none, sysact := false }
  let g := if old = c then g else g.movedTo c
  let s : State := { s with frames := s.frames.filter fun y => decide (y.name ≠ name) }
  let s := s.installGroup false c second g
  let s := s.mapDir name fun e => { e with residence := .resident c, moves := bits g.posn.toNat 31 0 }
  let s := s.mapLaunch g.launch fun l => { l with unplaced := l.unplaced.filter (· ≠ g.ordinal) }
  s.deliverSump name c
/-- The gang of a launch runs, and no slice change is under way. -/
def State.gangRuns (l : Launch) (s : State) : Bool :=
  let g := (s.partById l.part).gang
  !g.changing && l.gang == g.current
/-- The first waiting group of a launch that finds a core (R161). -/
def State.nextPlaced (l : Launch) (s : State) : Option Nat :=
  l.unplaced.find? fun o => (s.seat l o false).isSome && !s.frames.any fun x => x.name == l.name s.board.module o && x.grp.stopped
/-- PLACE_UNPLACED (R161): the groups are placed in the order in which they became unplaced, after the pre-empted ones of the gang
have resumed (R367); one that was parked resumes. -/
def execPlaceUnplaced (launch : Nat) (s : State) : Result :=
  .next (match s.launches.find? (fun l => l.id = launch) with
    | none => s.stall
    | some l =>
      if !l.admitted || l.ended || !s.gangRuns l || s.resumesFirst l.part then s.stall
      else
        match s.nextPlaced l with
        | none => s.stall
        | some o =>
          let name := l.name s.board.module o
          match s.frames.find? (fun x => x.name = name), s.seat l o false with
          | some x, some (c, d) => s.resume name c d x
          | none, some (c, _) =>
            (match s.placeNew l o false with
            | some t => (t.mapLaunch launch fun l => { l with unplaced := l.unplaced.filter (· ≠ o) }).deliverSump name c
            | none => s.stall)
          | _, none => s.stall)
/-- The resident groups of a launch, by core. -/
def State.groupsOf (launch : Nat) (s : State) : List Core := s.cores.filter fun c => !c.vacant && !c.grp.isSecondary && c.grp.launch == launch
/-- The group that a waiting group displaces: in the instance that it needs, the one blocked longest that is not pinned and
not yet asked to park (R161); of several blocked equally long, the first in the model's list of cores (log 81). -/
def State.toPark (l : Launch) (ord : Nat) (s : State) : Option Core :=
  ((s.groupsOf l.id).filter fun c => l.mayStand ord c.at_ && !s.pinned c.grp && c.grp.preempt.isNone && !c.grp.ended && !c.grp.stopped).foldl
    (fun best c => match best with
      | none => some c
      | some b => if b.grp.blockedFor < c.grp.blockedFor then some c else some b) none
/-- The waiting groups for which no parking under way makes room: each waiter, in order, takes the first of the groups asked to park
that stands where it may (R161). -/
def Launch.unserved (l : Launch) : List Nat → List Coord → List Nat
  | [], _ => []
  | o :: rest, asked =>
    match asked.find? (l.mayStand o) with
    | some c => Launch.unserved l rest (asked.filter fun d => decide (d ≠ c))
    | none => o :: Launch.unserved l rest asked
/-- The group on a core has been blocked for 4,096 cycles (R161; log 81): no system activation of it runs but one that parks it. -/
def Core.longBlocked (c : Core) : Bool := decide (4096 ≤ c.grp.blockedFor) && (!c.grp.sysact || c.grp.preempt == some true)
/-- OVERSUBSCRIPTION_PARK (R161): every resident group of the launch has been blocked for 4,096 cycles, and groups wait; the
scheduler asks one to park for the first waiting group that no parking yet makes room for. -/
def execOversubscriptionPark (launch : Nat) (s : State) : Result :=
  .next (match s.launches.find? (fun l => l.id = launch) with
    | none => s.stall
    | some l =>
      let gs := s.groupsOf launch
      let asked := (gs.filter fun c => c.grp.preempt == some true).map (·.at_)
      if !s.gangRuns l || l.ended || !gs.all Core.longBlocked || (s.nextPlaced l).isSome then s.stall
      else
        match (l.unserved l.unplaced asked).findSome? fun o => s.toPark l o with
        | none => s.stall
        | some c => s.mapAt c.at_ fun x => { x with grp := { x.grp with preempt := some true } })

/-! ## Idleness, sweeps and the end of a launch (R163, R164) -/

/-- The group's log holds nothing that the launch must still see acknowledged (R163, R388). -/
def Group.logSettled (rel : Bool) (g : Group) : Bool := g.log.all fun e => !e.isRecord || (!rel && e.away && e.egress)
/-- R163; a group that a kill has stopped has still to restart, and is not idle (log 145). A group ended without restart counts as idle
once its log, which is replayed, is settled (R272, R348). A system activation keeps slot 3 busy (R341). -/
def State.groupIdle (rel : Bool) (g : Group) (s : State) : Bool :=
  (g.ended && g.logSettled rel) ||
    (!g.stopped && [(0 : SlotId), 1, 2, 3].all (fun k => !(g.slot k).active) && !g.sysact && !g.mbox.any EntryState.held &&
      [(4 : BitVec 3), 5, 6, 7].all (fun q => (g.queue q).words.isEmpty) && g.logSettled rel &&
      !s.octets.any fun o => o.jobs.any fun j => j.owner == g.name)
/-- The state of an ordinal's group, resident or saved. -/
def State.groupOf (l : Launch) (ord : Nat) (s : State) : Option Group :=
  let name := l.name s.board.module ord
  match s.holder name with
  | some c => some c.grp
  | none => (s.frames.find? fun x => x.name = name).map (·.grp)
/-- What a sweep finds of a launch (R164): are all groups idle, and the sums of sent and consumed. A group that has not been
created has still to run, and is not idle, unless it has ended (R348); its entry counts for it. -/
def State.sampleOf (l : Launch) (s : State) : Bool × Nat × Nat :=
  (upTo l.groups).foldl (fun acc o =>
    match s.groupOf l o with
    | some g => (acc.1 && s.groupIdle l.rel g, acc.2.1 + g.sent, acc.2.2 + g.consumed)
    | none =>
      match s.dirEntry (l.name s.board.module o) with
      | some e => (acc.1 && e.ended, acc.2.1 + e.sent, acc.2.2 + e.consumed)
      | none => (false, acc.2.1, acc.2.2)) (true, 0, 0)
/-- SWEEP_START (R164): CYCLE has passed a multiple of 65,536, and every result of the last sweep has arrived. -/
def execSweepStart (s : State) : Result :=
  let c := s.cycle / 65536 * 65536
  .next (if c ≤ s.lastSweep || s.launches.any (·.sample.isSome) then s.stall
    else
      { s with
        lastSweep := c
        launches := s.launches.map fun (l : Launch) => if l.admitted && !l.ended then { l with sample := some (s.sampleOf l) } else l })
/-- The launch ends (R164): its names and leases are released, the homes forget its writers (R258), its cores are free, and its
completion is written. -/
def State.endLaunch (l : Launch) (s : State) : State :=
  let device := s.board.module
  let cores := (s.cores.filter fun c => !c.vacant && c.grp.launch == l.id).map (·.at_)
  let s := cores.foldl (fun s c => s.leaveCore c) s
  let mine (n : Name) : Bool := (upTo l.groups).any fun o => n == l.name device o
  let s : State := { s with
    frames := s.frames.filter fun x => decide (x.grp.launch ≠ l.id)
    areas := s.areas.filter fun a => decide (a.1 ≠ l.id)
    collVectors := s.collVectors.filter fun v => decide (v.launch ≠ l.id)
    collFailures := s.collFailures.filter fun f => decide (f.coll.launch ≠ l.id)
    homeSeq := s.homeSeq.filter fun e => isEngineKey e.1 || !mine (e.1.setWidth 40)
    directory := s.directory.map fun (e : DirEntry) => if mine e.name then { e with residence := .released } else e
    indexes := s.indexes.map fun e => if decide (l.base ≤ e.1) && decide (e.1 < l.base + l.groups) then (e.1, e.2.1, some s.cycle) else e }
  let s := (s.mapLaunch l.id fun l => { l with ended := true, sample := none }).mapQueue l.queue fun q =>
    { q with pendingRel := q.pendingRel.filter (· ≠ l.id) }
  s.complete l.queue l.completion (if l.kills = 0 then 0 else 2) l.id l.kills 0 0
/-- SWEEP_RESULT (R164): two successive sweeps that find every group idle, sent equal to consumed and the same sums end the
launch. -/
def execSweepResult (launch : Nat) (s : State) : Result :=
  .next (match s.launches.find? (fun l => l.id = launch) with
    | none => s.stall
    | some l =>
      match l.sample with
      | none => s.stall
      | some x =>
        if x.1 && x.2.1 == x.2.2 && l.previous == some x then s.endLaunch l
        else s.mapLaunch launch fun l => { l with previous := some x, sample := none })

/-! ## Boot, updates, partitions and gangs (R392 to R394, R365) -/

/-- The partition that holds the dies no other lists, and the others, as a table gives them (R391, R394). -/
def Board.part0 (b : Board) : Partition :=
  match b.partitions.find? fun e => e.2.1.isEmpty with
  | some e => { Partition.reset e.1 [] with cistArea := e.2.2 }
  | none => Partition.reset 0 []
def Board.parts (b : Board) : List Partition :=
  (b.partitions.filter fun e => !e.2.1.isEmpty).map fun e => { Partition.reset e.1 e.2.1 with cistArea := e.2.2 }
/-- The functions at boot (R384): the physical ones, and a virtual one on each port for each partition, with the windows locked. After a
boot that has failed the physical ones alone, without a window, report the failure (R392). -/
def Board.functions (b : Board) : List HostFunction :=
  if b.failed then [{ HostFunction.reset 0 with size := 0 }, { HostFunction.reset 1 with size := 0 }]
  else b.windows.filter (·.number = 0) ++ (upTo 16).flatMap fun i =>
    match (b.part0 :: b.parts)[i]? with
    | some p => (b.windows.filter (·.number = i + 1)).map fun f => { f with part := p.id }
    | none => []
/-- MODULE_RESET (R391, R392): the machine as it boots, with what the signed table in the flash gives; the memories keep their bytes,
and the core tests find no core bad that the table does not list as retired (log 96). If the table or the firmware does not verify,
which is a free value (log 91), the table is absent, and the module holds its ports in reset and reports the failure. -/
def execModuleReset (s : State) : Result :=
  let verified := Config.verifies s.ticks
  let board := if verified then { s.flash with patches := [], preserved := none, locked := true, failed := false, slow := [] } else Board.absent
  let old (c : Coord) : Core := { Core.empty c with retired := true }
  let table := board.retired.foldr (fun c l => if l.contains c then l else c :: l) []
  .next { State.reset with
    others := (table.filter fun c => decide (c ≠ firstCore)).map old
    core := if table.contains firstCore then old firstCore else State.reset.core
    agenda := s.agenda, ticks := s.ticks, mem := s.mem, part0 := board.part0, parts := board.parts
    ptpOffset := s.ptpOffset
    ports := if verified then State.reset.ports else State.reset.ports.map fun (p : FabricPort) => { p with failed := true }
    functions := board.functions
    board := board
    flash := s.flash }
def State.retiredCores (s : State) : List Coord := (s.cores.filter (·.retired)).map (·.at_)
/-- KERNEL_REPLACEMENT (R391, R393): the new kernel, if its image is signed, adopts the preserved-state table of the old one; launches
in flight keep running. There is none to replace after a boot that has failed (R392). The cores retired since the last signed update enter the table (R395). -/
def execKernelReplacement (image : KernelImage) (s : State) : Result :=
  .next (if s.board.method ≠ .kernel || s.board.failed then s.stall
    else if !image.signed then s
    else
      { s with
        board := { s.board with
          kernel := image.version
          patches := []
          retired := s.retiredCores
          preserved := some
            { queues := s.queues.map (·.id), tables := s.liveLaunches.map fun l => (l.id, l.leases)
              connections := (upTo s.ports.length).filter fun i => match s.ports[i]? with | some p => !p.failed | none => false } }
        flash := { s.flash with kernel := image.version, retired := s.retiredCores } })
/-- HOT_PATCH (R391, R393): a patch for another base version, or whose image is not signed, is refused; it waits while a function that it
lists is active, and then replaces its entries of the function table, on every core of its role at once. The cores retired since the last
signed update enter the table (R395). -/
def execHotPatch (base : Nat) (image : PatchImage) (inactive : List Nat) (s : State) : Result :=
  .next (if s.board.method ≠ .patch || s.board.failed then s.stall
    else if base ≠ s.board.kernel || !image.signed then s
    else if inactive.any (Config.firmwareActive s.ticks) then s.stall
    else
      let kept := s.board.patches.filter fun e => !(e.1 == image.role && image.entries.any fun x => x.1 == e.2.1)
      { s with
        board := { s.board with patches := image.entries.map (fun x => (image.role, x)) ++ kept, retired := s.retiredCores }
        flash := { s.flash with retired := s.retiredCores } })
/-- The die of an octet (R9, R326). -/
def dieOfOctet (o : Nat) : Nat := dieOf { x := 4 * (o / 2 % 208), y := 4 * (o / 2 / 208) }
/-- The virtual function of lowest number that a port has free for a partition (R384), with the DMA window that the boot ROM has locked
for it: no firmware widens one (R392). -/
def State.virtualFor (part port : Nat) (s : State) : List HostFunction :=
  let window (n : Nat) : Option HostFunction :=
    if s.board.locked then s.board.windows.find? fun f => f.port = port && f.number = n else some { HostFunction.reset port with number := n }
  ((firstFrom (fun n => (s.function? port n).isNone && (window n).isSome) 1 16).bind window).map (fun f => { f with part := part }) |>.toList
/-- The firmware cores of a partition that the hypervisor configures: a supervisor, an annealer driver and a sump manager (R390); the
last cores of the column serve them (log 84). -/
def Board.partRoles (b : Board) (part : Nat) : List RoleEntry :=
  ([Role.supervisor, .annealerDriver, .sumpManager].zip [1, 2, 3]).map fun r =>
    { first := Config.rows * 4 * b.fwWidth - 3 * part - r.2, count := 1, role := r.1, part := part, classes := 0 }
/-- The dies whose cistern slices back a lease (R250, R394). -/
def State.cisternDies (s : State) : List Nat :=
  s.liveLaunches.flatMap fun l => (l.leases.filter (·.kind = 1)).flatMap fun e => e.frames.map fun f =>
    let k := (f - 0x200000000) / 0x40000
    dieOf { x := 4 * (k % 208), y := 4 * (k / 208) }
/-- The dies whose pools back a lease (R250, R394). -/
def State.poolDies (s : State) : List Nat :=
  (s.liveLaunches.filter fun l => l.leases.any (·.kind = 0)).flatMap fun l => l.clusters.map fun k => dieOf { x := 4 * (k % 208), y := 4 * (k / 208) }
/-- A partition that boots with these dies: its CISTAREA is the table's (R237, R391); log 3 names that of one the table does not list. -/
def Board.bootPartition (id : Nat) (dies : List Nat) (b : Board) : Partition :=
  { Partition.reset id dies with cistArea := ((b.partitions.find? fun e => e.1 = id).map (·.2.2)).getD 1 }
/-- PARTITION_CONFIG (R394): while the dies, and those that the partition gives up, hold no group, have no core in a swap and back no pool
or cistern lease; partitions have the numbers 0 to 63 (log 97). The partition boots its own system image, with a virtual function on each
port (R384) and firmware cores of its own (R390), and the sequence numbers of its engines start again (R326, R383); those of the
collective unit, which the partitions share, do so while it has no work (log 117). -/
def execPartitionConfig (part : Nat) (dies : List Nat) (s : State) : Result :=
  let held (d : Nat) : Bool := s.cores.any (fun c => (!c.vacant || c.swap.isSome) && dieOf c.at_ == d) || s.cisternDies.contains d || s.poolDies.contains d
  let given := ((s.parts.find? fun p => p.id = part).map (·.dies)).getD []
  .next (if (dies ++ given).any held || dies.any (fun d => decide (64 ≤ d)) || !noRepeat dies || part = s.part0.id || 64 ≤ part || s.board.failed then s.stall
    else
      let idle := !dies.isEmpty && s.colls.isEmpty && s.unitLog.isEmpty
      let others := (s.parts.filter fun p => decide (p.id ≠ part)).map fun (p : Partition) => { p with dies := p.dies.filter fun d => !dies.contains d }
      -- CYCLE runs on: the instants that its annealer counts begin now (R211)
      let booted (p : Partition) : Partition := { p with ann := { p.ann with instant := s.cycle } }
      let parts := (if dies.isEmpty then [] else [booted (s.board.bootPartition part dies)]) ++ others.filter fun p => !p.dies.isEmpty
      let there (id : Nat) : Bool := id == s.part0.id || (id != part && parts.any fun p => p.id == id)
      let s : State := { s with
        parts := parts
        octets := s.octets.map fun o => if dies.contains (dieOfOctet o.number) then { o with copyTail := 0 } else o
        unitTail := if idle then 0 else s.unitTail
        board := { s.board with roles := (if dies.isEmpty then [] else s.board.partRoles part) ++ s.board.roles.filter fun e => there e.part }
        functions := s.functions.filter fun f => f.number == 0 || there f.part }
      if dies.isEmpty then s else { s with functions := s.functions ++ s.virtualFor part 0 ++ s.virtualFor part 1 })
/-- PTP time in ns (R365): 27 cycles are 10 ns. -/
def State.ptpNow (s : State) : Int := (s.cycle * 10 / 27 : Nat) + s.ptpOffset
/-- The slice that a schedule is in, -1 before its first instant t0 (R365). -/
def State.sliceNow (s : State) (g : GangSchedule) : Int := max (-1) ((s.ptpNow - g.origin) / g.length)
/-- GANG_SCHEDULE_WRITE (R365): for the partition of the focus core; 1 ms to 10 s in whole ms, 1 to 64 gangs. The gang that runs goes on
until the next instant of the new schedule, which is due at once if t0 has passed (log 116). -/
def execGangScheduleWrite (origin length gangs : Nat) (s : State) : Result :=
  .next (if length < 1000000 || 10000000000 < length || length % 1000000 != 0 || gangs < 1 || 64 < gangs || s.board.failed then s.stall
    else s.mapPart s.part.id fun p => { p with gang := { p.gang with origin := origin, length := length, gangs := gangs, slice := -1 } })

end Sys2Proof.Machine
end

