-- ==== Sys2Proof/Machine/Fabric.lean ====
section
/-! DEFINITION. The scale-up fabric (spec 24 R373 to R379), collectives across modules (R380 to R383) and the performance
counters (spec 26 R398, R399). -/

namespace Sys2Proof.Machine

/-! ## Ports and flows (R374 to R376) -/

/-- The module that a packet leaves for, if it leaves this one: a message on its way, or an answer to a sender there. -/
def State.leavesFor (s : State) (p : Packet) : Option Nat :=
  match p.place with
  | .fabric m => some m
  | _ =>
    match p.body with
    | .msg _ => none
    | b => (b.to?.map deviceOf).bind fun d => if d = s.board.module then none else some d
/-- The port for a source core and h (R375): the live ports in ascending order, taken in turn. -/
def State.portFor (s : State) (c : Coord) (h : Nat) : Option Nat :=
  let live := (upTo s.ports.length).filter fun i => match s.ports[i]? with | some p => !p.failed | none => false
  if live.isEmpty then none else live[(clusterOf c + 13 * h) % live.length]?
/-- h of R375: bits [14:8] of an access's device offset, or of a message's destination index. -/
def Packet.portKey (p : Packet) : Nat :=
  match p.body with | .access o _ => o | b => bits ((b.to?).getD 0).toNat 22 16
def State.mapPort (port : Nat) (f : FabricPort → FabricPort) (s : State) : State :=
  match s.ports[port]? with
  | some p => { s with ports := listSet s.ports port (f p) }
  | none => s
/-- The next number of a flow, and its table with another. -/
def flowNext (l : List (Nat × Nat × Nat)) (vc m : Nat) : Nat := ((l.find? fun e => e.1 == vc && e.2.1 == m).map (·.2.2)).getD 0
def flowSet (l : List (Nat × Nat × Nat)) (vc m n : Nat) : List (Nat × Nat × Nat) :=
  (vc, m, n) :: l.filter fun e => !(e.1 == vc && e.2.1 == m)
def FabricPort.credit (p : FabricPort) (vc : Nat) : Nat := p.credits[vc]?.getD 0
def FabricPort.setCredit (vc n : Nat) (p : FabricPort) : FabricPort :=
  if h : vc < 8 then { p with credits := p.credits.set vc n h } else p
def FabricPort.owes (p : FabricPort) (vc : Nat) : Nat := p.owed[vc]?.getD 0
def FabricPort.owe (vc n : Nat) (p : FabricPort) : FabricPort :=
  if h : vc < 8 then { p with owed := p.owed.set vc (p.owed[vc] + n) h } else p
/-- The fabric flits of a packet: two mesh flits each (R169, R257, R374). -/
def Packet.fabricFlits (p : Packet) : Nat :=
  match p.body with
  | .msg m | .notice m _ => (m.flits + 1) / 2
  | .access _ (.data _ bs) => ((bs.length + 31) / 32 + 2) / 2
  | _ => 1
/-- The retry buffer without the oldest n flits of a class. -/
def ackFlits (vc : Nat) : List Flit → Nat → List Flit
  | [], _ => []
  | f :: rest, n =>
    if f.vc ≠ vc then f :: ackFlits vc rest n
    else if f.count ≤ n then ackFlits vc rest (n - f.count)
    else { f with count := f.count - n, number := f.number + n } :: rest
/-- What a header returns (R374): each credit of a class comes from a flit that the far end has taken, which leaves the retry
buffer. DESIGN CHOICE (log 62): a credit acknowledges the oldest flit of its class. -/
def FabricPort.returned (rs : List (Nat × Nat)) (x : FabricPort) : FabricPort :=
  rs.foldl (fun x r => { x.setCredit r.1 (min 128 (x.credit r.1 + r.2)) with retry := ackFlits r.1 x.retry r.2 }) x
/-- The credits that the port owes, by class, for the header of a flit that it sends. -/
def FabricPort.debts (x : FabricPort) : List (Nat × Nat) :=
  ((upTo 8).map fun vc => (vc, x.owes vc)).filter fun r => r.2 != 0
/-- What becomes of traffic to a module that cannot be reached (R376, R379): a dead letter for each message; a reply is
discarded, consumed by its sender (R172). -/
def State.deadLetter (p : Packet) (s : State) : State := match p.body with | .msg m => s.deadHome p.source p m | _ => s
/-- The first packet that leaves by this port on this class. -/
def State.outbound (s : State) (port vc : Nat) : Option (Nat × Packet × Nat) :=
  (upTo s.net.length).findSome? fun i =>
    match s.net[i]? with
    | none => none
    | some p =>
      match s.leavesFor p with
      | none => none
      | some m => if p.body.class == vc && s.portFor p.source p.portKey == some port then some (i, p, m) else none
/-- Traffic that another module has sent (R378, R379): a message goes to the core that its sender knows, or to its directory home; a
load is answered from its home, or with none of its bytes if one is damaged; a record goes to its home. The answers to this
module's own accesses have no further effect: LOAD_REPLY, RECORD_ACK and ATOMIC_RETURN stand for them. -/
def State.arriveFrom (m : Nat) (p : Packet) (s : State) : State :=
  match p.body with
  | .access o (.read id a n) =>
    let bytes := (upTo n).map (a + ·)
    let bs := if s.isPoisoned bytes then [] else bytes.map s.homeByte
    s.emit { place := .fabric m, id := 0, source := memoryRouter a, body := .access o (.data id bs) }
  | .access _ (.write w e) => { s with records := s.records ++ [{ writer := w, entry := s.addressed e, stage := .toHome }] }
  | .access _ _ => s
  | .discarded n => s.consume n
  | _ =>
    let place := match p.place with | .fabric _ => (match p.far with | some c => Place.core c | none => .directory) | x => x
    s.emit { p with place := place, far := none, away := some m }
/-- The port sends flits against credits, with the credits that it owes, and keeps them for a retry. -/
def FabricPort.transmit (f : Flit) (x : FabricPort) : FabricPort :=
  { x.setCredit f.vc (x.credit f.vc - f.count) with owed := Vector.replicate 8 0, retry := x.retry ++ [{ f with returns := x.debts }] }
/-- The port, number `port`, has sent a packet as the next flits of its flow. -/
def FabricPort.send (port vc m : Nat) (p : Packet) (x : FabricPort) : FabricPort :=
  let n := flowNext x.nextSend vc m
  let k := p.fabricFlits
  ({ x with nextSend := flowSet x.nextSend vc m (n + k) } : FabricPort).transmit
    { vc := vc, module := m, flow := port, number := n, count := k, returns := [], packet := p }
/-- The next number of an incoming flow, which a failed link may have moved to another port (R374, R376). -/
def State.flowTaken (s : State) (f : Flit) : Nat := flowNext ((s.ports[f.flow]?.map (·.taken)).getD []) f.vc f.module
/-- The oldest flits of a class that the port receives, and the others. -/
def FabricPort.after (vc : Nat) (x : FabricPort) : List Flit :=
  (x.incoming.takeWhile fun y => decide (y.vc ≠ vc)) ++ (x.incoming.dropWhile fun y => decide (y.vc ≠ vc)).drop 1
/-- A flow of a class to a module still has flits to send again, after its link has failed (R376). -/
def State.resends (vc m : Nat) (s : State) : Bool := s.ports.any fun x => x.again.any fun f => f.vc == vc && f.module == m
/-- FABRIC_FLIT_ARRIVAL (R374): the port takes the next traffic of a class, first what comes from its link, whose header returns
credits, and where flits taken before are discarded; then what a failed link has left to be sent again, under its own numbers (R376);
then what leaves through it, against credits, kept in its retry buffer, with the credits that the port owes; what a flow has to send
again goes first (R376). A flit that is discarded frees its place, so its credits too are owed. A module that the pod does not have is
answered with a dead letter (R379); DESIGN CHOICE (log 115): an access to such a module ends here, and its load reads the free bytes of
that module. -/
def execFabricFlitArrival (port vc : Nat) (s : State) : Result :=
  .next (match s.ports[port]? with
    | none => s.stall
    | some x =>
      if x.failed then s.stall
      else
        match x.incoming.find? (fun f => f.vc = vc) with
        | some f =>
          let y := ({ x with incoming := x.after vc } : FabricPort).returned f.returns
          if f.number + f.count ≤ s.flowTaken f then s.mapPort port fun _ => y.owe vc f.count
          else
            ((s.mapPort port fun _ => y.owe vc f.count).mapPort f.flow fun z =>
              { z with taken := flowSet z.taken vc f.module (f.number + f.count) }).arriveFrom f.module f.packet
        | none =>
          match x.again.findIdx? (fun f => f.vc == vc), s.outbound port vc with
          | some i, _ =>
            (match x.again[i]? with
            | some f => if x.credit vc < f.count then s.stall else s.mapPort port fun x => { x.transmit f with again := listDrop x.again i }
            | none => s.stall)
          | none, none => s.stall
          | none, some (i, p, m) =>
            let t : State := { s with net := listDrop s.net i }
            if !s.board.pod.contains m then t.deadLetter p
            else if x.credit vc < p.fabricFlits || s.resends vc m then s.stall
            else t.mapPort port (FabricPort.send port vc m { p with far := match p.place with | .core c => some c | _ => p.far }))
/-- FABRIC_EMPTY_FLIT (R374): an empty flit goes each way: the far end's acknowledges the oldest traffic of each class and returns its
credits, and this port's returns what it owes. -/
def execFabricEmptyFlit (port : Nat) (s : State) : Result :=
  .next (match s.ports[port]? with
    | none => s.stall
    | some x =>
      let oldest := (upTo 8).filterMap fun vc => (x.retry.find? fun f => f.vc = vc).map fun f => (vc, f.count)
      if x.failed then s.stall
      else s.mapPort port fun x => { x.returned oldest with owed := Vector.replicate 8 0 })
/-- A flow of a failed port goes, whole, to the port that R375 now selects for the oldest of its flits `fs`, behind what that has to send
again; with no live port it waits (R376; log 118). -/
def State.moveFlow (port : Nat) (fs : List Flit) (s : State) : State :=
  match fs with
  | [] => s
  | f :: _ => s.mapPort ((s.portFor f.packet.source f.packet.portKey).getD port) fun x => { x with again := x.again ++ fs }
/-- The flits of a list, flow by flow, each flow in order. -/
def flowsOf : Nat → List Flit → List (List Flit)
  | 0, _ => []
  | _, [] => []
  | n + 1, f :: rest =>
    let same (y : Flit) : Bool := y.flow == f.flow && y.vc == f.vc && y.module == f.module
    (f :: rest.filter same) :: flowsOf n (rest.filter fun y => !same y)
/-- FABRIC_LINK_FAILED (R376, R382): what was not acknowledged goes again in order, before any later traffic of its flow, by the ports that R375
now selects; the collectives send their unacknowledged chunks again. -/
def execFabricLinkFailed (port : Nat) (s : State) : Result :=
  .next (match s.ports[port]? with
    | none => s.stall
    | some x =>
      if x.failed then s.stall
      else
        let s := s.mapPort port fun x => { x with failed := true, retry := [], again := [], incoming := [] }
        let fs := x.retry ++ x.again
        let s := (flowsOf fs.length fs).foldl (fun s l => s.moveFlow port l) s
        { s with chunksOut := s.chunksOut ++ s.colls.flatMap (·.unacked) })

/-! ## Collectives across modules (R380 to R383) -/

/-- A collective descriptor (R380). -/
structure Descriptor where
  op : Nat
  fn : Nat
  type : Nat
  count : Nat
  nmod : Nat
  root : Nat
  tag : Nat
  reserved : Nat
  deriving DecidableEq, Repr
structure DescEntry where
  module : Nat
  child : Nat
  nchild : Nat
  parent : Nat
  src : Nat
  res : Nat
  reserved : Nat
  deriving DecidableEq, Repr
def State.descriptor (s : State) (a : Nat) : Descriptor :=
  let f (o n : Nat) : Nat := s.mainNat (a + o) n
  { op := f 0 1, fn := f 1 1, type := f 2 1, count := f 4 4, nmod := f 8 2, root := f 10 2, tag := f 12 4, reserved := f 3 1 + f 16 16 }
def State.descEntry (s : State) (a i : Nat) : DescEntry :=
  let f (o n : Nat) : Nat := s.mainNat (a + 32 + 32 * i + o) n
  { module := f 0 2, child := f 2 1, nchild := f 3 1, parent := f 4 2, src := f 8 8, res := f 16 8, reserved := f 6 2 + f 24 8 }
def typeWidth (t : Nat) : Nat := if t = 1 ∨ t = 2 then 2 else 4
/-- A main-memory range lies in a main lease of a launch in progress of the packet's queue. -/
def State.inMainLease (s : State) (queue off n : Nat) : Bool := s.liveLaunches.any fun l => l.queue == queue && l.mainHolds off n
/-- The limits of R380; the ranges of this module are checked here, and another module checks its own. A res that this module does not
write is an offset in such a lease too. -/
def State.descOk (s : State) (queue : Nat) (d : Descriptor) (es : List DescEntry) : Bool :=
  let bytes := d.count * typeWidth d.type
  d.op ≤ 2 && d.fn ≤ 2 && (d.op != 2 || d.fn == 0) && d.type ≤ 3 && 1 ≤ d.count && d.count ≤ 2 ^ 28 && 1 ≤ d.nmod && d.nmod ≤ 4096 &&
  decide (d.root < d.nmod) && d.reserved == 0 && noRepeat (es.map (·.module)) && es.any (fun e => e.module == s.board.module) &&
  (upTo es.length).all fun i =>
    match es[i]? with
    | none => false
    | some e =>
      e.reserved == 0 && s.board.pod.contains e.module && decide (e.child ≤ 63) && decide (e.nchild ≤ 64) && e.src % 256 == 0 && e.res % 256 == 0 &&
      (if i = d.root then e.parent == 0xFFFF else
        match es[e.parent]? with
        | some p => decide (e.child < p.nchild) &&
            !(upTo i).any fun j => match es[j]? with | some x => decide (j ≠ d.root) && x.parent == e.parent && x.child == e.child | none => false
        | none => false) &&
      (e.module != s.board.module ||
        (s.inMainLease queue e.src bytes &&
          s.inMainLease queue e.res (if d.op == 1 || i == d.root then (if d.op = 2 then bytes * d.nmod else bytes) else 1)))
def PodCollective.bytes (c : PodCollective) : Nat := c.count * typeWidth c.type
/-- The chunks of a vector, and the length of chunk j (R382). -/
def PodCollective.chunkCount (c : PodCollective) : Nat := (c.bytes + 16383) / 16384
def PodCollective.chunkLen (c : PodCollective) (j : Nat) : Nat := min 16384 (c.bytes - 16384 * j)
def State.mapColl (id : Nat) (f : PodCollective → PodCollective) (s : State) : State :=
  { s with colls := s.colls.map fun c => if c.id = id then f c else c }
/-- This module's own chunk j. -/
def State.ownChunk (s : State) (c : PodCollective) (j : Nat) : List Byte := s.mem.readN (mainAt (c.src + 16384 * j)) (c.chunkLen j)
/-- The writer identity of this module's collective unit (R383). -/
def State.unitKey (s : State) : WriterKey := BitVec.ofNat 41 (2 ^ 40 + s.board.module * 2 ^ 28 + 0xFFFFF * 2 ^ 8)
/-- The pieces of bytes from an address up that lie in one 32-byte block each. -/
def blockPieces : Nat → Nat → List Byte → List (Nat × List Byte)
  | 0, _, _ => []
  | fuel + 1, p, bs =>
    if bs.isEmpty then [] else (p, bs.take (32 - p % 32)) :: blockPieces fuel (p + (32 - p % 32)) (bs.drop (32 - p % 32))
/-- The unit takes a record for the bytes of one block, under its next sequence number, into its log (R252, R383). -/
def State.unitRecord (p : Nat) (bs : List Byte) (s : State) : State :=
  let e := storeRecord .store (p - p % 32) ((BitVec.ofNat 32 (2 ^ bs.length - 1)) <<< (p % 32)) ((BitVec.ofNat 256 (leNat bs)) <<< (8 * (p % 32)))
  let q := s.unitTail + 1
  { s with unitTail := q, unitLog := s.unitLog ++ [{ s.addressed e with seq := q, firstSeq := q }] }
/-- The first of the unit's records that may be sent: it is among the oldest 64, no earlier one for its home waits, and fewer than 4
are on their way there (R257, R260). -/
def State.unitDue (s : State) : Option Nat :=
  let out := s.records.filter fun r => r.writer == s.unitKey
  let sendable (i : Nat) : Bool :=
    match s.unitLog[i]? with
    | none => false
    | some e => !((s.unitLog.take i).any fun x => x.home == e.home) && decide ((out.filter fun r => r.entry.home == e.home).length < 4)
  (upTo (min s.unitLog.length (64 - out.length))).find? sendable
/-- The unit's pump sends what may be sent, at most as many records as the fuel. -/
def State.pumpUnit : Nat → State → State
  | 0, s => s
  | fuel + 1, s =>
    match s.unitDue with
    | none => s
    | some i =>
      match s.unitLog[i]? with
      | none => s
      | some e => State.pumpUnit fuel { s with
          unitLog := listDrop s.unitLog i, records := s.records ++ [{ writer := s.unitKey, entry := e, stage := .toHome }] }
/-- A result chunk goes to its homes under the unit's writer identity: one record for each 32-byte block (R383; log 19). -/
def State.unitWrite (off : Nat) (bs : List Byte) (s : State) : State :=
  ((blockPieces bs.length (mainAt off) bs).foldl (fun s x => s.unitRecord x.1 x.2) s).pumpUnit 64
/-- Every record of the unit has been acknowledged. -/
def State.unitQuiet (s : State) : Bool := s.unitLog.isEmpty && !s.records.any fun r => r.writer == s.unitKey
/-- Send a chunk on an edge, and keep it until it is acknowledged. -/
def State.sendChunk (id : Nat) (edge : Option Nat) (number : Nat) (bs : List Byte) (s : State) : State :=
  let k : Chunk := { coll := id, edge := edge, number := number, data := bs, ack := false }
  { s.mapColl id (fun c => { c with unacked := c.unacked ++ [k] }) with chunksOut := s.chunksOut ++ [k] }
/-- Send a chunk to every child. -/
def State.sendDown (c : PodCollective) (number : Nat) (bs : List Byte) (s : State) : State :=
  c.children.foldl (fun s e => s.sendChunk c.id (some e.1) number bs) s
/-- The block that the combining of R381 works on. -/
def PodCollective.block (c : PodCollective) (j : Nat) : CollBlock :=
  { op := c.op, fn := c.fn, type := c.type, level := 0, count := c.chunkLen j / typeWidth c.type, buf := 0, res := 0, tag := c.tag }
/-- The collective ends (R383, R387): an error leaves its result range unspecified. A chunk of it that is sent again is discarded
(R382). -/
def State.endPodColl (c : PodCollective) (error : Nat) (s : State) : State :=
  let n := if c.op = 2 then (if c.parent.isNone then c.nmod * c.bytes else 0) else if c.op = 1 || c.parent.isNone then c.bytes else 0
  let s := if error = 0 then s else s.writeMain c.res ((upTo n).map fun i => Config.errorByte (s.ticks * 2 ^ 40 + i))
  let s : State := { s with colls := s.colls.filter (fun x => decide (x.id ≠ c.id)), collsDone := c.id :: s.collsDone }
  let s := s.mapQueue c.queue fun q => { q with pendingRel := q.pendingRel.filter (· ≠ c.id) }
  s.complete c.queue c.completion (if error = 0 then 0 else 3) 0 0 error s.unitTail.toNat
/-- A collective is to end with an error, once the unit's records have been acknowledged: its tail is published then (R383). -/
def State.failColl (id error : Nat) (s : State) : State :=
  s.mapColl id fun c => if c.error = 0 then { c with error := error } else c
/-- This module's own chunk j is damaged. -/
def State.chunkPoisoned (s : State) (c : PodCollective) (j : Nat) : Bool :=
  s.isPoisoned ((upTo (c.chunkLen j)).map fun i => mainAt (c.src + 16384 * j + i))
/-- Combine every chunk whose parts are all held, in order, each once (R381, R382); the root writes it, and passes it down
under all-reduce; the others pass it up. A damaged chunk of the unit's own ends it (R383). -/
def State.combineChunks (id : Nat) : Nat → State → State
  | 0, s => s
  | fuel + 1, s =>
    match s.colls.find? (fun c => c.id = id) with
    | none => s
    | some c =>
      let j := c.next
      let part (e : Nat × Nat) : Option Chunk := c.held.find? fun k => k.edge == some e.1 && k.number == j
      if c.op = 2 || c.error ≠ 0 || c.chunkCount ≤ j || c.children.any (fun e => (part e).isNone) then s
      else if s.chunkPoisoned c j then s.failColl id 2
      else
        let bs := (c.children.filterMap part).foldl (fun r k => combine (c.block j) r k.data) (s.ownChunk c j)
        let s := s.mapColl id fun c => { c with next := j + 1, held := c.held.filter fun k => decide (k.number ≠ j) }
        let s :=
          match c.parent with
          | some _ => s.sendChunk id none j bs
          | none =>
            let s := s.unitWrite (c.res + 16384 * j) bs
            if c.op = 1 then s.sendDown c j bs else s
        State.combineChunks id fuel s
/-- A chunk of a gathered vector reaches this node (R381): the root writes it, the others pass it up. Its number names the
entry and the chunk of its vector. -/
def State.gatherChunk (c : PodCollective) (number : Nat) (bs : List Byte) (s : State) : State :=
  let s := s.mapColl c.id fun c => { c with got := c.got ++ [number] }
  match c.parent with
  | some _ => s.sendChunk c.id none number bs
  | none => s.unitWrite (c.res + number / c.chunkCount * c.bytes + 16384 * (number % c.chunkCount)) bs
/-- The collective on this module has done its part. -/
def PodCollective.finished (c : PodCollective) : Bool :=
  c.error != 0 || c.unacked.isEmpty &&
    (if c.op = 2 then decide (c.expect ≤ c.got.length)
     else decide (c.chunkCount ≤ c.next) && (c.op == 0 || c.parent.isNone || decide (c.chunkCount ≤ c.got.length)))
/-- End the collective if it has finished, and its records have been acknowledged (R383). -/
def State.finishColl (id : Nat) (s : State) : State :=
  match s.colls.find? (fun c => c.id = id) with
  | some c => if c.finished && s.unitQuiet then s.endPodColl c c.error else s
  | none => s
/-- The unit's pump goes on, and the collectives that have finished end. -/
def State.finishColls (s : State) : State := (s.colls.map (·.id)).foldl (fun s id => s.finishColl id) (s.pumpUnit 64)
/-- The entries below an entry of the tree, itself among them: those whose chain of parents reaches it. -/
def descBelow (es : List DescEntry) (top : Nat) : Nat → Nat → Bool
  | 0, i => i == top
  | fuel + 1, i =>
    i == top || match es[i]? with
      | some e => e.parent != 0xFFFF && descBelow es top fuel e.parent
      | none => false
/-- Start the collective that a descriptor asks for. -/
def State.startPodColl (q : LaunchQueue) (p : PacketFields) (d : Descriptor) (es : List DescEntry) (s : State) : State :=
  let me := (es.findIdx? fun e => e.module == s.board.module).getD 0
  let e := es[me]?.getD (s.descEntry p.record 0)
  let isRoot := decide (me = d.root)
  let children := ((upTo 64).filterMap fun k =>
    (es.find? fun x => x.parent == me && x.child == k && x.module != (es[d.root]?.map (·.module)).getD 0).map fun x => (k, x.module))
  let id := 2 ^ 33 * (q.id + 1) + q.readIdx.toNat
  let bytes := d.count * typeWidth d.type
  let n := (bytes + 16383) / 16384
  let c : PodCollective :=
    { id := id, queue := q.id, op := d.op, fn := d.fn, type := d.type, count := d.count, nmod := d.nmod, tag := BitVec.ofNat 32 d.tag,
      entry := me, parent := if isRoot then none else (es[e.parent]?.map (·.module)), children := children, src := e.src, res := e.res,
      completion := p.completion, held := [], next := 0, got := [],
      expect := n * ((upTo es.length).filter fun i => descBelow es me es.length i).length, unacked := [], error := 0 }
  let s : State := { s with colls := s.colls ++ [c] }
  let s := if p.fence.testBit 1 then s.mapQueue q.id fun q => { q with pendingRel := q.pendingRel ++ [id] } else s
  if s.isPoisoned ((upTo bytes).map fun i => mainAt (e.src + i)) then (s.failColl id 2).finishColl id
  else
    (if d.op = 2 then (upTo n).foldl (fun s j => s.gatherChunk c (me * n + j) (s.ownChunk c j)) s else s.combineChunks id n).finishColl id
/-- A descriptor that breaks a limit is refused with error 3: no byte moves, and it completes as the other errors do (R380, R383). -/
def State.refusePodColl (q : LaunchQueue) (p : PacketFields) (s : State) : State :=
  let id := 2 ^ 33 * (q.id + 1) + q.readIdx.toNat
  let c : PodCollective :=
    { id := id, queue := q.id, op := 0, fn := 0, type := 0, count := 0, nmod := 0, tag := 0, entry := 0, parent := none, children := [],
      src := 0, res := 0, completion := p.completion, held := [], next := 0, got := [], expect := 0, unacked := [], error := 3 }
  let s : State := { s with colls := s.colls ++ [c] }
  let s := if p.fence.testBit 1 then s.mapQueue q.id fun q => { q with pendingRel := q.pendingRel ++ [id] } else s
  s.finishColl id
/-- POD_COLLECTIVE_PACKET (R380): the packet at queue n's read index asks for a collective; a descriptor that breaks a limit is
refused with error 3, and no byte moves. -/
def execPodCollectivePacket (n : Nat) (s : State) : Result :=
  .next (match s.packetDue n with
    | none => s.stall
    | some (q, p) =>
      if q.overrun || !p.ok (s.partById q.part).gang.gangs || !s.offsetsOk q.part p || p.kind ≠ 2 || q.fenced p || s.unstarted n then s.stall
      else
        let d := s.descriptor p.record
        let es := (upTo d.nmod).map (s.descEntry p.record)
        let t := s.taken n
        if s.descOk n d es then t.startPodColl q p d es else t.refusePodColl q p)
/-- The acknowledgement of a chunk goes back on its edge. -/
def State.ackChunk (k : Chunk) (s : State) : State :=
  { s with chunksOut := s.chunksOut ++ [{ k with data := [], ack := true }] }
/-- CHUNK_ARRIVAL (R382): the chunk is held, unless it is held already, and acknowledged; what can be combined is. A result
chunk that comes down is written, and passed on down. One of a collective that has ended is acknowledged and discarded. -/
def execChunkArrival (n : Nat) (s : State) : Result :=
  .next (match s.chunks[n]? with
    | none => s.stall
    | some k =>
      match s.colls.find? (fun c => c.id = k.coll) with
      | none => if !k.ack && s.collsDone.contains k.coll then ({ s with chunks := listDrop s.chunks n } : State).ackChunk k else s.stall
      | some c =>
        if k.ack then s.stall
        else
          let s := ({ s with chunks := listDrop s.chunks n } : State).ackChunk k
          if c.error ≠ 0 then s
          else (match k.edge with
          | none =>
            if c.got.contains k.number then s
            else
              ((s.mapColl c.id fun c => { c with got := c.got ++ [k.number] }).unitWrite (c.res + 16384 * k.number) k.data).sendDown c k.number k.data
          | some e =>
            if c.op = 2 then (if c.got.contains k.number then s else s.gatherChunk c k.number k.data)
            else if k.number < c.next || c.held.any (fun x => x.edge == some e && x.number == k.number) then s
            else (s.mapColl c.id fun c => { c with held := c.held ++ [k] }).combineChunks c.id c.chunkCount).finishColl c.id)
/-- CHUNK_ACK (R382): the sender's copy is released. -/
def execChunkAck (n : Nat) (s : State) : Result :=
  .next (match s.chunks[n]? with
    | none => s.stall
    | some k =>
      if !k.ack then s.stall
      else
        (({ s with chunks := listDrop s.chunks n } : State).mapColl k.coll fun c =>
          { c with unacked := c.unacked.filter fun x => !(x.edge == k.edge && x.number == k.number) }).finishColl k.coll)
/-- EDGE_SILENCE_TIMEOUT (R382): collective n sends again from the chunk after the last one acknowledged. -/
def execEdgeSilenceTimeout (n : Nat) (s : State) : Result :=
  .next (match s.colls[n]? with
    | none => s.stall
    | some c => if c.unacked.isEmpty then s.stall else { s with chunksOut := s.chunksOut ++ c.unacked })
/-- A load of the core has an access to a module that has not been answered (R376): it has asked there for the block of a byte that no line
of the view cache gives it. An atomic's access is its record. -/
def Core.asksOf (m : Nat) (c : Core) (t : LoadTag) : Bool :=
  !t.atomic && t.data.isNone && (t.bytes.zip t.phys).any fun x => t.asked.contains (x.2 / 256) && portModule x.2 == some m && (c.lineFor t x.1).isNone
/-- An access of the focus core to a module that cannot be reached returns an error; an atomic's record ends with it (R376). -/
def State.loseAccess (t : LoadTag) (s : State) : State :=
  let key := s.grp.key
  let s := if s.core.tags.any fun x => x.tag == t.tag then s.asyncError t.tag else s
  if t.atomic then
    { s.acknowledge (fun e => e.kind == .atomic && e.seq == t.seq) with
      records := s.records.filter fun r => !(r.writer == key && r.entry.kind == .atomic && r.entry.seq == t.seq) }
  else s
/-- A copy that has asked a module that cannot be reached for words, and has not moved them, or whose records are still on their way there
(`sent`): its access returns an error, which ends the job with code 2 (R309, R376). -/
def Job.unreachable (m : Nat) (sent : Bool) (j : Job) : Job :=
  match j.kind with
  | .copy x =>
    let waits := match x.src with
      | .shared ps => ((ps.take x.asked).drop x.next).any fun a => portModule a == some m
      | .well _ _ => false
    if j.running && (waits || sent) && j.error == 0 then { j with error := 2 } else j
  | _ => j
/-- FABRIC_UNREACHABLE (R376, R383): dead letters for the messages to the module, error returns for the accesses to it, and
error 1 for the collectives that have a neighbour there. No home there applies a record that is on its way; a store's record, which
no access waits for, stays in its log (log 90). An access to this module's own remote window leaves by a port too (R236). -/
def execFabricUnreachable (module : Nat) (s : State) : Result :=
  .next (
      let gone := s.net.filter fun p => s.leavesFor p == some module
      let kept := s.ports.flatMap fun x => ((x.retry ++ x.again).filter fun f => f.module = module).map (·.packet)
      let lost (r : FlightRecord) : Bool := r.stage == .toHome && homeModule r.entry.home == some module
      let sent (o : Octet) : Bool := s.records.any fun r => lost r && r.writer == engineKey s.board.module o.number
      let atomics := (s.records.filter fun r => lost r && r.entry.kind == .atomic).map fun r => (r.writer, r.entry.seq)
      let s : State := { s with
        net := s.net.filter fun p => s.leavesFor p != some module
        ports := s.ports.map fun (x : FabricPort) =>
          { x with retry := x.retry.filter (fun f => decide (f.module ≠ module)), again := x.again.filter fun f => decide (f.module ≠ module) }
        records := s.records.filter fun r => !lost r
        octets := s.octets.map fun o => { o with jobs := o.jobs.map (Job.unreachable module (sent o)) } }
      let s := (kept ++ gone).foldl (fun s p => s.deadLetter p) s
      let s := s.cores.foldl (fun (s : State) (c : Core) =>
        s.atCore c.at_ fun s => (c.tags.filter fun t => c.asksOf module t || (t.atomic && atomics.contains (c.grp.key, t.seq))).foldl (fun s t => s.loseAccess t) s) s
      (s.colls.filter fun c => c.parent == some module || c.children.any fun e => e.2 == module).foldl (fun s c => s.failColl c.id 1) s)

/-! ## The counter page (R398, R399) -/

/-- The offsets of R398 that a host's write may name. -/
def counterOffset (o : Nat) : Bool := [0x3800000, 0x3800008, 0x3800010, 0x3800018, 0x3800020, 0x3800028, 0x3800030].contains o
/-- CNTTAIL_WRITE (R398). After a boot that has failed no function has a counter page (R392). -/
def execCntTailWrite (value : BitVec 16) (s : State) : Result :=
  .next (if s.board.failed then s.stall else s.mapPart s.part.id fun p => { p with ctr := { p.ctr with tail := value } })
/-- COUNTER_REGISTER_WRITE (R398): it takes effect at the next snapshot; CNTHEAD is the aggregator's. -/
def execCounterRegisterWrite (offset : Nat) (value : Word) (s : State) : Result :=
  .next (if counterOffset offset && !s.board.failed then s.mapPart s.part.id fun p => { p with ctr := { p.ctr with pending := p.ctr.pending ++ [(offset, value)] } }
    else s.stall)
/-- A write takes effect (R398): a reserved scope or period leaves the old one. -/
def CounterPage.apply (c : CounterPage) (w : Nat × Word) : CounterPage :=
  let v := w.2.toNat
  let sel (n : Nat) (h : n < 4) : CounterPage := { c with sel := c.sel.set n (w.2 &&& 0x800F03FF) h }
  match w.1 with
  | 0x3800000 =>
    let scope := if bits v 9 8 = 3 then bits c.ctl.toNat 9 8 else bits v 9 8
    let p := bits v 5 0
    let period := if p = 0 ∨ (16 ≤ p ∧ p ≤ 36) then p else bits c.ctl.toNat 5 0
    { c with ctl := BitVec.ofNat 64 (scope * 2 ^ 8 + period) }
  | 0x3800008 => sel 0 (by decide)
  | 0x3800010 => sel 1 (by decide)
  | 0x3800018 => sel 2 (by decide)
  | 0x3800020 => sel 3 (by decide)
  | 0x3800028 => { c with ringBase := w.2 &&& 0xFFFFFFFFFFFC0 }
  | 0x3800030 => { c with ringSize := w.2.setWidth 16 }
  | _ => c
/-- The writes that waited take effect (R398). -/
def CounterPage.applied (c : CounterPage) : CounterPage := { c.pending.foldl CounterPage.apply c with pending := [] }
/-- The unit of a core in a scope: the partition, its die, or its cluster. -/
def scopeUnit (scope : Nat) (c : Coord) : Nat := match scope with | 0 => 0 | 1 => dieOf c | _ => clusterOf c
/-- The units of a scope among the dies of a partition, ascending. -/
def scopeUnits (dies : List Nat) (scope : Nat) : List Nat :=
  match scope with
  | 0 => [0]
  | 1 => dies
  | _ => (upTo 41600).filter fun c => dies.contains (dieOf { x := 4 * (c % 208), y := 4 * (c / 208) })
/-- The counting cores of a unit at a snapshot's instant: those of the partition outside the firmware column, `w` columns of clusters
wide, that were not retired (R396). -/
def Snapshot.counted (w scope unit : Nat) (x : Snapshot) : Nat :=
  let die (d : Nat) : Nat := 10400 - (if d % 8 = 0 then 400 * w else 0)
  let all := match scope with
    | 0 => x.dies.foldl (fun n d => n + die d) 0
    | 1 => die unit
    | _ => if unit % 208 < w then 0 else 16
  all - (x.retired.filter fun c => decide (4 * w ≤ c.x) && scopeUnit scope c == unit).length
/-- Write one record at the head of the ring (R399). -/
def State.writeSnapshot (part : Nat) (x : Snapshot) (unit : Nat) (s : State) : State :=
  let c := (s.partById part).ctr
  let size := c.ringSize.toNat
  if size = 0 then s
  else
    let scope := bits x.ctl.toNat 9 8
    let mine := (x.cores.filter fun l => scopeUnit scope l.1 == unit).map (·.2)
    let counted := x.counted s.board.fwWidth scope unit
    let unlisted := counted - mine.length
    let sum (f : Counters → Nat) : Nat := mine.foldl (fun n l => n + f l) (unlisted * f x.absent)
    let full := decide ((c.head.toNat + 1) % size = c.tail.toNat)
    let tail := if full then BitVec.ofNat 16 ((c.tail.toNat + 1) % size) else c.tail
    let lost := if full then BitVec.ofNat 16 (min (c.lost.toNat + 1) 65535) else c.lost
    let flags := (if mine.any (·.saturated) || (unlisted != 0 && x.absent.saturated) then 1 else 0) + (if full && decide (c.lost.toNat < 65535) then 2 else 0)
    let evc (n : Nat) : Nat := if (x.sel[n]?.getD 0).getLsbD 31 then sum fun k => k.evc[n]?.getD 0 else 0
    let bs := leBytes 8 x.cycle ++ leBytes 2 unit ++ leBytes 1 scope ++ leBytes 1 flags ++ leBytes 4 counted ++
      leBytes 8 (sum (·.ccyc)) ++ leBytes 8 (sum (·.cinst)) ++ leBytes 8 (evc 0) ++ leBytes 8 (evc 1) ++ leBytes 8 (evc 2) ++ leBytes 8 (evc 3)
    (s.writeMain (c.ringBase.toNat + 64 * c.head.toNat) bs).mapPart part fun p =>
      { p with ctr := { p.ctr with head := BitVec.ofNat 16 ((c.head.toNat + 1) % size), tail := tail, lost := lost } }
/-- COUNTER_SNAPSHOT (R399) of the partition of the focus core: the records of the oldest snapshot that is latched are written, in
ascending unit order. While no snapshots are taken a waiting write takes effect alone (log 20). After a boot that has failed no
aggregator runs (R392). -/
def execCounterSnapshot (s : State) : Result :=
  let part := s.part.id
  let c := s.part.ctr
  .next (if s.board.failed then s.stall else match c.latched with
    | [] =>
      if bits c.ctl.toNat 5 0 = 0 && !c.pending.isEmpty then s.mapPart part fun p => { p with ctr := p.ctr.applied } else s.stall
    | x :: rest =>
      (scopeUnits x.dies (bits x.ctl.toNat 9 8)).foldl (fun s u => s.writeSnapshot part x u)
        (s.mapPart part fun p => { p with ctr := { p.ctr with latched := rest } }))

/-! ## The snapshot instants (R399) -/

/-- The instants of a page among the n cycles that follow `now`, each with the page of the interval that it closes. The writes that
wait take effect at the first. -/
def CounterPage.marks (c : CounterPage) (now n : Nat) : List (Nat × CounterPage) :=
  let upTo? (c : CounterPage) (a b : Nat) : List Nat :=
    let p := 2 ^ bits c.ctl.toNat 5 0
    if bits c.ctl.toNat 5 0 = 0 then [] else (upTo (b / p - a / p)).map fun i => (a / p + 1 + i) * p
  match upTo? c now (now + n) with
  | [] => []
  | first :: _ => (first, c) :: (upTo? c.applied first (now + n)).map fun t => (t, c.applied)

end Sys2Proof.Machine
end

