-- ==== Sys2Proof/Machine/Local.lean ====
section
/-! DEFINITION. Local loads and stores (spec 06 R108 to R112) and the full/empty instructions (R114, R115). -/

namespace Sys2Proof.Machine

/-! ## Scalar accesses -/

/-- A damaged word of memory lies under n bytes of the overflow window. -/
def State.windowDamaged (a n : Nat) (s : State) : Bool :=
  (upTo n).any fun i => decide (0x8000 ≤ a + i) && s.poisoned.contains (s.grp.windowAddr (a + i) / 8)
/-- A load that finds a damaged word in the window writes nothing, and its slot traps at its next word as R339 says; it holds no
load tag, and its local address is the value (R339, R355; log 70). DESIGN CHOICE (log 70): it counts in INSTRET (R118). -/
def State.loadError (a : Nat) (s : State) : State :=
  (s.finish.mapSlot fun sl => { sl with errors := sl.errors ++ [(0, BitVec.ofNat 64 a)] }).takeErrors
/-- A scalar load of n bytes: checked by R109, and extended by `ext` (R108). -/
def State.load (n : Nat) (d a : GReg) (imm : BitVec 16) (ext : Nat → Word) (s : State) : State :=
  let addr := s.localAddr a imm
  s.check (s.grp.checkLocal false addr.toNat n n addr) fun s =>
    if s.windowDamaged addr.toNat n then s.loadError addr.toNat else s.result d (ext (leNat (s.localBytes addr.toNat n)))
/-- Store bytes at a checked local address: the instruction waits while it touches a lent range (R295). -/
def State.storeAt (addr : Nat) (bs : List Byte) (s : State) : State :=
  if s.grp.lentAt addr bs.length then s.stall else (s.storeLocal addr bs).finish
/-- A scalar store of the low n bytes of g[b] (R108). -/
def State.store (n : Nat) (b a : GReg) (imm : BitVec 16) (s : State) : State :=
  let addr := s.localAddr a imm
  s.check (s.grp.checkLocal true addr.toNat n n addr) fun s => s.storeAt addr.toNat (leBytes n (s.getG b).toNat)
/-- Sign extension of an n-bit value. -/
def signed (n v : Nat) : Word := (BitVec.ofNat n v).signExtend 64

/-- LDB (R108). -/
def execLdb (d a : GReg) (imm : BitVec 16) (s : State) : Result := .next (s.load 1 d a imm (signed 8))
/-- LDBU (R108). -/
def execLdbu (d a : GReg) (imm : BitVec 16) (s : State) : Result := .next (s.load 1 d a imm (BitVec.ofNat 64))
/-- LDH (R108). -/
def execLdh (d a : GReg) (imm : BitVec 16) (s : State) : Result := .next (s.load 2 d a imm (signed 16))
/-- LDHU (R108). -/
def execLdhu (d a : GReg) (imm : BitVec 16) (s : State) : Result := .next (s.load 2 d a imm (BitVec.ofNat 64))
/-- LDW (R108). -/
def execLdw (d a : GReg) (imm : BitVec 16) (s : State) : Result := .next (s.load 4 d a imm (signed 32))
/-- LDWU (R108). -/
def execLdwu (d a : GReg) (imm : BitVec 16) (s : State) : Result := .next (s.load 4 d a imm (BitVec.ofNat 64))
/-- LDD (R108). -/
def execLdd (d a : GReg) (imm : BitVec 16) (s : State) : Result := .next (s.load 8 d a imm (BitVec.ofNat 64))
/-- STB (R108). -/
def execStb (b a : GReg) (imm : BitVec 16) (s : State) : Result := .next (s.store 1 b a imm)
/-- STH (R108). -/
def execSth (b a : GReg) (imm : BitVec 16) (s : State) : Result := .next (s.store 2 b a imm)
/-- STW (R108). -/
def execStw (b a : GReg) (imm : BitVec 16) (s : State) : Result := .next (s.store 4 b a imm)
/-- STD (R108). -/
def execStd (b a : GReg) (imm : BitVec 16) (s : State) : Result := .next (s.store 8 b a imm)

/-! ## Rows and strided lanes -/

/-- LDV (R111). -/
def execLdv (d : VReg) (a : GReg) (imm : BitVec 16) (s : State) : Result :=
  let addr := s.localAddr a imm
  .next (s.check (s.grp.checkLocal false addr.toNat 128 8 addr) fun s =>
    s.whenRows [d] fun s =>
      if s.windowDamaged addr.toNat 128 then s.loadError addr.toNat
      else (s.mapGrp (·.setRow d (rowOfBytes (s.localBytes addr.toNat 128)))).finish)
/-- STV (R111). -/
def execStv (b : VReg) (a : GReg) (imm : BitVec 16) (s : State) : Result :=
  let addr := s.localAddr a imm
  .next (s.check (s.grp.checkLocal true addr.toNat 128 8 addr) fun s =>
    s.whenRows [b] fun s => s.storeAt addr.toNat (rowBytes (s.grp.row b)))

/-- The exact address of lane i: g[a] + i * sext(g[b]) (R112). -/
def State.laneAddr (s : State) (a b : GReg) (i : Nat) : Int := (s.getG a).toNat + i * (s.getG b).toInt
/-- The check of every lane: the lowest-numbered failing lane traps, with its address and index in TRAPVAL (R112). -/
def State.checkLanes (s : State) (store : Bool) (n : Nat) (a b : GReg) : Failure :=
  (upTo (128 / n)).findSome? fun i =>
    let x := s.laneAddr a b i
    s.grp.checkLocal store x n n (BitVec.ofNat 64 ((BitVec.ofInt 16 x).toNat + i * 2 ^ 16))
/-- LDVS (R112). -/
def execLdvs (t : Width) (d : VReg) (a b : GReg) (s : State) : Result :=
  let n := widthBits t / 8
  .next (s.check (s.checkLanes false n a b) fun s =>
    s.whenRows [d] fun s =>
      let lanes := (upTo (128 / n)).map fun i => leNat (s.localBytes (s.laneAddr a b i).toNat n)
      match (upTo (128 / n)).find? fun i => s.windowDamaged (s.laneAddr a b i).toNat n with
      | some i => s.loadError (s.laneAddr a b i).toNat
      | none => (s.mapGrp (·.setRow d (rowOfLanes (8 * n) lanes))).finish)
/-- STVS (R112): in ascending lane order, so that the highest lane's bytes remain. -/
def execStvs (t : Width) (d : VReg) (a b : GReg) (s : State) : Result :=
  let n := widthBits t / 8
  .next (s.check (s.checkLanes true n a b) fun s =>
    s.whenRows [d] fun s =>
      let lanes := upTo (128 / n)
      if lanes.any fun i => s.grp.lentAt (s.laneAddr a b i).toNat n then s.stall
      else
        (lanes.foldl (fun t i => t.storeLocal (s.laneAddr a b i).toNat (leBytes n (lane (8 * n) (s.grp.row d) i))) s).finish)

/-! ## Full/empty instructions -/

/-- The check of a full/empty access (R109, R114): the window has no full/empty bits. -/
def Group.checkWord (g : Group) (store : Bool) (a : Word) : Failure :=
  if 0x8000 ≤ a.toNat then some (0x04, a) else g.checkLocal store a.toNat 8 8 a
/-- The ticket of a slot's place in the line of a word's waiters, if it waits there (R115). -/
def Slot.ticketAt (sl : Slot) (w : Nat) (forFull : Bool) : Option Nat :=
  match sl.progress with
  | .fullEmpty w' t f => if w' = w ∧ f = forFull then some t else none
  | _ => none
/-- Another slot began waiting earlier for the state the word is in (R115). -/
def State.behind (w : Nat) (forFull : Bool) (s : State) : Bool :=
  [(0 : SlotId), 1, 2, 3].any fun j => decide (j ≠ s.k) &&
    match (s.grp.slot j).ticketAt w forFull, s.slot.ticketAt w forFull with
    | some t, some mine => decide (t < mine)
    | some _, none => true
    | none, _ => false
/-- Take a place in the line of waiters and wait (R115). -/
def State.queueUp (w : Nat) (forFull : Bool) (s : State) : State :=
  match s.slot.ticketAt w forFull with
  | some _ => s.stall
  | none =>
    ((s.mapSlot fun sl => { sl with progress := .fullEmpty w s.grp.ticket forFull }).mapGrp fun g =>
      { g with ticket := g.ticket + 1 }).stall
/-- Set the bit of word w; a change is an event for the other slots (R107, R114). -/
def State.setWord (w : Nat) (full : Bool) (s : State) : State :=
  if s.grp.isFull w = full then s else (s.mapGrp (Group.setFull w full)).raiseOthers
/-- A full/empty load, waiting until full (R114, R115). -/
def State.loadFull (empty : Bool) (d a : GReg) (s : State) : State :=
  let x := s.getG a
  s.check (s.grp.checkWord false x) fun s =>
    let w := x.toNat / 8
    if !s.grp.isFull w || s.behind w true then s.queueUp w true
    else
      let v := BitVec.ofNat 64 (leNat (s.localBytes x.toNat 8))
      (if empty then s.setWord w false else s).result d v
/-- LDF (R114). -/
def execLdf (d a : GReg) (s : State) : Result := .next (s.loadFull true d a)
/-- LDFK (R114). -/
def execLdfk (d a : GReg) (s : State) : Result := .next (s.loadFull false d a)
/-- STE (R114). One that waits only for a lent range has no place in the line of waiters: when the range is free the choice of
R157 serves it (R295; log 71). -/
def execSte (a b : GReg) (s : State) : Result :=
  let x := s.getG a
  .next (s.check (s.grp.checkWord true x) fun s =>
    let w := x.toNat / 8
    if s.grp.isFull w || s.behind w false then s.queueUp w false
    else if s.grp.lentAt x.toNat 8 then s.stall
    else ((s.storeLocal x.toNat (leBytes 8 (s.getG b).toNat)).setWord w true).finish)
/-- SETF and SETE (R114). -/
def State.setBit (full : Bool) (a : GReg) (s : State) : State :=
  let x := s.getG a
  s.check (s.grp.checkWord true x) fun s => (s.setWord (x.toNat / 8) full).finish
/-- SETF (R114). -/
def execSetf (a : GReg) (s : State) : Result := .next (s.setBit true a)
/-- SETE (R114). -/
def execSete (a : GReg) (s : State) : Result := .next (s.setBit false a)
/-- TSTF (R114). -/
def execTstf (d a : GReg) (s : State) : Result :=
  let x := s.getG a
  .next (s.check (s.grp.checkWord false x) fun s => s.result d (ofBool (s.grp.isFull (x.toNat / 8))))

end Sys2Proof.Machine
end

