-- ==== Sys2Proof/Machine/ScalarFp.lean ====
section
/-! DEFINITION. The scalar floating-point instructions (spec 06 R116, R117; spec 03 R37 to R48). Each rounds once with
FCSR.RM and raises the sticky flags of R39. -/

namespace Sys2Proof.Machine

/-- A scalar operand: the low bits of a register (R116). -/
def fArg (t : FType) (v : Word) : Nat := v.toNat % 2 ^ ftypeWidth t
/-- A floating result in the low bits of gd, the others zero (R116), with its flags. -/
def State.fResult (d : GReg) (r : FRes) (s : State) : State := (s.raiseFlags r.flags).result d (BitVec.ofNat 64 r.bits)
/-- A two-operand operation that rounds (R116). -/
def State.fop2 (op : FOp) (t : FType) (d a b : GReg) (s : State) : State :=
  s.fResult d ((ftypeFmt t).binop op s.rmode (fArg t (s.getG a)) (fArg t (s.getG b)))
/-- FMIN and FMAX (R43). -/
def State.fminmax (isMax : Bool) (t : FType) (d a b : GReg) (s : State) : State :=
  s.fResult d ((ftypeFmt t).minMax isMax (fArg t (s.getG a)) (fArg t (s.getG b)))
/-- The compares (R43): a 64-bit truth value. -/
def State.fcompare (op : FCmp) (t : FType) (d a b : GReg) (s : State) : State :=
  let r := (ftypeFmt t).compare op (fArg t (s.getG a)) (fArg t (s.getG b))
  (s.raiseFlags r.2).result d (ofBool r.1)

/-- FADD (R116). -/
def execFadd (t : FType) (d a b : GReg) (s : State) : Result := .next (s.fop2 .add t d a b)
/-- FSUB (R116). -/
def execFsub (t : FType) (d a b : GReg) (s : State) : Result := .next (s.fop2 .sub t d a b)
/-- FMUL (R116). -/
def execFmul (t : FType) (d a b : GReg) (s : State) : Result := .next (s.fop2 .mul t d a b)
/-- FDIV (R116). -/
def execFdiv (t : FType) (d a b : GReg) (s : State) : Result := .next (s.fop2 .div t d a b)
/-- FFMA (R116): one rounding. -/
def execFfma (t : FType) (d a b c : GReg) (s : State) : Result :=
  .next (s.fResult d ((ftypeFmt t).fused .fma s.rmode (fArg t (s.getG a)) (fArg t (s.getG b)) (fArg t (s.getG c))))
/-- FSQRT (R116). -/
def execFsqrt (t : FType) (d a : GReg) (s : State) : Result :=
  .next (s.fResult d ((ftypeFmt t).sqrt s.rmode ((ftypeFmt t).unpack (fArg t (s.getG a)))))
/-- FMIN (R43). -/
def execFmin (t : FType) (d a b : GReg) (s : State) : Result := .next (s.fminmax false t d a b)
/-- FMAX (R43). -/
def execFmax (t : FType) (d a b : GReg) (s : State) : Result := .next (s.fminmax true t d a b)
/-- FEQ (R43). -/
def execFeq (t : FType) (d a b : GReg) (s : State) : Result := .next (s.fcompare .eq t d a b)
/-- FLT (R43). -/
def execFlt (t : FType) (d a b : GReg) (s : State) : Result := .next (s.fcompare .lt t d a b)
/-- FLE (R43). -/
def execFle (t : FType) (d a b : GReg) (s : State) : Result := .next (s.fcompare .le t d a b)
/-- FCLASS (R116): one bit set, and no flag. -/
def execFclass (t : FType) (d a : GReg) (s : State) : Result :=
  .next (s.result d (1 <<< (ftypeFmt t).classBit (fArg t (s.getG a))))

/-- The value of a source of FCVT (R117): .l signed, .lu unsigned, both of all 64 bits. -/
def cvtValue (k : FKind) (v : Word) : FVal :=
  match k with
  | .f32 => Fmt.f32.unpack (fArg .f32 v)
  | .f16 => Fmt.f16.unpack (fArg .f16 v)
  | .b16 => Fmt.b16.unpack (fArg .b16 v)
  | .l => FVal.ofInt v.toInt
  | .lu => FVal.ofInt v.toNat
/-- The result of FCVT in its destination kind (R45, R47). -/
def cvtResult (k : FKind) (satf8 : Bool) (rm : RMode) (x : FVal) : FRes :=
  let whole (lo hi : Int) : FRes := let r := toInteger rm lo hi x; ⟨(BitVec.ofInt 64 r.1).toNat, r.2⟩
  match k with
  | .f32 => Fmt.f32.convert satf8 rm x
  | .f16 => Fmt.f16.convert satf8 rm x
  | .b16 => Fmt.b16.convert satf8 rm x
  | .l => whole (-(2 ^ 63)) (2 ^ 63 - 1)
  | .lu => whole 0 (2 ^ 64 - 1)
/-- FCVT (R117): the reserved pairs of kinds trap (R80, R91). -/
def execFcvt (dst src : FKind) (d a : GReg) (s : State) : Result :=
  .next (if fcvtAllowed dst src then s.fResult d (cvtResult dst s.grp.satf8 s.rmode (cvtValue src (s.getG a)))
         else s.reservedTrap)

end Sys2Proof.Machine
end

