-- ==== Sys2Proof/Machine/Supervision.lean ====
section
/-! DEFINITION. The supervisor and the scheduler: kills and restarts (spec 21 R345 to R349), soft errors (R355, R356), twin
groups (R357), pre-emption and resumption (spec 22 R358 to R364), gang time slices (R365 to R367), ageing (spec 25 R395). -/

namespace Sys2Proof.Machine

/-! ## Kills and restarts (R345 to R347) -/

/-- The code of a cause, and whether the group restarts (R345); the KILL instruction says so itself. -/
def killCode (c : KillCause) : Nat :=
  match c with
  | .leaseViolation => 0x40 | .doubleTrap => 0x41 | .noTrapEntry => 0x42 | .killInstr => 0x43
  | .twinMismatch => 0x44 | .coreError => 0x45 | .stateError => 0x46
def killRestarts (c : KillCause) (asked : Bool) : Bool :=
  match c with
  | .killInstr => asked
  | .twinMismatch => asked
  | .coreError => true
  | _ => false
/-- The focus core holds a group that has not been killed. -/
def State.alive (s : State) : Bool := !s.core.vacant && !s.grp.stopped && !s.grp.ended
/-- GROUP_KILL (R346) of the group on the focus core. -/
def execGroupKill (cause : KillCause) (restart : Bool) (s : State) : Result :=
  .next (if s.alive then s.kill (killCode cause) 0 (killRestarts cause restart) else s.stall)
/-- What a primary holds back until its hash is matched, and has no injection entry for: its replies, which leave again after a restart
(R193, R347, R357). -/
def Group.heldReplies (g : Group) : List InjEntry :=
  let waiting := (g.twin.map (·.waiting)).getD []
  (waiting.filter fun w => !g.inj.any fun e => decide (e.id = w.2.1)).map fun w =>
    { id := w.2.1, kind := .reply, msg := w.2.2, stage := .waiting none }
/-- What a restart changes in a group's state, but for its activations (R347). -/
def Group.restartState (g : Group) : Group :=
  { g with
    trapact := false, sysact := false, trapQueue := [], preempt := none, blockedFor := 0
    busy := 0, lent := [], records := [], openJobs := [], jobQueued := 0, jobLast := 0, jobOpen := 0
    log := g.log.map fun e => { e with sent := false, egress := false }
    inj := g.heldReplies ++ g.inj.map fun e => match e.stage with | .sent => { e with stage := .bounced } | _ => e }
/-- Each running main or handler starts again with its retained message (R347); slot 3 is idle. -/
def Group.restartSlots (entry : CodeAddr) (g : Group) : Group :=
  let g := if (g.slot 0).active then g.startMain entry else g
  let again (k : SlotId) (g : Group) : Group :=
    match (g.slot k).active, (g.slot k).entry with
    | true, some i => g.startHandler k i
    | _, _ => g.mapSlot k Slot.idle
  (again 2 (again 1 g)).mapSlot 3 Slot.idle
/-- A killed group that is to restart moves to a spare core, the first free one in ascending (y, x) of its instance (log 77), where
its log is replayed (R272, R346): it stands there sealed and stopped. -/
def State.moveKilled (n : Name) (g : Group) (s : State) : State :=
  match s.launches.find? (fun l => l.id = g.launch) with
  | none => s.stall
  | some l =>
    match s.seat l g.ordinal true with
    | none => s.stall
    | some (c, d) =>
      let s := match (s.holder n).map (·.at_) with | some a => s.leaveCore a | none => s
      let s : State := { s with frames := s.frames.filter fun x => decide (x.name ≠ n) }
      let s := s.installGroup false c d { g.restartState.movedTo c with sealed := true, stopped := true }
      let s := s.mapLaunch l.id fun l => { l with unplaced := l.unplaced.filter (· ≠ g.ordinal) }
      s.mapKill l.part n fun k => { k with newCore := some c }
/-- The group restarts (R346, R347): the directory records its core, the name is unsealed, its activations start again, what the
sump kept for it is delivered, and the kill record is written. -/
def State.restart (n : Name) (c : Coord) (s : State) : State :=
  let go (s : State) : State :=
    let e := s.mainEntry
    s.mapGrp fun g => { g.restartSlots e with stopped := false, sealed := false }
  let g := (s.coreAt c).map (·.grp)
  let s := s.atCore c go
  let s := match (g.bind (·.twin)).map (·.partner) with | some d => s.atCore d go | none => s
  let s := s.mapDir n fun e => { e with residence := .resident c, sealed := false, moves := ((g.map fun g => bits g.posn.toNat 31 0).getD 0) }
  (s.deliverSump n c).writeKill ((g.map s.killPart).getD s.part0.id) n
/-- A killed group that has not been created starts on a spare core (R350). -/
def State.restartNew (n : Name) (s : State) : State :=
  match s.launchOf n with
  | none => s.stall
  | some (l, o) =>
    match (s.mapDir n fun e => { e with sealed := false }).placeNew l o true with
    | none => s.stall
    | some t =>
      let c := ((t.holder n).map (·.at_)).getD t.core.at_
      let t := t.mapKill l.part n fun k => { k with newCore := some c }
      (t.deliverSump n c).writeKill l.part n
/-- The gang of a launch runs, or is the one that a slice change is to pre-empt (R366). -/
def State.mayRestart (launch : Nat) (s : State) : Bool :=
  match s.launches.find? (fun l => l.id = launch) with
  | none => true
  | some l => let g := (s.partById l.part).gang; l.gang == (if g.changing then g.last else g.current)
/-- KILL_RESTART (R346 step 5, R359): first the move to the spare core, of a group that is not resident from its save image; and, when
the log has been replayed, the restart. A group whose gang does not run waits for its slice (R366). -/
def execKillRestart (name : Name) (s : State) : Result :=
  .next (match s.holder name, s.frames.find? (fun x => x.name = name) with
    | some c, _ =>
      if !c.grp.stopped || c.grp.ended || !s.mayRestart c.grp.launch then s.stall
      else if ((s.lastKill (s.killPart c.grp) name).bind (·.newCore)) = some c.at_ then
        (if c.grp.log.isEmpty then s.restart name c.at_ else s.stall)
      else s.moveKilled name c.grp
    | none, some x => if x.grp.stopped && !x.grp.ended && s.mayRestart x.grp.launch then s.moveKilled name (s.loadFrame x) else s.stall
    | none, none => if s.killWaits name && ((s.launchOf name).map fun l => s.mayRestart l.1.id).getD false then s.restartNew name else s.stall)

/-! ## Soft errors (R355, R356) -/

/-- CORRECTED_ERROR (R355): it is counted. -/
def execCorrectedError (s : State) : Result := .next (s.count 0x080 1 none)
/-- A log entry of the focus core's group is lost (R272, R355): the group is killed with 0x45, unless it has been killed already; it
is not replayed, and the record says so. -/
def State.loseEntry (i : Nat) (s : State) : State :=
  match s.grp.log[i]? with
  | none => s.stall
  | some e =>
    if s.core.vacant then s.stall
    else
      let n := s.grp.name
      let part := s.killPart s.grp
      let drop (g : Group) : Group := ({ g with log := listDrop g.log i } : Group).acknowledge fun _ => false
      if s.alive then ((s.mapGrp drop).kill 0x45 0 true).mapKill part n fun k => { k with lostWrites := true, lost := 1 }
      else
        let s := (s.mapGrp drop).mapKill part n fun k =>
          { k with lostWrites := true, lost := k.lost + 1, replayed := if e.isRecord then k.replayed - 1 else k.replayed }
        if s.grp.ended then s.writeKill part n else s
/-- The state of a killed group is lost as it is read out (R346 step 4): it ends with cause 0x46. -/
def State.loseState (s : State) : State :=
  let g := s.grp
  let n := g.name
  let part := s.killPart g
  let ids := g.withdrawn s.net
  let s := (s.recall n ids).mapGrp fun g => { ((g.settle 0 ids).mapSlots fun _ sl => sl.idle) with sealed := true, trapact := false, trapQueue := [] }
  let s := (s.mapDir n fun e => { e with ended := true }).endSump n
  (s.mapKill part n fun k => { k with cause := 0x46, restarted := false, lostState := true, newCore := none }).writeKill part n
/-- Does a job still read the well byte at `a` of a group? -/
def Operand.reads (n : Name) (a : Nat) (o : Operand) : Bool :=
  o.owner == n && (upTo o.rows).any fun r => decide (o.base + r * o.stride ≤ a) && decide (a < o.base + r * o.stride + o.width)
def Job.reads (n : Name) (a : Nat) (j : Job) : Bool :=
  match j.kind with
  | .step x => x.held.isNone && (x.a.reads n a || x.b.reads n a)
  | .copy x =>
    match x.src with
    | .well m b =>
      m == n && (upTo x.words).any fun w =>
        let r := w / (x.width / 8)
        decide (x.next ≤ w) && (b + r * x.sstride + w % (x.width / 8) * 8) / 8 == a / 8
    | .shared _ => false
  | _ => false
/-- A job meets an uncorrectable error (R309). -/
def Job.damage (j : Job) : Job := if j.error = 0 then { j with error := 2 } else j
/-- The jobs that have still to read a damaged byte of a group's well end with code 2 (R309, R325). -/
def State.damageWell (n : Name) (a : Nat) (s : State) : State :=
  { s with octets := s.octets.map fun o => { o with jobs := o.jobs.map fun j => if j.reads n a then j.damage else j } }
/-- UNCORRECTABLE_ERROR (R355): in group state a kill 0x46, and error 2 for the jobs that read the byte, in the log a lost entry, in registers a kill 0x45, in a cache a
discarded entry, in shared memory a poisoned word, in an engine error 2 of its running job. -/
def execUncorrectableError (storage : Storage) (at_ : Nat) (s : State) : Result :=
  .next (match storage with
    | .groupState =>
      let damaged := s.damageWell s.grp.name at_
      if s.core.vacant || s.grp.ended then s.stall else if s.grp.stopped then damaged.loseState else damaged.kill 0x46 0 false
    | .log => s.loseEntry at_
    | .registers => if s.alive then s.kill 0x45 0 true else s.stall
    | .caches =>
      s.mapCore fun c =>
        { c with tlb := listDrop c.tlb at_, names := listDrop c.names at_, view := listDrop c.view at_,
                 frontier := listDrop c.frontier at_, icache := listDrop c.icache at_, fnCopies := Vector.replicate 4 none }
    | .memory => { s with poisoned := (s.norm at_ / 8) :: s.poisoned.filter (· ≠ s.norm at_ / 8) }
    | .engine =>
      let o := s.octet (octetOf s.core.at_)
      match (o.jobs.filter (·.running)).find? (fun j => j.kind.onUnit .matrix) <|> o.jobs.find? (·.running) with
      | none => s.stall
      | some j => s.mapJob o.number j.owner j.serial fun j => { j with error := 2 })
/-- FLIT_CRC_RETRY (R356): the flit is resent; it is counted at the core's router. -/
def execFlitCrcRetry (s : State) : Result := .next (s.count 0x081 1 none)
/-- One bit of a CRC-32C, the least significant bit first (log 88). -/
def crcBit (bit : Bool) (c : BitVec 32) : BitVec 32 :=
  if c.getLsbD 0 == bit then c >>> 1 else (c >>> 1) ^^^ 0x82F63B78#32
/-- The check of a header: the CRC-32C of its bits [223:0] (R356). -/
def headerCheck (h : BitVec 256) : BitVec 32 := ~~~((upTo 224).foldl (fun c i => crcBit (h.getLsbD i) c) (BitVec.allOnes 32))
/-- A router's test of a header flit against its check field [255:224] (R168, R356). -/
def headerOk (h : BitVec 256) : Bool := h.extractLsb' 224 32 == headerCheck h
/-- The header flit of a message as its sending core puts it on the network, with its check field (R168, R356). -/
def Msg.wire (m : Msg) : BitVec 256 :=
  let h := BitVec.ofNat 256 (m.header % 2 ^ 224)
  h ||| ((headerCheck h).setWidth 256 <<< 224)
/-- The message that a packet carries, a notice among them (R164). -/
def Traffic.message? (b : Traffic) : Option Msg := match b with | .msg m | .notice m _ => some m | _ => none
/-- HEADER_CHECK_STOMP (R356): a router of the focus core finds that the header flit it has seen of a message is not what its sender's
check says. The message is resent once; if the copy fails too, the link is marked failed, and what goes the same way takes another
route (log 59). -/
def execHeaderCheckStomp (seen : HeaderSeen) (s : State) : Result :=
  .next (match s.net[seen.index]? with
    | none => s.stall
    | some p =>
      match p.body.message? with
      | some m =>
        if headerOk seen.header || seen.header == m.wire then s.stall
        else
          let s := s.count 0x082 1 none
          if p.stomped then
            { s.mapCore fun c => { c with failedLinks := c.failedLinks + 1 } with
              net := s.net.map fun x =>
                if x.source = p.source ∧ x.place = p.place then { x with rerouted := true, stomped := false } else x }
          else { s with net := listSet s.net seen.index { p with stomped := true } }
      | none => s.stall)

/-! ## Twin groups (R357) -/

/-- The mailbox entries that activations own. -/
def Group.runningEntries (g : Group) : List Nat := (upTo g.mbox.length).filter fun i => g.mbox[i]? == some EntryState.running
/-- A mismatch kills both replicas with cause 0x44; they restart from the primary's state, unless a message retained since an
earlier mismatch runs again. -/
def State.twinKill (s : State) : State :=
  match s.grp.twin with
  | none => s
  | some t =>
    s.atCore (if t.primary then s.core.at_ else t.partner) fun s =>
      let running := s.grp.runningEntries
      let second := match s.grp.twin with | some t => running.any t.suspects.contains | none => false
      (s.mapGrp fun g => { g with twin := g.twin.map fun (t : Twin) => { t with suspects := running } }).kill 0x44 0 (!second)
/-- The primary forwards the messages whose hashes have matched. -/
def State.forwardMatched (s : State) : State :=
  match s.grp.twin with
  | none => s
  | some t =>
    let due := t.waiting.filter fun w => decide (w.1 ≤ t.matched)
    let u : Twin := { t with waiting := t.waiting.filter fun w => decide (t.matched < w.1) }
    due.foldl (fun s w => s.sendOut w.2.1 w.2.2) (s.mapGrp fun g => { g with twin := some u })
/-- TWIN_HASH_ARRIVAL (R357): the partner's oldest hash meets this replica's; it waits while this replica has none. -/
def execTwinHashArrival (n : Nat) (s : State) : Result :=
  .next (match s.net[n]? with
    | none => s.stall
    | some p =>
      match p.body with
      | .twinHash h =>
        let earlier := (s.net.take n).any fun (x : Packet) => x.place == p.place && match x.body with | .twinHash _ => true | _ => false
        if p.place ≠ .core s.core.at_ || earlier then s.stall
        else
          let s' : State := { s with net := listDrop s.net n }
          match s.grp.twin with
          | none => s'
          | some t =>
            match t.hashes with
            | [] => s.stall
            | (own, _) :: rest =>
              if own ≠ h then s'.twinKill
              else
                let u : Twin := { t with matched := t.matched + 1, hashes := rest, records := t.records.filter fun r => decide (t.matched + 1 < r.1) }
                (s'.mapGrp fun g => { g with twin := some u }).forwardMatched
      | _ => s.stall)
/-- TWIN_HASH_TIMEOUT (R357): 65,536 cycles after this replica's hash the partner's is still missing. -/
def execTwinHashTimeout (s : State) : Result :=
  .next (match (s.grp.twin.map (·.hashes)).getD [] with
    | [] => s.stall
    | (_, c) :: _ => if s.alive && decide (c + 65536 ≤ s.cycle) then s.twinKill else s.stall)

/-! ## Pre-emption and resumption (R358, R363) -/

/-- The wells that a job reads. -/
def JobKind.sources : JobKind → List Name
  | .step x => [x.a.owner, x.b.owner]
  | .copy x => match x.src with | .well n _ => [n] | .shared _ => []
  | _ => []
/-- An engine job of the group's core, or one that reads its well, is queued or running (R305, R358). -/
def State.jobsTouch (s : State) (g : Group) : Bool :=
  s.octets.any fun o => o.jobs.any fun j => j.owner == g.name || j.kind.sources.contains g.name
/-- PREEMPTION_REQUEST (R358): the group on the focus core is to be pre-empted, or parked. -/
def execPreemptionRequest (park : Bool) (s : State) : Result :=
  .next (if s.alive && !s.grp.isSecondary && s.grp.preempt.isNone then s.mapGrp fun g => { g with preempt := some park } else s.stall)
/-- Both replicas of a twin have had all their outputs matched, and the secondary's core is quiet. -/
def State.twinQuiet (s : State) : Bool :=
  match s.grp.twin with
  | none => true
  | some t =>
    t.hashes.isEmpty && t.waiting.isEmpty &&
      match s.coreAt t.partner with
      | some d => d.quiet && ((d.grp.twin.map (·.hashes)).getD []).isEmpty && d.grp.log.isEmpty
      | none => true
/-- What the port of a core held goes on as its group leaves (R358): messages for the group to its sump queue, in the order of their
arrival, and the rest where it would have gone. -/
def State.passHeld (n : Name) (held : List Packet) (s : State) : State :=
  held.foldl (fun s p =>
    match p.body with
    | .msg m => if m.dest = n then s.atSump p m else s.pass p m
    | .nameUpdate name m c => s.mapCore (Core.learn name m c)
    | b => match b.to? with | some dst => s.passUpdate p dst | none => s) s
/-- Steps 3 and 4 of R358: the log, which is drained, is published at pod scope, the image is written, the directory marks the group,
what its port held goes on, and the core is free. -/
def State.saveAndLeave (park : Bool) (l : Launch) (base : Nat) (s : State) : State :=
  let s := s.mapCore fun x => let x := x.retiresAll s.board.fwWidth; { x with grp := x.grp.publish x.grp.logTail }
  let g := s.grp
  let n := g.name
  let c := s.core.at_
  let saved : Group := { g with
    preempt := none, sysact := false, blockedFor := if park then 0 else g.blockedFor
    twin := g.twin.map fun (t : Twin) => { t with made := 0, matched := 0 } }
  let s := s.writeMain base (g.saveImage s.cycle)
  let held := s.core.fills ++ s.core.held
  let s : State := { s with frames := s.frames ++ [{ name := n, base := base, cycle := BitVec.ofNat 64 s.cycle, grp := saved }] }
  let s := s.mapDir n fun e => { e with residence := if park then .parked else .preempted }
  -- the secondary is given up, and what its open batch lends is lent by the primary's alone (R295, R357)
  let s := match g.twin with
    | some t => (s.mapAt t.partner (Core.vacate s.board.fwWidth)).mapGroups (Group.unlend fun j => j.1 == n && decide (2 ^ 40 ≤ j.2))
    | none => s
  let s := (s.mapAt c (Core.vacate s.board.fwWidth)).passHeld n held
  if park then s.mapLaunch l.id fun l => { l with unplaced := l.unplaced ++ [g.ordinal] } else s
/-- PREEMPTION_START (R358, R359): once swaps, traps and jobs are over the system activation begins, and slots 0 to 2 stop;
once the group is quiet and drained it leaves its core. -/
def execPreemptionStart (s : State) : Result :=
  .next (match s.grp.preempt with
    | none => s.stall
    | some park =>
      if !s.alive then s.stall
      else if !s.grp.sysact then
        (if s.core.swap.isSome || s.grp.trapact || !s.grp.trapQueue.isEmpty || (s.grp.slot 3).active || s.jobsTouch s.grp then s.stall
         else (if s.core.asleep.isSome then s.wake else s).mapGrp fun g => { g with sysact := true })
      else if !s.core.quiet || !s.grp.drained || !s.twinQuiet then s.stall
      else
        match s.launch? with
        | none => s.stall
        | some l =>
          match s.freeFrame l with
          | none => s.stall
          | some base =>
            -- an image longer than its frame waits until it fits (R360; log 89)
            if s.grp.imageFits then s.saveAndLeave park l base else s.stall)
/-- RESUMPTION (R363, R367): of a pre-empted group on a free core of its domain instances, while its gang runs; a parked
group keeps its place in the order of R161. -/
def execResumption (name : Name) (core : Coord) (s : State) : Result :=
  .next (match s.frames.find? (fun x => x.name = name) with
    | none => s.stall
    | some x =>
      match s.launches.find? (fun l => l.id = x.grp.launch) with
      | none => s.stall
      | some l =>
        let ord := x.grp.ordinal
        let second := if l.isTwin ord then s.coreFor l ord fun d => decide (2 ≤ distance core d) else none
        let turn := !l.unplaced.contains ord || s.nextPlaced l == some ord
        if x.grp.stopped || !s.gangRuns l || !turn || !s.hasRoom l ord false || !s.isFree l.part core || !l.mayStand ord core || (l.isTwin ord && second.isNone) then
          s.stall
        else s.resume name core second x)

/-- The pre-empted groups whose gang runs, each with the core that it can resume on (R363, R366). -/
def State.resumable (s : State) : List (Name × Coord) :=
  s.frames.filterMap fun x =>
    match s.launches.find? (fun l => l.id = x.grp.launch) with
    | some l =>
      if x.grp.stopped || !s.gangRuns l || l.unplaced.contains x.grp.ordinal then none
      else (s.seat l x.grp.ordinal false).map fun c => (x.name, c.1)
    | none => none
/-- The killed groups that the supervisor has still to restart (R346). -/
def State.restartable (s : State) : List Name :=
  let due (g : Group) : Bool := g.stopped && !g.ended && !g.isSecondary
  ((s.cores.filter fun c => !c.vacant && due c.grp).map fun c => c.grp.name) ++ (s.frames.filter fun x => due x.grp).map (·.name) ++
    (s.directory.filter fun e => s.killWaits e.name).map (·.name)

/-! ## Gang time slices (R365, R366) -/

/-- SLICE_INSTANT (R366): the partition's PTP time has reached the next instant; no packet is taken until the change ends. -/
def execSliceInstant (s : State) : Result :=
  let g := s.part.gang
  .next (if g.changing || s.sliceNow g ≤ g.slice then s.stall
    else
      let n := s.sliceNow g
      s.mapPart s.part.id fun p => { p with gang := { g with changing := true, last := g.current, slice := n, current := n.toNat % g.gangs } })
/-- A resident group of the partition belongs to a gang whose slice does not run. -/
def State.outgoing (s : State) (c : Core) : Bool :=
  !c.vacant && !c.grp.isSecondary && !c.grp.ended && (s.partAt c.at_).id == s.part.id &&
    match s.launches.find? (fun l => l.id = c.grp.launch) with
    | some l => l.gang != s.part.gang.current
    | none => false
/-- A launch of the outgoing gang whose packet has been taken, and that can be admitted, in the order of its queue, is finished first
(R366). -/
def State.inProcessing (s : State) : Bool :=
  s.launches.any fun l =>
    l.part == s.part.id && !l.admitted && !l.ended && l.gang == s.part.gang.last && s.nextOf l && (s.issueNames l.groups).isSome &&
      (s.backLeases l (s.poolUsed l) s.memUsed 0 l.leases).isSome
/-- SLICE_CHANGE (R366): every resident group of the outgoing gang is to be pre-empted, one that has been killed once it has restarted;
when all have left, the change ends, and the groups of the incoming gang resume. -/
def execSliceChange (s : State) : Result :=
  let out := s.cores.filter s.outgoing
  let fresh := out.filter fun c => c.grp.preempt.isNone && !c.grp.stopped
  .next (if !s.part.gang.changing || s.inProcessing then s.stall
    else if out.isEmpty then s.mapPart s.part.id fun p => { p with gang := { p.gang with changing := false } }
    else if fresh.isEmpty then s.stall
    else fresh.foldl (fun s c => s.mapAt c.at_ fun x => { x with grp := { x.grp with preempt := some false } }) s)
/-- PTP_MESSAGE (R365): the boundary clock corrects the module's PTP time by the offset that an exchange has measured. No port takes one
after a boot that has failed (R392). -/
def execPtpMessage (offset : Int) (s : State) : Result := .next (if s.board.failed then s.stall else { s with ptpOffset := s.ptpOffset + offset })

/-! ## Ageing (R395) -/

/-- The cores at k steps of the mesh from `c`. -/
def ringOf (c : Coord) (k : Nat) : List Coord :=
  (upTo (4 * k)).filterMap fun i =>
    let r := i % k
    match i / k with
    | 0 => some { x := c.x + (k - r), y := c.y + r }
    | 1 => if r ≤ c.x then some { x := c.x - r, y := c.y + (k - r) } else none
    | 2 => if k - r ≤ c.x ∧ r ≤ c.y then some { x := c.x - (k - r), y := c.y - r } else none
    | _ => if k - r ≤ c.y then some { x := c.x + r, y := c.y - (k - r) } else none
/-- The neighbours of `h` that are a step nearer to `c`. -/
def nearer (c h : Coord) : List Coord :=
  (if h.x < c.x then [{ h with x := h.x + 1 }] else if c.x < h.x then [{ h with x := h.x - 1 }] else []) ++
  (if h.y < c.y then [{ h with y := h.y + 1 }] else if c.y < h.y then [{ h with y := h.y - 1 }] else [])
/-- The placeable cores that are free at k steps from `c`, each with the cores before it on the way. -/
def State.holesFrom (s : State) (c : Coord) (k : Nat) : List (Coord × Coord) :=
  ((ringOf c k).filter (s.isFree (s.partAt c).id)).flatMap fun h => (nearer c h).map fun x => (h, x)
/-- A swap of the chain may start: the core before the free one changes with it once its group may move (R213, R216). -/
def State.mayStep (s : State) (h : Coord × Coord) : Bool :=
  match s.coreAt h.2 with
  | none => false
  | some a => !(a.vacant || s.inSwap h.2 h.1 || s.swapSkipped h.2 h.1 a.grp Group.reset || a.grp.preempt.isSome || a.grp.sysact)
/-- One swap of a chain that moves the group away, from the nearest free core where one may start (R395; log 60). -/
def State.evacuate (c : Coord) (s : State) : State :=
  let swap (k : Nat) : Option (Coord × Coord) := (s.holesFrom c k).find? s.mayStep
  match (firstFrom (fun k => (swap k).isSome) 1 (Config.columns + Config.rows)).bind swap with
  | none => s
  | some (hole, x) => s.lockPair x hole
/-- The annealer driver of each partition goes on with its evacuations (R395). -/
def State.evacuateAll (s : State) : State :=
  (s.cores.filter fun c => c.evacuating.isSome && !c.vacant && c.swap.isNone).foldl (fun s c => s.atCore c.at_ (State.evacuate c.at_)) s
/-- The cores that a group could be placed on (R10). -/
def State.placeableCount (s : State) : Nat :=
  (Config.columns - 4 * s.board.fwWidth) * Config.rows -
    (s.cores.filter fun c => decide (4 * s.board.fwWidth ≤ c.at_.x) && (c.retired || c.evacuating.isSome)).length
/-- A core is to be retired (R395): at once if it holds no group, or else when its group has left it. -/
def Core.age (cycle : Nat) (x : Core) : Core :=
  if x.vacant && x.swap.isNone then { x with retired := true, evacuating := none }
  else { x with evacuating := some (x.evacuating.getD cycle) }
/-- SLACK_MEASUREMENT (R395): a die with a cluster whose slack falls below the table's limit has its clock lengthened, and the margin planner sets
the offsets of the die, which are free values (log 18); a core below the
retirement limit is evacuated, and retired when it holds no group, as far as the spares of R10 last. After a boot that has failed nobody
measures (R392). -/
def execSlackMeasurement (core : Coord) (slack : Int) (s0 : State) : Result :=
  let k := clusterOf core
  let rest := s0.board.slow.filter (· ≠ k)
  let s : State := { s0 with board := { s0.board with
    slow := if slack < Config.clockLimit then k :: rest else rest
    margins := (dieOf core, Config.marginOffsets s0.ticks) :: s0.board.margins.filter fun e => decide (e.1 ≠ dieOf core) } }
  .next (if s0.board.failed then s0.stall else if Config.retirementLimit ≤ slack || core.x < 4 * s.board.fwWidth || s.placeableCount ≤ Config.guaranteed then s
    else (s.atCore core (State.mapCore (Core.age s.cycle))).evacuateAll)
/-- EVACUATION_TIMEOUT (R395): the evacuation of the focus core has lasted one second; its group is killed with restart. -/
def execEvacuationTimeout (s : State) : Result :=
  .next (match s.core.evacuating with
    | none => s.stall
    | some t => if s.alive && decide (t + 2700000000 ≤ s.cycle) then s.kill 0x43 0 true else s.stall)

end Sys2Proof.Machine
end

