-- ==== Sys2Proof/Machine/Dispatch.lean ====
section
/-! DEFINITION. The one match on instructions and events: each arm calls the meaning of its constructor. -/

namespace Sys2Proof.Machine

/-- What an instruction or event does to the module. -/
def exec (i : Instr) (s : State) : Host.Outcome State Fault Refusal :=
  match i with
  | .add d a b => Sys2Proof.Machine.execAdd d a b s
  | .sub d a b => Sys2Proof.Machine.execSub d a b s
  | .and d a b => Sys2Proof.Machine.execAnd d a b s
  | .or d a b => Sys2Proof.Machine.execOr d a b s
  | .xor d a b => Sys2Proof.Machine.execXor d a b s
  | .andn d a b => Sys2Proof.Machine.execAndn d a b s
  | .orn d a b => Sys2Proof.Machine.execOrn d a b s
  | .sll d a b => Sys2Proof.Machine.execSll d a b s
  | .srl d a b => Sys2Proof.Machine.execSrl d a b s
  | .sra d a b => Sys2Proof.Machine.execSra d a b s
  | .rol d a b => Sys2Proof.Machine.execRol d a b s
  | .ror d a b => Sys2Proof.Machine.execRor d a b s
  | .mul d a b => Sys2Proof.Machine.execMul d a b s
  | .mulh d a b => Sys2Proof.Machine.execMulh d a b s
  | .mulhu d a b => Sys2Proof.Machine.execMulhu d a b s
  | .div d a b => Sys2Proof.Machine.execDiv d a b s
  | .divu d a b => Sys2Proof.Machine.execDivu d a b s
  | .rem d a b => Sys2Proof.Machine.execRem d a b s
  | .remu d a b => Sys2Proof.Machine.execRemu d a b s
  | .min d a b => Sys2Proof.Machine.execMin d a b s
  | .max d a b => Sys2Proof.Machine.execMax d a b s
  | .minu d a b => Sys2Proof.Machine.execMinu d a b s
  | .maxu d a b => Sys2Proof.Machine.execMaxu d a b s
  | .slt d a b => Sys2Proof.Machine.execSlt d a b s
  | .sltu d a b => Sys2Proof.Machine.execSltu d a b s
  | .seq d a b => Sys2Proof.Machine.execSeq d a b s
  | .sne d a b => Sys2Proof.Machine.execSne d a b s
  | .movz d a b => Sys2Proof.Machine.execMovz d a b s
  | .movnz d a b => Sys2Proof.Machine.execMovnz d a b s
  | .clz d a => Sys2Proof.Machine.execClz d a s
  | .ctz d a => Sys2Proof.Machine.execCtz d a s
  | .popc d a => Sys2Proof.Machine.execPopc d a s
  | .brev d a => Sys2Proof.Machine.execBrev d a s
  | .bswap d a => Sys2Proof.Machine.execBswap d a s
  | .sxb d a => Sys2Proof.Machine.execSxb d a s
  | .sxh d a => Sys2Proof.Machine.execSxh d a s
  | .sxw d a => Sys2Proof.Machine.execSxw d a s
  | .zxw d a => Sys2Proof.Machine.execZxw d a s
  | .addi d a imm => Sys2Proof.Machine.execAddi d a imm s
  | .andi d a imm => Sys2Proof.Machine.execAndi d a imm s
  | .ori d a imm => Sys2Proof.Machine.execOri d a imm s
  | .xori d a imm => Sys2Proof.Machine.execXori d a imm s
  | .slti d a imm => Sys2Proof.Machine.execSlti d a imm s
  | .sltiu d a imm => Sys2Proof.Machine.execSltiu d a imm s
  | .lih d imm => Sys2Proof.Machine.execLih d imm s
  | .slli d a imm => Sys2Proof.Machine.execSlli d a imm s
  | .srli d a imm => Sys2Proof.Machine.execSrli d a imm s
  | .srai d a imm => Sys2Proof.Machine.execSrai d a imm s
  | .rori d a imm => Sys2Proof.Machine.execRori d a imm s
  | .beq b a imm => Sys2Proof.Machine.execBeq b a imm s
  | .bne b a imm => Sys2Proof.Machine.execBne b a imm s
  | .blt b a imm => Sys2Proof.Machine.execBlt b a imm s
  | .bge b a imm => Sys2Proof.Machine.execBge b a imm s
  | .bltu b a imm => Sys2Proof.Machine.execBltu b a imm s
  | .bgeu b a imm => Sys2Proof.Machine.execBgeu b a imm s
  | .jal imm => Sys2Proof.Machine.execJal imm s
  | .jalr d a imm => Sys2Proof.Machine.execJalr d a imm s
  | .loop a body => Sys2Proof.Machine.execLoop a body s
  | .loopi count body => Sys2Proof.Machine.execLoopi count body s
  | .ldb d a imm => Sys2Proof.Machine.execLdb d a imm s
  | .ldbu d a imm => Sys2Proof.Machine.execLdbu d a imm s
  | .ldh d a imm => Sys2Proof.Machine.execLdh d a imm s
  | .ldhu d a imm => Sys2Proof.Machine.execLdhu d a imm s
  | .ldw d a imm => Sys2Proof.Machine.execLdw d a imm s
  | .ldwu d a imm => Sys2Proof.Machine.execLdwu d a imm s
  | .ldd d a imm => Sys2Proof.Machine.execLdd d a imm s
  | .stb b a imm => Sys2Proof.Machine.execStb b a imm s
  | .sth b a imm => Sys2Proof.Machine.execSth b a imm s
  | .stw b a imm => Sys2Proof.Machine.execStw b a imm s
  | .std b a imm => Sys2Proof.Machine.execStd b a imm s
  | .ldv d a imm => Sys2Proof.Machine.execLdv d a imm s
  | .stv b a imm => Sys2Proof.Machine.execStv b a imm s
  | .ldvs w d a b => Sys2Proof.Machine.execLdvs w d a b s
  | .stvs w d a b => Sys2Proof.Machine.execStvs w d a b s
  | .ldf d a => Sys2Proof.Machine.execLdf d a s
  | .ldfk d a => Sys2Proof.Machine.execLdfk d a s
  | .ste a b => Sys2Proof.Machine.execSte a b s
  | .setf a => Sys2Proof.Machine.execSetf a s
  | .sete a => Sys2Proof.Machine.execSete a s
  | .tstf d a => Sys2Proof.Machine.execTstf d a s
  | .fadd t d a b => Sys2Proof.Machine.execFadd t d a b s
  | .fsub t d a b => Sys2Proof.Machine.execFsub t d a b s
  | .fmul t d a b => Sys2Proof.Machine.execFmul t d a b s
  | .ffma t d a b c => Sys2Proof.Machine.execFfma t d a b c s
  | .fdiv t d a b => Sys2Proof.Machine.execFdiv t d a b s
  | .fsqrt t d a => Sys2Proof.Machine.execFsqrt t d a s
  | .fmin t d a b => Sys2Proof.Machine.execFmin t d a b s
  | .fmax t d a b => Sys2Proof.Machine.execFmax t d a b s
  | .feq t d a b => Sys2Proof.Machine.execFeq t d a b s
  | .flt t d a b => Sys2Proof.Machine.execFlt t d a b s
  | .fle t d a b => Sys2Proof.Machine.execFle t d a b s
  | .fclass t d a => Sys2Proof.Machine.execFclass t d a s
  | .fcvt dst src d a => Sys2Proof.Machine.execFcvt dst src d a s
  | .mfs d n => Sys2Proof.Machine.execMfs d n s
  | .mts a n => Sys2Proof.Machine.execMts a n s
  | .mfsp d slot n => Sys2Proof.Machine.execMfsp d slot n s
  | .mtsp a slot n => Sys2Proof.Machine.execMtsp a slot n s
  | .endh => Sys2Proof.Machine.execEndh s
  | .yield => Sys2Proof.Machine.execYield s
  | .wfe => Sys2Proof.Machine.execWfe s
  | .trap n => Sys2Proof.Machine.execTrap n s
  | .eret => Sys2Proof.Machine.execEret s
  | .kill a => Sys2Proof.Machine.execKill a s
  | .seal a => Sys2Proof.Machine.execSeal a s
  | .unseal a => Sys2Proof.Machine.execUnseal a s
  | .tlbw a b => Sys2Proof.Machine.execTlbw a b s
  | .ancfg a b => Sys2Proof.Machine.execAncfg a b s
  | .anrun a => Sys2Proof.Machine.execAnrun a s
  | .anread d a => Sys2Proof.Machine.execAnread d a s
  | .sleepc a => Sys2Proof.Machine.execSleepc a s
  | .send a b => Sys2Proof.Machine.execSend a b s
  | .sendr d a b => Sys2Proof.Machine.execSendr d a b s
  | .noticeResend isSendr d a b => Sys2Proof.Machine.execNoticeResend isSendr d a b s
  | .reply a b => Sys2Proof.Machine.execReply a b s
  | .vput v a => Sys2Proof.Machine.execVput v a s
  | .vputr v a => Sys2Proof.Machine.execVputr v a s
  | .vhold d => Sys2Proof.Machine.execVhold d s
  | .qput q a => Sys2Proof.Machine.execQput q a s
  | .qget d q => Sys2Proof.Machine.execQget d q s
  | .qflush q => Sys2Proof.Machine.execQflush q s
  | .qcnt d q => Sys2Proof.Machine.execQcnt d q s
  | .chopen a b => Sys2Proof.Machine.execChopen a b s
  | .chclose a => Sys2Proof.Machine.execChclose a s
  | .maskc a => Sys2Proof.Machine.execMaskc a s
  | .unmaskc a => Sys2Proof.Machine.execUnmaskc a s
  | .lname d a => Sys2Proof.Machine.execLname d a s
  | .pos d => Sys2Proof.Machine.execPos d s
  | .anchor => Sys2Proof.Machine.execAnchor s
  | .unanch => Sys2Proof.Machine.execUnanch s
  | .bar n => Sys2Proof.Machine.execBar n s
  | .bara n => Sys2Proof.Machine.execBara n s
  | .barw n => Sys2Proof.Machine.execBarw n s
  | .sld d a => Sys2Proof.Machine.execSld d a s
  | .sst m a b => Sys2Proof.Machine.execSst m a b s
  | .sldv d a => Sys2Proof.Machine.execSldv d a s
  | .sstv v a => Sys2Proof.Machine.execSstv v a s
  | .lda d a => Sys2Proof.Machine.execLda d a s
  | .sstr m a b => Sys2Proof.Machine.execSstr m a b s
  | .rel scope => Sys2Proof.Machine.execRel scope s
  | .acq a b => Sys2Proof.Machine.execAcq a b s
  | .fence => Sys2Proof.Machine.execFence s
  | .atomAdd ord d a b => Sys2Proof.Machine.execAtomAdd ord d a b s
  | .atomMin ord d a b => Sys2Proof.Machine.execAtomMin ord d a b s
  | .atomMax ord d a b => Sys2Proof.Machine.execAtomMax ord d a b s
  | .atomAnd ord d a b => Sys2Proof.Machine.execAtomAnd ord d a b s
  | .atomOr ord d a b => Sys2Proof.Machine.execAtomOr ord d a b s
  | .atomXor ord d a b => Sys2Proof.Machine.execAtomXor ord d a b s
  | .atomSwap ord d a b => Sys2Proof.Machine.execAtomSwap ord d a b s
  | .atomCas ord d a b => Sys2Proof.Machine.execAtomCas ord d a b s
  | .tlblk a => Sys2Proof.Machine.execTlblk a s
  | .tlbul a => Sys2Proof.Machine.execTlbul a s
  | .tlbprb d a => Sys2Proof.Machine.execTlbprb d a s
  | .mstep wf rows d a b => Sys2Proof.Machine.execMstep wf rows d a b s
  | .mcommit d => Sys2Proof.Machine.execMcommit d s
  | .jwait a => Sys2Proof.Machine.execJwait a s
  | .jpoll d a => Sys2Proof.Machine.execJpoll d a s
  | .tcfg t => Sys2Proof.Machine.execTcfg t s
  | .trel => Sys2Proof.Machine.execTrel s
  | .tzero a => Sys2Proof.Machine.execTzero a s
  | .dtload a => Sys2Proof.Machine.execDtload a s
  | .ampush n => Sys2Proof.Machine.execAmpush n s
  | .amscale fmt d n => Sys2Proof.Machine.execAmscale fmt d n s
  | .cpy d a b => Sys2Proof.Machine.execCpy d a b s
  | .cpy2 d a b => Sys2Proof.Machine.execCpy2 d a b s
  | .coll d a b => Sys2Proof.Machine.execColl d a b s
  | .vbci t d m imm => Sys2Proof.Machine.execVbci t d m imm s
  | .vaddF t d a b m p => Sys2Proof.Machine.execVaddF t d a b m p s
  | .vaddI t d a b m p => Sys2Proof.Machine.execVaddI t d a b m p s
  | .vsubF t d a b m p => Sys2Proof.Machine.execVsubF t d a b m p s
  | .vsubI t d a b m p => Sys2Proof.Machine.execVsubI t d a b m p s
  | .vmulF t d a b m p => Sys2Proof.Machine.execVmulF t d a b m p s
  | .vmulI t d a b m p => Sys2Proof.Machine.execVmulI t d a b m p s
  | .vminF t d a b m p => Sys2Proof.Machine.execVminF t d a b m p s
  | .vminI t d a b m p => Sys2Proof.Machine.execVminI t d a b m p s
  | .vmaxF t d a b m p => Sys2Proof.Machine.execVmaxF t d a b m p s
  | .vmaxI t d a b m p => Sys2Proof.Machine.execVmaxI t d a b m p s
  | .vabsF t d b m p => Sys2Proof.Machine.execVabsF t d b m p s
  | .vabsI t d b m p => Sys2Proof.Machine.execVabsI t d b m p s
  | .vnegF t d b m p => Sys2Proof.Machine.execVnegF t d b m p s
  | .vnegI t d b m p => Sys2Proof.Machine.execVnegI t d b m p s
  | .vceqF t d a b m p => Sys2Proof.Machine.execVceqF t d a b m p s
  | .vceqI t d a b m p => Sys2Proof.Machine.execVceqI t d a b m p s
  | .vcltF t d a b m p => Sys2Proof.Machine.execVcltF t d a b m p s
  | .vcltI t d a b m p => Sys2Proof.Machine.execVcltI t d a b m p s
  | .vcleF t d a b m p => Sys2Proof.Machine.execVcleF t d a b m p s
  | .vcleI t d a b m p => Sys2Proof.Machine.execVcleI t d a b m p s
  | .vrsumF t d b m p => Sys2Proof.Machine.execVrsumF t d b m p s
  | .vrsumI t d b m p => Sys2Proof.Machine.execVrsumI t d b m p s
  | .vrmaxF t d b m p => Sys2Proof.Machine.execVrmaxF t d b m p s
  | .vrmaxI t d b m p => Sys2Proof.Machine.execVrmaxI t d b m p s
  | .vrminF t d b m p => Sys2Proof.Machine.execVrminF t d b m p s
  | .vrminI t d b m p => Sys2Proof.Machine.execVrminI t d b m p s
  | .vfma t d a b m p => Sys2Proof.Machine.execVfma t d a b m p s
  | .vfms t d a b m p => Sys2Proof.Machine.execVfms t d a b m p s
  | .vfnma t d a b m p => Sys2Proof.Machine.execVfnma t d a b m p s
  | .vdiv t d a b m p => Sys2Proof.Machine.execVdiv t d a b m p s
  | .vsqrt t d b m p => Sys2Proof.Machine.execVsqrt t d b m p s
  | .vshl t d a b m p => Sys2Proof.Machine.execVshl t d a b m p s
  | .vshr t d a b m p => Sys2Proof.Machine.execVshr t d a b m p s
  | .vsra t d a b m p => Sys2Proof.Machine.execVsra t d a b m p s
  | .vand w d a b m p => Sys2Proof.Machine.execVand w d a b m p s
  | .vor w d a b m p => Sys2Proof.Machine.execVor w d a b m p s
  | .vxor w d a b m p => Sys2Proof.Machine.execVxor w d a b m p s
  | .vsel w d a b m p => Sys2Proof.Machine.execVsel w d a b m p s
  | .vmov w d b m p => Sys2Proof.Machine.execVmov w d b m p s
  | .vbc w d a m => Sys2Proof.Machine.execVbc w d a m s
  | .vext w d b a p => Sys2Proof.Machine.execVext w d b a p s
  | .vins w d a b m => Sys2Proof.Machine.execVins w d a b m s
  | .vpack w d a b m p => Sys2Proof.Machine.execVpack w d a b m p s
  | .vunpk w d b h m p => Sys2Proof.Machine.execVunpk w d b h m p s
  | .vstq w q b p => Sys2Proof.Machine.execVstq w q b p s
  | .vcvt dst src d a m => Sys2Proof.Machine.execVcvt dst src d a m s
  | .vquant dst src d a m => Sys2Proof.Machine.execVquant dst src d a m s
  | .vdeq dst src d a m => Sys2Proof.Machine.execVdeq dst src d a m s
  | .vamax t n b m p => Sys2Proof.Machine.execVamax t n b m p s
  | .vfn t fn d b m p => Sys2Proof.Machine.execVfn t fn d b m p s
  | .vlut t n d b m p => Sys2Proof.Machine.execVlut t n d b m p s
  | .mand d a b => Sys2Proof.Machine.execMand d a b s
  | .mor d a b => Sys2Proof.Machine.execMor d a b s
  | .mxor d a b => Sys2Proof.Machine.execMxor d a b s
  | .mnot d a => Sys2Proof.Machine.execMnot d a s
  | .mpopc d a => Sys2Proof.Machine.execMpopc d a s
  | .mfrom d a => Sys2Proof.Machine.execMfrom d a s
  | .mto d a => Sys2Proof.Machine.execMto d a s
  | .reservedInstruction w => Sys2Proof.Machine.execReservedInstruction w s
  | .instructionAddressTrap => Sys2Proof.Machine.execInstructionAddressTrap s
  | .moduleReset => Sys2Proof.Machine.execModuleReset s
  | .kernelReplacement image => Sys2Proof.Machine.execKernelReplacement image s
  | .hotPatch base entries inactive => Sys2Proof.Machine.execHotPatch base entries inactive s
  | .partitionConfig part dies => Sys2Proof.Machine.execPartitionConfig part dies s
  | .notifyWrite queue index => Sys2Proof.Machine.execNotifyWrite queue index s
  | .apertureWake queue => Sys2Proof.Machine.execApertureWake queue s
  | .launchPacket queue => Sys2Proof.Machine.execLaunchPacket queue s
  | .hostBar2Access write at_ value => Sys2Proof.Machine.execHostBar2Access write at_ value s
  | .admission launch => Sys2Proof.Machine.execAdmission launch s
  | .oversubscriptionPark launch => Sys2Proof.Machine.execOversubscriptionPark launch s
  | .placeUnplaced launch => Sys2Proof.Machine.execPlaceUnplaced launch s
  | .handlerStart k => Sys2Proof.Machine.execHandlerStart k s
  | .injection n => Sys2Proof.Machine.execInjection n s
  | .streamInjection q => Sys2Proof.Machine.execStreamInjection q s
  | .messageArrival n => Sys2Proof.Machine.execMessageArrival n s
  | .reinjection n => Sys2Proof.Machine.execReinjection n s
  | .acceptanceArrival n => Sys2Proof.Machine.execAcceptanceArrival n s
  | .noticeArrival n => Sys2Proof.Machine.execNoticeArrival n s
  | .noticeWrite n => Sys2Proof.Machine.execNoticeWrite n s
  | .replyArrival n => Sys2Proof.Machine.execReplyArrival n s
  | .registerWriteArrival n => Sys2Proof.Machine.execRegisterWriteArrival n s
  | .deferredFill n => Sys2Proof.Machine.execDeferredFill n s
  | .streamArrival n => Sys2Proof.Machine.execStreamArrival n s
  | .creditReturn n => Sys2Proof.Machine.execCreditReturn n s
  | .nameCacheUpdate n => Sys2Proof.Machine.execNameCacheUpdate n s
  | .directoryArrival n => Sys2Proof.Machine.execDirectoryArrival n s
  | .directoryUpdate n => Sys2Proof.Machine.execDirectoryUpdate n s
  | .sumpArrival n => Sys2Proof.Machine.execSumpArrival n s
  | .sweepStart => Sys2Proof.Machine.execSweepStart s
  | .sweepResult launch => Sys2Proof.Machine.execSweepResult launch s
  | .roundInstant => Sys2Proof.Machine.execRoundInstant s
  | .weightUpdateArrival n => Sys2Proof.Machine.execWeightUpdateArrival n s
  | .phaseStart => Sys2Proof.Machine.execPhaseStart s
  | .pairDecision lower => Sys2Proof.Machine.execPairDecision lower s
  | .swapFreezeEnd => Sys2Proof.Machine.execSwapFreezeEnd s
  | .swapDrainEnd => Sys2Proof.Machine.execSwapDrainEnd s
  | .swapInstall => Sys2Proof.Machine.execSwapInstall s
  | .swapResume => Sys2Proof.Machine.execSwapResume s
  | .swapAbort => Sys2Proof.Machine.execSwapAbort s
  | .positionUpdateArrival n => Sys2Proof.Machine.execPositionUpdateArrival n s
  | .forwardPointerExpiry n => Sys2Proof.Machine.execForwardPointerExpiry n s
  | .roundEnd => Sys2Proof.Machine.execRoundEnd s
  | .commitEnd => Sys2Proof.Machine.execCommitEnd s
  | .tlbMissReply => Sys2Proof.Machine.execTlbMissReply s
  | .loadReply tag => Sys2Proof.Machine.execLoadReply tag s
  | .viewCacheFill n => Sys2Proof.Machine.execViewCacheFill n s
  | .logPumpSend => Sys2Proof.Machine.execLogPumpSend s
  | .recordApply n => Sys2Proof.Machine.execRecordApply n s
  | .recordAck n => Sys2Proof.Machine.execRecordAck n s
  | .egressAck n => Sys2Proof.Machine.execEgressAck n s
  | .logRefill => Sys2Proof.Machine.execLogRefill s
  | .atomicExecute n => Sys2Proof.Machine.execAtomicExecute n s
  | .atomicReturn n => Sys2Proof.Machine.execAtomicReturn n s
  | .jobStart u => Sys2Proof.Machine.execJobStart u s
  | .jobComplete u => Sys2Proof.Machine.execJobComplete u s
  | .copyWordWrite => Sys2Proof.Machine.execCopyWordWrite s
  | .collChildArrival n => Sys2Proof.Machine.execCollChildArrival n s
  | .trapActivationStart => Sys2Proof.Machine.execTrapActivationStart s
  | .asyncErrorReturn tag => Sys2Proof.Machine.execAsyncErrorReturn tag s
  | .groupKill cause restart => Sys2Proof.Machine.execGroupKill cause restart s
  | .sealConfirmation k => Sys2Proof.Machine.execSealConfirmation k s
  | .killRestart name => Sys2Proof.Machine.execKillRestart name s
  | .twinHashArrival n => Sys2Proof.Machine.execTwinHashArrival n s
  | .twinHashTimeout => Sys2Proof.Machine.execTwinHashTimeout s
  | .correctedError => Sys2Proof.Machine.execCorrectedError s
  | .uncorrectableError storage at_ => Sys2Proof.Machine.execUncorrectableError storage at_ s
  | .flitCrcRetry => Sys2Proof.Machine.execFlitCrcRetry s
  | .headerCheckStomp seen => Sys2Proof.Machine.execHeaderCheckStomp seen s
  | .preemptionRequest park => Sys2Proof.Machine.execPreemptionRequest park s
  | .preemptionStart => Sys2Proof.Machine.execPreemptionStart s
  | .resumption name core => Sys2Proof.Machine.execResumption name core s
  | .sliceInstant => Sys2Proof.Machine.execSliceInstant s
  | .sliceChange => Sys2Proof.Machine.execSliceChange s
  | .ptpMessage offset => Sys2Proof.Machine.execPtpMessage offset s
  | .sleepcWake => Sys2Proof.Machine.execSleepcWake s
  | .fabricFlitArrival port vc => Sys2Proof.Machine.execFabricFlitArrival port vc s
  | .fabricEmptyFlit port => Sys2Proof.Machine.execFabricEmptyFlit port s
  | .fabricLinkFailed port => Sys2Proof.Machine.execFabricLinkFailed port s
  | .fabricUnreachable module => Sys2Proof.Machine.execFabricUnreachable module s
  | .podCollectivePacket n => Sys2Proof.Machine.execPodCollectivePacket n s
  | .chunkArrival n => Sys2Proof.Machine.execChunkArrival n s
  | .chunkAck n => Sys2Proof.Machine.execChunkAck n s
  | .edgeSilenceTimeout n => Sys2Proof.Machine.execEdgeSilenceTimeout n s
  | .slackMeasurement core slack => Sys2Proof.Machine.execSlackMeasurement core slack s
  | .evacuationTimeout => Sys2Proof.Machine.execEvacuationTimeout s
  | .counterSnapshot => Sys2Proof.Machine.execCounterSnapshot s
  | .cntTailWrite value => Sys2Proof.Machine.execCntTailWrite value s
  | .counterRegisterWrite offset value => Sys2Proof.Machine.execCounterRegisterWrite offset value s
  | .barrierCompletion k => Sys2Proof.Machine.execBarrierCompletion k s
  | .launchQueueCreate id base log2 owner => Sys2Proof.Machine.execLaunchQueueCreate id base log2 owner s
  | .gangScheduleWrite origin length gangs => Sys2Proof.Machine.execGangScheduleWrite origin length gangs s
  | .apertureGate queue => Sys2Proof.Machine.execApertureGate queue s

end Sys2Proof.Machine
end

