-- ==== Sys2Proof/Machine/Hazards.lean ====
section
/-! DEFINITION. What an instruction waits for before it issues (R92), the beats of the vector units (R113, R126, R127), and
the waits that the counters tell apart (R400, R401). -/

namespace Sys2Proof.Machine

/-! ## Registers and rows -/

/-- The general registers that an instruction reads or writes: JAL links in g1 (R98). -/
def gregsOf : Instr → List GReg
  | .add d a b | .sub d a b | .and d a b | .or d a b | .xor d a b | .andn d a b | .orn d a b | .sll d a b | .srl d a b
  | .sra d a b | .rol d a b | .ror d a b | .mul d a b | .mulh d a b | .mulhu d a b | .div d a b | .divu d a b | .rem d a b
  | .remu d a b | .min d a b | .max d a b | .minu d a b | .maxu d a b | .slt d a b | .sltu d a b | .seq d a b | .sne d a b
  | .movz d a b | .movnz d a b | .fadd _ d a b | .fsub _ d a b | .fmul _ d a b | .fdiv _ d a b | .fmin _ d a b
  | .fmax _ d a b | .feq _ d a b | .flt _ d a b | .fle _ d a b | .sendr d a b | .atomAdd _ d a b | .atomMin _ d a b
  | .atomMax _ d a b | .atomAnd _ d a b | .atomOr _ d a b | .atomXor _ d a b | .atomSwap _ d a b | .atomCas _ d a b
  | .mstep _ _ d a b | .cpy d a b | .cpy2 d a b | .coll d a b => [d, a, b]
  | .clz d a | .ctz d a | .popc d a | .brev d a | .bswap d a | .sxb d a | .sxh d a | .sxw d a | .zxw d a | .addi d a _
  | .andi d a _ | .ori d a _ | .xori d a _ | .slti d a _ | .sltiu d a _ | .slli d a _ | .srli d a _ | .srai d a _
  | .rori d a _ | .jalr d a _ | .ldb d a _ | .ldbu d a _ | .ldh d a _ | .ldhu d a _ | .ldw d a _ | .ldwu d a _ | .ldd d a _
  | .ldf d a | .ldfk d a | .tstf d a | .fsqrt _ d a | .fclass _ d a | .fcvt _ _ d a | .anread d a | .lname d a | .sld d a
  | .lda d a | .tlbprb d a | .jpoll d a | .vext _ d _ a _ => [d, a]
  | .lih d _ | .mfs d _ | .mfsp d _ _ | .qget d _ | .qcnt d _ | .pos d | .mcommit d | .amscale _ d _ | .mpopc d _ | .mto d _ => [d]
  | .beq b a _ | .bne b a _ | .blt b a _ | .bge b a _ | .bltu b a _ | .bgeu b a _ | .stb b a _ | .sth b a _ | .stw b a _
  | .std b a _ => [b, a]
  | .jal _ => [1]
  | .loop a _ | .ldv _ a _ | .stv _ a _ | .setf a | .sete a | .mts a _ | .mtsp a _ _ | .kill a | .seal a | .unseal a
  | .anrun a | .sleepc a | .vput _ a | .vputr _ a | .qput _ a | .chclose a | .maskc a | .unmaskc a | .sldv _ a | .sstv _ a
  | .tlblk a | .tlbul a | .jwait a | .tzero a | .dtload a | .vbc _ _ a _ | .mfrom _ a => [a]
  | .ldvs _ _ a b | .stvs _ _ a b | .ste a b | .tlbw a b | .ancfg a b | .send a b | .reply a b | .chopen a b | .acq a b
  | .vins _ _ a b _ => [a, b]
  | .ffma _ d a b c => [d, a, b, c]
  | .sst m a b | .sstr m a b => [m, a, b]
  | .vlut _ n _ _ _ _ => [28 + n]
  | _ => []

/-- The row of a patterned operand; a queue source reads none (R125). -/
def patRow (p : Pat) (b : VReg) : List VReg := if p = 15 then [] else [b]
/-- The tile rows that an instruction reads or writes. -/
def vregsOf : Instr → List VReg
  | .ldv d _ _ | .ldvs _ d _ _ | .stvs _ d _ _ | .vhold d | .sldv d _ | .vbci _ d _ _ | .vbc _ d _ _ | .vins _ d _ _ _ => [d]
  | .stv b _ _ => [b]
  | .vput s _ | .vputr s _ | .sstv s _ => [s]
  | .vaddF _ d a b _ p | .vaddI _ d a b _ p | .vsubF _ d a b _ p | .vsubI _ d a b _ p | .vmulF _ d a b _ p
  | .vmulI _ d a b _ p | .vminF _ d a b _ p | .vminI _ d a b _ p | .vmaxF _ d a b _ p | .vmaxI _ d a b _ p
  | .vfma _ d a b _ p | .vfms _ d a b _ p | .vfnma _ d a b _ p | .vdiv _ d a b _ p | .vshl _ d a b _ p | .vshr _ d a b _ p
  | .vsra _ d a b _ p | .vand _ d a b _ p | .vor _ d a b _ p | .vxor _ d a b _ p | .vsel _ d a b _ p | .vpack _ d a b _ p => [d, a] ++ patRow p b
  | .vabsF _ d b _ p | .vabsI _ d b _ p | .vnegF _ d b _ p | .vnegI _ d b _ p | .vrsumF _ d b _ p | .vrsumI _ d b _ p
  | .vrmaxF _ d b _ p | .vrmaxI _ d b _ p | .vrminF _ d b _ p | .vrminI _ d b _ p | .vsqrt _ d b _ p | .vmov _ d b _ p
  | .vunpk _ d b _ _ p | .vfn _ _ d b _ p | .vlut _ _ d b _ p => [d] ++ patRow p b
  | .vceqF _ _ a b _ p | .vceqI _ _ a b _ p | .vcltF _ _ a b _ p | .vcltI _ _ a b _ p | .vcleF _ _ a b _ p
  | .vcleI _ _ a b _ p => [a] ++ patRow p b
  | .vext _ _ b _ p | .vstq _ _ b p | .vamax _ _ b _ p => patRow p b
  | .vcvt _ _ d a _ | .vquant _ _ d a _ | .vdeq _ _ d a _ => [d, a]
  | _ => []
/-- The rows that hold an instruction back before it looks at its operands: VPUT and VPUTR wait for theirs after their checks (R195). -/
def issueRows (i : Instr) : List VReg := match i with | .vput _ _ | .vputr _ _ => [] | i => vregsOf i
/-- A register or a row that the instruction reads or writes is the destination of an outstanding access of the slot (R92, R122, R274); g0
is no exception. -/
def State.hazard (i : Instr) (k : SlotId) (s : State) : Bool :=
  s.core.tags.any fun t => t.slot == k &&
    match t.dest with | .g r => (gregsOf i).contains r | .v r => (issueRows i).contains r
/-- A row that an instruction of the issuing slot reads or writes, those that its operands tell among them (R288, R312, R317). -/
def State.usesRow (i : Instr) (v : VReg) (s : State) : Bool :=
  match i with
  | .trel => true
  | .tzero a => (s.getG a).getLsbD v.toNat
  | .mstep wf rows _ a b => (s.stepJob wf rows (s.getG a) (s.getG b)).mask.getLsbD v.toNat
  | i => (vregsOf i).contains v
/-- An instruction of slot k waits for a register or a row that an earlier access of the slot is to write (R92), MFSP and MTSP for one of a
stopped slot among them (R25, R342). -/
def State.dependent (i : Instr) (k : SlotId) (s : State) : Bool :=
  let s : State := { s with k := k }
  let owed (f : SlotId) (n : Nat) : Bool := match s.fieldSlot n f with | some j => s.gregOwed j n | none => false
  s.hazard i k || (s.core.tags.any fun t => t.slot == k && match t.dest with | .v r => s.usesRow i r | .g _ => false) ||
    match i with | .mfsp _ f n | .mtsp _ f n => owed f n.toNat | _ => false

/-! ## Beats (R113, R127) -/

/-- How many beats the lanes of a strided access form (R113): each lane's word number, or none beyond the well, with the words
and bytes of the beat in hand. -/
def beatsOf (n : Nat) : List (Option Nat) → List Nat → Nat → Nat
  | [], _, bytes => if bytes = 0 then 0 else 1
  | x :: rest, words, bytes =>
    let joins := decide (bytes + n ≤ 32) &&
      match x with
      | some w => words.contains w || !words.any fun v => v % 4 == w % 4
      | none => true
    if joins then beatsOf n rest (x.toList ++ words) (bytes + n) else 1 + beatsOf n rest x.toList n
def State.stridedBeats (t : Width) (a b : GReg) (s : State) : Nat :=
  let n := widthBits t / 8
  beatsOf n ((upTo (128 / n)).map fun i => let x := (s.laneAddr a b i).toNat; if x < 0x8000 then some (x / 8) else none) [] 0
/-- The beats for which an instruction occupies the vector pipe (R120, R127). -/
def State.pipeBeats (i : Instr) (s : State) : Nat :=
  match i with
  | .ldv _ _ _ | .stv _ _ _ => 4
  | .ldvs t _ a b | .stvs t _ a b => s.stridedBeats t a b
  | .vdiv _ _ _ _ _ _ | .vsqrt _ _ _ _ _ => 24
  | .vrsumF t _ _ _ _ => 3 * laneCount (ftypeWidth t)
  | .vrsumI t _ _ _ _ => 3 * laneCount (itypeWidth t)
  | .vrmaxF t _ _ _ _ | .vrminF t _ _ _ _ => laneCount (ftypeWidth t)
  | .vrmaxI t _ _ _ _ | .vrminI t _ _ _ _ => laneCount (itypeWidth t)
  | .vfn _ _ _ _ _ _ | .vlut _ _ _ _ _ _ => 0
  | .vext _ _ _ _ _ | .vstq _ _ _ _ | .vamax _ _ _ _ _ | .vbci _ _ _ _ | .vbc _ _ _ _ | .vins _ _ _ _ _ => 4
  | .vput _ _ | .vputr _ _ | .vhold _ | .sldv _ _ | .sstv _ _ => 0
  | .trel => 4
  | _ => if (vregsOf i).isEmpty then 0 else 4
/-- The beats for which it occupies the function pipe. -/
def functionBeats (i : Instr) : Nat :=
  match i with | .vfn _ _ _ _ _ _ | .vlut _ _ _ _ _ _ => 8 | _ => 0

/-! ## Waits (R400, R401) -/

/-- An instruction that takes a place in the octet's job queue. -/
def isEnqueue (i : Instr) : Bool :=
  match i with
  | .mstep _ _ _ _ _ | .tzero _ | .dtload _ | .cpy _ _ _ | .cpy2 _ _ _ | .coll _ _ _ => true
  | _ => false
/-- The log entries that an instruction of the issuing slot waits for (R276, R277, R279). -/
def State.recordsOf (i : Instr) (s : State) : Nat :=
  match i with
  | .sld _ _ | .sldv _ _ | .lda _ _ => 0
  -- an empty mask completes before the log is looked at (R276)
  | .sst m _ _ | .sstr m _ _ => if s.getG m = 0 then 0 else 1
  | .sstv _ a => rowRecords (s.getG a)
  | _ => 1
/-- A split-phase access (R274). -/
def takesTag (i : Instr) : Bool := match i with | .sst _ _ _ | .sstr _ _ _ | .sstv _ _ => false | _ => true
/-- The first reason of R401 for which an instruction of the issuing slot waits, of those that it waits for itself. -/
def State.ownWait (i : Instr) (s : State) : Option Nat :=
  match i with
  | .trel => some 0x011
  | .tzero a => if s.rowPending ((s.getG a).setWidth 32) then some 0x011 else none
  -- that an owner is about to leave (R310) is none of the reasons
  | .mstep wf rows _ a b =>
    let j := s.stepJob wf rows (s.getG a) (s.getG b)
    if s.rowPending j.mask then some 0x011
    else if !wf && (s.lendBoth s.core.at_ (s.grp.name, s.grp.jobSerial) j).isNone then some 0x018 else none
  | .ldf _ _ | .ldfk _ _ => some 0x013
  | .ste a _ =>
    let w := (s.getG a).toNat / 8
    if s.grp.isFull w || s.behind w false then some 0x013 else some 0x018
  | .wfe | .barw _ | .jwait _ => some 0x014
  -- until it has arrived a BAR waits for acknowledgements, which is none of the reasons
  | .bar _ => match s.slot.progress with | .arrived _ => some 0x014 | _ => none
  | .send _ _ | .sendr _ _ _ | .reply _ _ | .vput _ _ | .vputr _ _ => some 0x015
  | .sld _ _ | .sldv _ _ | .lda _ _ | .sst _ _ _ | .sstr _ _ _ | .sstv _ _ | .atomAdd _ _ _ _ | .atomMin _ _ _ _
  | .atomMax _ _ _ _ | .atomAnd _ _ _ _ | .atomOr _ _ _ _ | .atomXor _ _ _ _ | .atomSwap _ _ _ _ | .atomCas _ _ _ _ =>
    if (takesTag i && s.freeTag.isNone) || !s.grp.logRoom (s.recordsOf i) then some 0x016 else if s.missing s.k then some 0x017 else none
  -- with its marker placed a REL waits for acknowledgements, which is none of the reasons
  | .rel _ => match s.slot.progress with | .rel _ true => none | _ => some 0x016
  | .fence => some 0x016
  | .tlblk _ | .cpy _ _ _ | .cpy2 _ _ _ => if s.missing s.k then some 0x017 else none
  | .stb _ _ _ | .sth _ _ _ | .stw _ _ _ | .std _ _ _ | .stv _ _ _ | .stvs _ _ _ _ => some 0x018
  | _ => none
/-- The first reason of R401 for which the instruction of slot k waits. -/
def State.waitCode (i : Instr) (k : SlotId) (s : State) : Option Nat :=
  if s.dependent i k || (isEnqueue i && !s.queueFree) || s.core.latency.getLsbD k.toNat then some 0x010
  else if !(vregsOf i).all s.rowFree then some 0x011
  else if s.core.banks.getLsbD k.toNat then some 0x012
  else State.ownWait i { s with k := k }

end Sys2Proof.Machine
end

