-- ==== Sys2Proof/Machine/Issue.lean ====
section
/-! DEFINITION. The fetch (R91, R94), the choice of the slot that issues (R157), the turns of the cores
(log 4), blocked groups (R161), and what the passing of time counts (R396, R401). -/

namespace Sys2Proof.Machine

/-! ## The fetch -/

/-- The word of a group's code image at an address; none beyond its end, or without an image (R94). -/
def State.codeWord (launch : Nat) (pc : CodeAddr) (s : State) : Option IWord :=
  (s.launches.find? fun l => l.id = launch).bind fun l => l.code[pc.toNat]?
/-- What the fetch makes of a word (R91, R94). -/
def fetched (w : Option IWord) : Instr :=
  match w with
  | none => .instructionAddressTrap
  | some w =>
    match decode w with
    | .ok i => i
    | .error _ => .reservedInstruction w
/-- The next word of slot k. -/
def State.nextWord (k : SlotId) (s : State) : Option IWord := s.codeWord s.grp.launch (s.grp.slot k).pc
/-- The next instruction of slot k. -/
def State.nextInstr (k : SlotId) (s : State) : Instr := fetched (s.nextWord k)
/-- The machine about to execute the next instruction of slot k. -/
def State.aim (k : SlotId) (s : State) : State := { s with k := k, ir := (s.nextWord k).getD 0, stalled := false }
/-- What the next instruction of slot k does. -/
def State.attempt (k : SlotId) (s : State) : Result := exec (s.nextInstr k) (s.aim k)

/-! ## Coming to issue (R92, R115, R264) -/

/-- The core holds a group whose slots run: it is not stopped, asleep, locked by a swap, or about to leave (R216, R346, R353,
R358). -/
def State.issues (s : State) : Bool :=
  !s.core.vacant && !s.grp.stopped && s.core.asleep.isNone && s.core.swap.isNone && !(s.grp.preempt.isSome && s.grp.sysact)
/-- Slot k has an instruction that comes to issue: neither a latency or a well bank (log 4), nor a YIELD, nor a register holds
it back (R92, R106, R113). -/
def State.atIssue (k : SlotId) (s : State) : Bool :=
  let sl := s.grp.slot k
  sl.active && !sl.susp && !sl.yielded && !s.core.latency.getLsbD k.toNat && !s.core.banks.getLsbD k.toNat &&
    !s.hazard (s.nextInstr k) k
/-- KILL, SEAL, UNSEAL, ANRUN and SLEEPC act when they issue, and complete later (R350 to R354). -/
def begins (before after : Progress) : Bool :=
  decide (before ≠ after) && match after with | .sealing => true | .committing => true | .sleeping _ => true | _ => false
/-- The instruction of slot k can issue (R157). -/
def State.readySlot (k : SlotId) (s : State) : Bool :=
  match s.attempt k with
  | .next t => !t.stalled || begins (s.grp.slot k).progress (t.grp.slot k).progress
  | .fault _ => true
  | .refused _ => true
/-- An instruction that has to wait does what coming to issue does: it takes its place in a line of waiters (R115), places
its marker (R264), or sends its page miss (R247). DESIGN CHOICE (log 22): a BAR whose unit has not all arrived publishes and arrives
(R203) as it comes to issue, also in a turn whose issue goes to another slot. -/
def State.comeToIssue (k : SlotId) (s : State) : State :=
  if s.atIssue k && !s.readySlot k then
    match s.attempt k with
    | .next t => { t with k := s.k, ir := s.ir, stalled := s.stalled }
    | .fault _ => s
    | .refused _ => s
  else s
/-- The four slots, lowest first. -/
def allSlots : List SlotId := [0, 1, 2, 3]

/-! ## The choice (R157) -/

/-- The issue level of a slot. -/
def issueLevel (k : SlotId) : Nat := match k.toNat with | 3 => 2 | 2 => 1 | _ => 0
/-- The member of a list that is best in the order of `better`; the first of equals. -/
def firstBest {α : Type} (better : α → α → Bool) : List α → Option α
  | [] => none
  | x :: rest =>
    match firstBest better rest with
    | none => some x
    | some y => if better y x then some y else some x
/-- The ready slots that have waited 256 times or more. -/
def Group.starved (ready : List SlotId) (g : Group) : List SlotId := ready.filter fun k => decide (256 ≤ (g.slot k).wait)
/-- The slot that issues, of those ready (R157). -/
def Group.choose (ready : List SlotId) (g : Group) : Option SlotId :=
  match g.starved ready with
  | [] => firstBest (fun j k => decide (issueLevel k < issueLevel j) ||
      (issueLevel j == issueLevel k && decide ((g.slot j).lastIssue < (g.slot k).lastIssue))) ready
  | k :: rest => firstBest (fun j k => decide ((g.slot k).wait < (g.slot j).wait)) (k :: rest)
/-- The wait counts after the choice (R157). -/
def Group.noteChoice (ready : List SlotId) (k : SlotId) (tick : Nat) (g : Group) : Group :=
  g.mapSlots fun j sl =>
    if j = k then { sl with wait := 0, lastIssue := tick + 1 }
    else if ready.contains j then { sl with wait := sl.wait + 1 } else sl
/-- The next instruction of slot k uses the unit that it needs: its checks do not end in a trap (R93). -/
def State.passesChecks (k : SlotId) (s : State) : Bool :=
  match s.attempt k with
  | .next t => !(t.grp.slot k).susp && (t.grp.slot k).active
  | .fault _ => false
  | .refused _ => false
/-- What the choice counts (R401): an issue, the other ready slots, a forced issue, and the beats that the instruction occupies. -/
def State.countChoice (ready : List SlotId) (k : SlotId) (s : State) : State :=
  let i := s.nextInstr k
  let works := s.passesChecks k
  let s := s.count 0x001 1 (some k)
  let s := (ready.filter (· ≠ k)).foldl (fun s j => s.count 0x003 1 (some j)) s
  let s := if (s.grp.starved ready).isEmpty then s else s.count 0x004 1 (some k)
  if works then (s.count 0x020 (State.pipeBeats i { s with k := k }) none).count 0x021 (functionBeats i) none else s
/-- The ANRUN of slot k issued long ago, and completes with its commit (R352). -/
def State.pastIssue (k : SlotId) (s : State) : Bool := decide ((s.grp.slot k).progress = .committing)
/-- The slots of the focus core whose next instruction can issue. -/
def State.readySlots (s : State) : List SlotId := allSlots.filter fun k => !s.pastIssue k && s.atIssue k && s.readySlot k
/-- A YIELD holds its slot back for one issue of its core (R106). -/
def Group.endYields (g : Group) : Group := g.mapSlots fun _ sl => { sl with yielded := false }
/-- What each cycle of its turn counts at the focus core: an event code, the slot it is of, and for a job how many cycles it still
takes (R304, R397). -/
abbrev Rate := Nat × Option SlotId × Option Nat
/-- Slot k is held back by its YIELD alone, which is no reason of R401 (R106, R400). -/
def State.onlyYields (k : SlotId) (s : State) : Bool :=
  (s.grp.slot k).yielded && (s.mapGrp Group.endYields).atIssue k && s.readySlot k
/-- Each slot's instruction that waits is counted by its first reason (R400), and so are the cycles in which no slot is ready, those of a
vacant core and of one that sleeps among them. -/
def State.waitRates (s : State) : List Rate :=
  if s.core.vacant || s.core.asleep.isSome then [(0x002, none, none)]
  else
    let ready := if s.issues then s.readySlots else []
    (if ready.isEmpty then [(0x002, none, none)] else []) ++ allSlots.filterMap fun k =>
      let sl := s.grp.slot k
      if sl.active && !sl.susp && !ready.contains k && s.issues && !s.onlyYields k then (s.waitCode (s.nextInstr k) k).map fun c => (c, some k, none) else none
/-- The cycles frozen or draining for a swap (R401). -/
def SwapState.rates (w : SwapState) : List Rate :=
  match w.stage with | .installed => [] | _ => [(0x062, none, none)]
/-- The engine cycles of the jobs of a core's group (R401). -/
def State.jobRates (c : Coord) (s : State) : List Rate :=
  s.octets.flatMap fun o => (o.jobs.filter fun j => j.running && decide (j.now = c)).map fun j =>
    (0x031, none, if s.jobWaits o.number j then none else some (j.cycles - j.spent))
/-- What the focus core counts while time passes. -/
def State.rates (s : State) : List Rate :=
  s.waitRates ++ ((s.core.swap.map (·.rates)).getD []) ++ s.jobRates s.core.at_
/-- The core holds back the slots that a latency or a well bank keeps from issuing. -/
def State.holdSlots (latency banks : BitVec 4) (s : State) : State :=
  s.mapCore fun c => { c with latency := latency, banks := banks }
/-- The word at an address of a launch's code enters the instruction cache (R7, R12). -/
def Core.fetchWord (launch : Nat) (pc : CodeAddr) (c : Core) : Core :=
  { c with icache := ((launch, pc) :: c.icache.filter fun e => decide (e ≠ (launch, pc))).take Config.icacheWords }
/-- The focus core issues one instruction, if a slot is ready; an ANRUN that completes with its commit passes the choice by (R352). -/
def State.issue (s : State) : Result :=
  if !s.issues then .next s.stall
  else
    let s := allSlots.foldl (fun s k => s.comeToIssue k) s
    match allSlots.find? fun k => s.pastIssue k && s.atIssue k && s.readySlot k with
    | some k => s.attempt k
    | none =>
    let ready := s.readySlots
    let s := s.mapGrp Group.endYields
    match s.grp.choose ready with
    | none => .next s.stall
    | some k => (((s.countChoice ready k).mapCore (Core.fetchWord s.grp.launch (s.grp.slot k).pc)).mapGrp (Group.noteChoice ready k s.ticks)).attempt k

/-! ## Events -/

/-- The rows of the table that are events, not words of a program. -/
def isEvent (i : Instr) : Bool :=
  match i with
  | .noticeResend _ _ _ _ => false
  | .reservedInstruction _ => false
  | .instructionAddressTrap => false
  | _ => (encode i).isNone
/-- An event that is due happens; one that is not changes nothing. -/
def State.happens (f : State → Result) (s : State) : Bool :=
  match f { s with stalled := false } with
  | .next t => !t.stalled
  | .fault _ => true
  | .refused _ => true
/-- The starts that a core makes in every cycle, before it issues (R154, R335). -/
def urgentEvents : List (State → Result) := [execTrapActivationStart, execHandlerStart 2, execHandlerStart 1]
/-- What the hardware does of itself at the focus core, in a fixed order (log 4). -/
def State.ownEvents (s : State) : List (State → Result) :=
  [execTlbMissReply, execSleepcWake, execPreemptionStart, execSwapFreezeEnd, execSwapDrainEnd, execSwapInstall, execSwapResume, execSwapAbort,
   execSealConfirmation 0, execSealConfirmation 1, execSealConfirmation 2, execSealConfirmation 3,
   execBarrierCompletion 0, execBarrierCompletion 1, execBarrierCompletion 2, execBarrierCompletion 3] ++
  (upTo s.grp.inj.length).flatMap (fun n => [execInjection n, execReinjection n, execNoticeWrite n]) ++
  [execStreamInjection 4, execStreamInjection 5, execStreamInjection 6, execStreamInjection 7] ++
  (upTo s.core.fills.length).map (fun n => execDeferredFill n) ++
  (upTo s.net.length).flatMap (fun n =>
    [execMessageArrival n, execReplyArrival n, execStreamArrival n, execRegisterWriteArrival n, execAcceptanceArrival n, execNoticeArrival n,
     execCreditReturn n, execNameCacheUpdate n, execDirectoryArrival n, execDirectoryUpdate n, execSumpArrival n, execWeightUpdateArrival n,
     execPositionUpdateArrival n, execTwinHashArrival n]) ++
  (s.core.tags.map (·.tag)).flatMap (fun n => [execViewCacheFill n, execLoadReply n]) ++
  [execLogPumpSend, execLogRefill] ++
  (upTo s.records.length).flatMap (fun n => [execRecordApply n, execAtomicExecute n, execRecordAck n, execAtomicReturn n]) ++
  [execJobStart .matrix, execJobStart .copy, execCopyWordWrite] ++
  (upTo s.collVectors.length).map (fun n => execCollChildArrival n) ++
  [execJobComplete .matrix, execJobComplete .copy] ++
  (upTo s.chunks.length).flatMap (fun n => [execChunkArrival n, execChunkAck n]) ++
  (s.launches.map (·.id)).flatMap (fun n => [execAdmission n, execPlaceUnplaced n, execOversubscriptionPark n, execSweepResult n]) ++
  (s.queues.map (·.id)).flatMap (fun n => [execLaunchPacket n, execPodCollectivePacket n]) ++
  [execSweepStart, execRoundInstant, execPhaseStart] ++ (s.ann.pairs.map fun p => execPairDecision p.1) ++
  [execRoundEnd, execCommitEnd, execSliceInstant, execSliceChange, execCounterSnapshot, execTwinHashTimeout, execEvacuationTimeout] ++
  (s.resumable.map fun x => execResumption x.1 x.2) ++ (s.restartable.map fun n => execKillRestart n) ++
  (upTo s.core.forwards.length).map (fun n => execForwardPointerExpiry n)
/-- The cores take turns (log 4): the next core comes into focus. -/
def State.nextCore (s : State) : State :=
  match s.others with
  | [] => s
  | c :: rest => { s with core := c, others := rest ++ [s.core] }
/-- How many rounds of the cores' turns have passed (log 4). -/
def State.rounds (s : State) : Nat := s.ticks / (s.others.length + 1)
/-- The first of the hardware's own events that is due, from a place in their order that moves on. -/
def State.ownEvent (s : State) : Option (State → Result) :=
  let l := s.ownEvents
  let n := s.rounds / 2 % l.length
  (l.drop n ++ l.take n).find? fun f => s.happens f
/-- A core's own turn, of which the agenda says nothing (log 4): a start that is due, or else, in turn about, an instruction
before the hardware's own events or after them. -/
def State.ownTurn (s : State) : Result :=
  match urgentEvents.find? fun f => s.happens f with
  | some f => f s
  | none =>
    let event (s : State) : Result := match s.ownEvent with | some f => f s | none => .next s.stall
    let orElse (r : Result) (f : State → Result) : Result :=
      match r with | .next t => if t.stalled then f { t with stalled := false } else .next t | r => r
    if s.rounds % 2 = 0 then orElse s.issue event else orElse (event s) State.issue
/-- The turn that the agenda names: an event, or an instruction of the core. -/
def State.runTurn (t : Turn) (s : State) : Result :=
  match t.event with
  | some i => if isEvent i && i.wellFormed then exec i s else (s.holdSlots t.held t.bank).issue
  | none => (s.holdSlots t.held t.bank).issue
/-- One turn: that at the head of the agenda, or else the focus core's own (log 1, 4). -/
def State.turn (s : State) : Result :=
  match s.agenda with
  | [] => match (s.holdSlots 0 0).ownTurn with | .next t => .next t.nextCore | r => r
  | t :: rest =>
    let s : State := { s with agenda := rest }
    (if t.core.onMesh then s.focus t.core else s).runTurn t

/-! ## Time -/

/-- The slot's instruction has come to issue and waits under R107 or R115, at a barrier, or for a job (R161). -/
def State.slotBlocked (c : Core) (k : SlotId) (s : State) : Bool :=
  let sl := c.grp.slot k
  !sl.active || ({ s with core := c } : State).atIssue k &&
    match sl.progress with
    | .arrived _ => true
    | _ =>
      let waits (store full : Bool) (a : GReg) : Bool :=
        (c.grp.checkWord store (sl.get a)).isNone && c.grp.isFull ((sl.get a).toNat / 8) == full
      match fetched (s.codeWord c.grp.launch sl.pc) with
      | .ldf _ a | .ldfk _ a => waits false false a
      | .ste a _ => waits true true a
      | .wfe => !sl.latch
      | .jwait a => match c.grp.record? ((sl.get a).getLsbD 8) ((sl.get a).setWidth 8) with | some r => r.state != 3 | none => false
      | _ => false
/-- A resident group is blocked (R161): every slot is idle or waits, and no pending entry can start. -/
def State.isBlocked (c : Core) (s : State) : Bool :=
  allSlots.all (fun k => s.slotBlocked c k) &&
    [(1 : SlotId), 2].all fun k => (c.grp.slot k).active || (c.grp.candidate k).isNone
/-- The counters of a counting core after the cycles from offset x to offset y of a turn (R396, R397). -/
def Counters.tick (sel : Vector Word 4) (rates : List Rate) (resident : Bool) (x y : Nat) (k : Counters) : Counters :=
  let k := if resident then { k with ccyc := min (k.ccyc + (y - x)) counterMax, saturated := k.saturated || decide (counterMax < k.ccyc + (y - x)) } else k
  rates.foldl (fun k r =>
    let n := match r.2.2 with | some left => min left y - min left x | none => y - x
    [(0 : Fin 4), 1, 2, 3].foldl (fun a i => a.bumpAt sel r.2.1 r.1 n i) k) k
/-- Counters of a page after the n cycles that follow `now`, and as each snapshot instant among them latched and cleared them (R399). -/
def CounterPage.pass (now n : Nat) (rates : List Rate) (resident : Bool) (k : Counters) (page : CounterPage) : Counters × List Counters :=
  let marks := page.marks now n
  let at_ := marks.foldl (fun (r : Counters × Nat × List Counters) m =>
    let y := m.1 - now
    (Counters.zero, y, r.2.2 ++ [r.1.tick m.2.sel rates resident r.2.1 y])) (k, 0, [])
  (at_.1.tick (if marks.isEmpty then page.sel else page.applied.sel) rates resident at_.2.1 n, at_.2.2)
/-- A core on which instructions in flight retire as a turn's time passes (R118; log 5). -/
def State.passFlight (s : State) (c : Core) : Core :=
  if c.vacant then c else c.retires s.board.fwWidth (Config.retires s.ticks (c.at_.y * Config.columns + c.at_.x))
/-- A core's counters after the n cycles of a turn, what retired at its beginning counted, and what each snapshot instant latched. -/
def State.passCounters (n : Nat) (s : State) (c : Core) : Counters × List Counters :=
  let page := (s.partAt c.at_).ctr
  if !c.counting s.board.fwWidth then (c.counters, (page.marks s.cycle n).map fun _ => Counters.zero)
  else page.pass s.cycle n (s.focus c.at_).rates (!c.vacant && c.asleep.isNone) (s.passFlight c).counters
/-- A core on which n cycles pass: instructions retire, and a group of a launch with unplaced groups is blocked longer, or no more (R161); the count stands still
while the group is pre-empted (R367). -/
def State.passTime (n : Nat) (s : State) (c : Core) : Core :=
  let waits := s.launches.any fun l => l.id == c.grp.launch && !l.unplaced.isEmpty
  let counters := (s.passCounters n c).1
  let c := s.passFlight c
  { c with
    counters := counters
    grp := if c.vacant then c.grp else { c.grp with
      blockedFor := if c.grp.sysact then c.grp.blockedFor else if waits && s.isBlocked c then c.grp.blockedFor + n else 0 } }
/-- The counter page of a partition over n cycles: each snapshot instant latches the counters of its cores (R399). Those that State
does not list are vacant, and count the cycles in which no slot is ready (R401; log 144). -/
def State.passPage (n : Nat) (s : State) (p : Partition) : Partition :=
  let marks := p.ctr.marks s.cycle n
  let mine := (s.cores.filter fun c => (s.partAt c.at_).id == p.id && c.counting s.board.fwWidth).map fun c => (c.at_, (s.passCounters n c).2)
  let absent := p.ctr.pass s.cycle n [(0x002, none, none)] false p.ctr.absent
  let taken := (upTo marks.length).filterMap fun i => (marks[i]?).map fun m =>
    ({ cycle := m.1, ctl := m.2.ctl, sel := m.2.sel, cores := mine.filterMap fun x => (x.2[i]?).map fun k => (x.1, k),
       absent := absent.2[i]?.getD Counters.zero, dies := s.partDies p.id,
       retired := (s.cores.filter fun c => c.retired && (s.partAt c.at_).id == p.id).map (·.at_) } : Snapshot)
  let ctr := if marks.isEmpty then p.ctr else { p.ctr.applied with latched := p.ctr.latched ++ taken }
  { p with ctr := { ctr with absent := absent.1 } }
/-- The end of a step: messages whose handlers are disabled are discarded (R154), errors that have returned are taken (R339),
evacuations go on (R395), collectives whose records are acknowledged end (R383), and time passes. -/
def State.endTurn (s : State) : State :=
  let n := Config.elapsed s.ticks
  let tidy (s : State) : State := s.discardDisabled.takeErrors
  let s := (s.others.foldl (fun s c => s.atCore c.at_ tidy) (tidy s)).evacuateAll.finishColls
  { s with
    core := s.passTime n s.core
    others := s.others.map (s.passTime n)
    part0 := s.passPage n s.part0
    parts := s.parts.map (s.passPage n)
    octets := s.octets.map fun o => { o with jobs := o.jobs.map fun j => j.pass n (s.jobWaits o.number j) }
    ticks := s.ticks + 1
    cycle := s.cycle + n
    stalled := false }
/-- A turn has been taken. -/
def afterTurn (r : Result) : Result :=
  match r with
  | .next t => .next t.endTurn
  | .fault x => .fault x
  | .refused x => .refused x

/-! ## Laying out an instruction for the fetch -/

/-- A launch of one group that is all code: `pc` words of zero and then the given one. -/
def codeLaunch (id : Nat) (pc : CodeAddr) (w : IWord) : Launch :=
  { id := id, part := 0, groups := 1, base := 0, gen := 0, mbox := 1, spill := 0, logArea := 0, levels := [],
    kinds := [{ first := 0, count := 1, entry := pc, image := [], channels := [] }], leases := [],
    code := List.replicate pc.toNat 0 ++ [w], args := [], sys := false, twin := 0, gang := 0, saveBase := 0, saveSize := 0,
    completion := 0, queue := 0, rel := false, kills := 0, instances := [], unplaced := [], admitted := true, sample := none,
    previous := none, ended := false }
/-- The focus core's next turn is to issue; slot 0 alone runs, and the word stands in its code image at its program counter. -/
def State.placeWord (w : IWord) (s : State) : State :=
  let g := s.core.grp
  let sl := g.slot 0
  let put (l : Launch) : Launch :=
    { l with code := l.code.take sl.pc.toNat ++ List.replicate (sl.pc.toNat - l.code.length) 0 ++ [w] ++ l.code.drop (sl.pc.toNat + 1) }
  { s with
    agenda := [{ core := s.core.at_, held := 0, event := none }]
    launches := if s.launches.any (fun l => l.id = g.launch) then s.launches.map (fun l => if l.id = g.launch then put l else l)
      else s.launches ++ [codeLaunch g.launch sl.pc w]
    core := { s.core with
      vacant := false, asleep := none, swap := none, tags := []
      grp := { g with
        slots := (Vector.replicate 4 Slot.reset).set 0 { sl with active := true, susp := false, yielded := false, progress := .none }
        preempt := none, stopped := false, ended := false } } }

end Sys2Proof.Machine
end

