-- ==== Sys2Proof/Machine/Step.lean ====
section
/-! DEFINITION. One step of the module: one instruction of one slot of one core, or one event (log 1). -/

namespace Sys2Proof.Machine

/-- One step: a turn, and what its end does. -/
def step (s : State) : Host.Outcome State Fault Refusal := afterTurn s.turn

/-- The state whose very next step fetches and runs the given word in slot 0 of the focus core: a launch's code image holds it
at the program counter, as if the launch had been admitted, and the turn is that core's. An instruction is one word of 32 bits, so the width adds nothing. -/
def State.withFetchWord (s : State) (_nbits w : Nat) : State := s.placeWord (BitVec.ofNat 32 w)

end Sys2Proof.Machine
end

