-- ==== Sys2Proof/Safety.lean ====
section
/-! DEFINITION. What a safe run is: the memories keep their canonical form (log 6) and a step goes on; and the terms in which
the statements say what an instruction changes and what it leaves. -/

namespace Sys2Proof

open Sys2Proof.Machine

/-! ## Safe states -/

/-- The well of a group has the canonical form. -/
def Safety.groupOk (g : Group) : Bool := g.well.wf
/-- Every memory of the module has the canonical form: physical memory, every well, and the well images of the launches. -/
def Safety.memoriesOk (s : State) : Bool :=
  s.mem.wf && s.cores.all (fun c => Safety.groupOk c.grp) && s.frames.all (fun x => Safety.groupOk x.grp) &&
    s.launches.all fun l => l.kinds.all fun k => k.image.wf
/-- No place stands twice in a list. -/
def Safety.apart : List Coord → Bool
  | [] => true
  | c :: rest => !rest.contains c && Safety.apart rest
/-- The memories are canonical, and no two cores stand at one place. -/
def Safety.inv (s : State) : Bool := Safety.memoriesOk s && Safety.apart (s.cores.map (·.at_))
/-- A step answers a next state: the spec lets nothing stop the module. -/
def Safety.continues (s : State) : Prop := ∃ t, step s = .next t

/-! ## Frames -/

namespace Frame

/-- A group without its slots and its counts of retired instructions. -/
def group (g : Group) : Group := { g with slots := Vector.replicate 4 Slot.reset, instret := 0, inFlight := 0 }
/-- A core's counters at zero. -/
def noCounters : Counters := { ccyc := 0, cinst := 0, evc := Vector.replicate 4 0, saturated := false }
/-- The state without the focus core's slots, count of retired instructions and counters: all that an instruction that only
writes general registers leaves as it was. -/
def outside (s : State) : State := { s with core := { s.core with grp := group s.core.grp, counters := noCounters } }
/-- The same, without the memories, the damaged words among them (R355), and the tables copied from the well (R148): what a
store leaves as it was. -/
def outsideMemory (s : State) : State :=
  let o := outside s
  { o with
    mem := []
    poisoned := []
    core := { o.core with fnCopies := Vector.replicate 4 none, grp := { o.core.grp with well := [] } } }
/-- A slot without its registers, its place in the program and the progress of an instruction that waits. -/
def slot (sl : Slot) : Slot := { sl with pc := 0, levels := [], progress := .none, g := Vector.replicate 32 0 }
/-- Of the issuing slot only the registers in `ds`, the place in the program and the progress may differ; the other slots
are as they were. -/
def slots (s t : State) (ds : List GReg) : Prop :=
  slot t.slot = slot s.slot ∧ (∀ r, r ∉ ds → t.getG r = s.getG r) ∧ ∀ j, j ≠ s.k → t.grp.slot j = s.grp.slot j
/-- Every byte of physical memory and of the local space reads as before. -/
def memory (s t : State) : Prop := (∀ a, t.mem.read a = s.mem.read a) ∧ ∀ a, t.localByte a = s.localByte a
/-- How many instructions a completion leaves in flight (R118; log 5): none for one whose description makes it wait for its completion,
which retires as it completes. -/
def lag : Instr → Nat
  | .endh | .eret | .qflush _ | .rel _ | .bar _ | .barw _ | .jwait _ | .kill _ | .seal _ | .unseal _ | .sleepc _ | .trap _ | .wfe => 0
  | _ => 1
/-- The instruction has completed, to retire as its latency passes (R118; log 5), and the slot stands at the next word, after the loop
processing of R101. -/
def done (i : Instr) (s t : State) : Prop :=
  t.slot.pc = s.slot.finish.pc ∧ t.slot.levels = s.slot.finish.levels ∧ t.grp.instret = s.grp.instret + 1 ∧
    t.grp.inFlight = s.grp.inFlight + lag i
/-- The instruction has completed and control has gone to `x` (R102). -/
def jumped (s t : State) (x : CodeAddr) : Prop :=
  t.slot.pc = x ∧ t.slot.levels = s.slot.levels.filter (fun l => decide (l.start ≤ x ∧ x ≤ l.stop)) ∧
    t.grp.instret = s.grp.instret + 1 ∧ t.grp.inFlight = s.grp.inFlight + 1

/-- `i` completes: it goes on with the next word, writes no general register but those in `ds`, and leaves all outside the
slots as it is in `u`. -/
def completes (i : Instr) (s u t : State) (ds : List GReg) : Prop :=
  exec i s = .next t ∧ done i s t ∧ slots s t ds ∧ outside t = outside u
/-- `i` completes and changes nothing but gd, which takes `v`; a write to g0 is discarded (R13). -/
def gives (i : Instr) (s : State) (d : GReg) (v : Word) : Prop :=
  ∃ t, completes i s s t [d] ∧ t.getG d = (if d = 0 then 0 else v) ∧ memory s t
/-- The same, for an instruction that also raises the FCSR flags `f`, which are sticky (R28). -/
def givesFlags (i : Instr) (s : State) (d : GReg) (v : Word) (f : Flags) : Prop :=
  ∃ t, completes i s (s.raiseFlags f) t [d] ∧ t.getG d = (if d = 0 then 0 else v) ∧ memory s t ∧
    t.grp.fflags = s.grp.fflags ||| f
/-- `i` completes, writes no general register, and leaves all outside the slots as it is in `u`; every byte reads as before. -/
def turnsInto (i : Instr) (s u : State) : Prop := ∃ t, completes i s u t [] ∧ memory s t
/-- `i` completes and stores the bytes `bs` from the local address `a` up, those of a handler-table entry without its bits
[26:24] (R24): no other byte, no register and nothing else changes, but that copies of the tables stored to are discarded
(R148), and that a damaged word is good again where every byte of it is stored (R355). -/
def stores (i : Instr) (s : State) (a : Nat) (bs : List Byte) : Prop :=
  ∃ t, exec i s = .next t ∧ done i s t ∧ slots s t [] ∧ outsideMemory t = outsideMemory s ∧
    (∀ j, j < bs.length → some (t.localByte (a + j)) = (bs[j]?).map (keptByte (a + j))) ∧
    (∀ w, w ∈ t.poisoned ↔ w ∈ s.poisoned ∧
      ∃ i, i < 8 ∧ ∀ j, j < bs.length → 0x8000 ≤ a + j → s.grp.windowAddr (a + j) ≠ 8 * w + i) ∧
    (∀ x, x < a ∨ a + bs.length ≤ x → t.localByte x = s.localByte x) ∧
    ∀ p, (∀ j, j < bs.length → 0x8000 ≤ a + j → p ≠ s.grp.windowAddr (a + j)) → t.mem.read p = s.mem.read p
/-- A slot has its event (R107), and is otherwise as it was; a SLEEPC has woken (R353). -/
def notified (old new : Slot) : Prop :=
  new = { old with latch := true, progress := new.progress } ∧ ((∀ w, old.progress ≠ .sleeping w) → new.progress = old.progress) ∧
    ∀ w, old.progress = .sleeping w → new.progress = .sleeping true
/-- `i` takes a trap at its own word, with a code and a value (R335). -/
def traps (i : Instr) (s : State) (code : Nat) (v : Word) : Prop := exec i s = .next (s.trap code v)
/-- `i` completes without its result, and its slot, which has taken no other trap, takes at its next word the trap of an
access that met a damaged word (R339, R355); it holds no load tag, and its local address is the value (log 70). -/
def damagedLoad (i : Instr) (s : State) (addr : Word) : Prop :=
  exec i s = .next (s.loadError addr.toNat) ∧
    ((∀ k, (s.grp.slot k).errors = []) → s.slot.active = true → s.slot.susp = false → s.k ≠ 3 → s.canTrap = true → s.grp.twin = none →
      (s.grp.handler 0xF1).testBit 31 = true →
      let t := (s.loadError addr.toNat).slot
      t.susp = true ∧ t.trapPc = s.slot.finish.pc ∧ t.trapCause = BitVec.ofNat 64 (2 ^ 63 + 0x0E) ∧ t.trapVal = addr ∧ ∀ r, t.get r = s.slot.get r)
/-- `i` has to wait, and changes nothing (R92). -/
def waits (i : Instr) (s : State) : Prop := exec i s = .next s.stall
/-- `i` has come to issue and waits; its group, every byte and the load tags are as they were (R92). -/
def holdsOff (i : Instr) (s : State) : Prop :=
  ∃ t, exec i s = .next t ∧ t.stalled = true ∧ t.grp = s.grp ∧ memory s t ∧ t.core.tags = s.core.tags
/-- The same while the translation service answers a miss of the slot (R247). -/
def misses (i : Instr) (s : State) : Prop :=
  ∃ t, exec i s = .next t ∧ t.stalled = true ∧ t.grp = s.grp ∧ memory s t ∧ t.core.tags = s.core.tags ∧ ∃ y ∈ t.core.misses, y.live = true ∧ y.slot = s.k
/-- The event happens: it answers a next state that it did not leave for want of being due. -/
def happens (i : Instr) (s t : State) : Prop := exec i s = .next t ∧ t.stalled = s.stalled

/-- `i` completes and takes an injection entry of kind `k` for the message `m`, at the end of its queue; the message counts as
sent (R164). -/
def injects (i : Instr) (s t : State) (k : InjKind) (m : Msg) : Prop :=
  exec i s = .next t ∧ done i s t ∧ t.grp.sent = s.grp.sent + 1 ∧
    t.grp.inj = s.grp.inj ++ [{ id := s.grp.nextInj, kind := k, msg := m, stage := .waiting (if m.rel then some s.grp.logTail else none) }]

/-! ### Vector operands -/

/-- The patterned operand of a vector instruction can be read, and the rows in `vs` are free (R17, R122, R125). -/
def sourceReady (s : State) (p : Pat) (b : VReg) (vs : List VReg) : Prop :=
  (∀ v ∈ vs, s.rowFree v = true) ∧
    if p = 15 then
      let q := s.grp.queue (BitVec.ofNat 3 (b.toNat % 4))
      q.bound = true ∧ 16 ≤ q.words.length
    else s.rowFree b = true
/-- `i` cannot read its patterned operand and the rows in `vs`: an unbound queue source takes the illegal-operand trap with the queue's
number, before any row is waited for (R125, R177); else a row that is not free, or a queue with fewer than 16 words, is waited for (R122). -/
def sourceHolds (i : Instr) (s : State) (p : Pat) (b : VReg) (vs : List VReg) : Prop :=
  let q := s.grp.queue (BitVec.ofNat 3 (b.toNat % 4))
  (p = 15 → q.bound = false → traps i s 0x03 (BitVec.ofNat 64 (b.toNat % 4))) ∧
    ((p = 15 → q.bound = true) → ((∃ v ∈ vs, s.rowFree v = false) ∨ if p = 15 then q.words.length < 16 else s.rowFree b = false) → waits i s)
/-- Lane l of the patterned operand, for elements of w bits: a lane of vb (R124), or of the 16 oldest words of a queue (R125). -/
def sourceLane (s : State) (w : Nat) (p : Pat) (b : VReg) (l : Nat) : Nat :=
  if p = 15 then lane w (queueRow (s.grp.queue (BitVec.ofNat 3 (b.toNat % 4))).words) l
  else lane w (s.grp.row b) (patSource s.grp.lpat p l)
/-- The state after the patterned operand is read: a queue source has lost its 16 oldest words. -/
def sourceRead (s : State) (p : Pat) (b : VReg) : State :=
  if p = 15 then s.dequeue (BitVec.ofNat 3 (b.toNat % 4)) 16 else s
/-- `i` completes from the state `u`: row d takes, in the lanes below n that `on` enables, the results of `r`, and keeps its
bits elsewhere; FCSR raises the flags of the enabled lanes, and no others. No register and no byte changes. -/
def lanesTake (i : Instr) (s u : State) (w n : Nat) (d : VReg) (on : Nat → Bool) (r : Nat → FRes) : Prop :=
  ∃ (t : State) (row : Row) (f : Flags), completes i s ((u.mapGrp (·.setRow d row)).raiseFlags f) t [] ∧ memory s t ∧
    (∀ l, l < laneCount w → lane w row l = if l < n ∧ on l = true then (r l).bits % 2 ^ w else lane w (s.grp.row d) l) ∧
    ∀ j, j < 5 → (f.getLsbD j = true ↔ ∃ l, l < n ∧ on l = true ∧ (r l).flags.getLsbD j = true)
/-- The same for an instruction that raises no flag. -/
def lanesBecome (i : Instr) (s u : State) (w n : Nat) (d : VReg) (on : Nat → Bool) (r : Nat → Nat) : Prop :=
  ∃ (t : State) (row : Row), completes i s (u.mapGrp (·.setRow d row)) t [] ∧ memory s t ∧
    ∀ l, l < laneCount w → lane w row l = if l < n ∧ on l = true then r l % 2 ^ w else lane w (s.grp.row d) l

/-! ### Shared accesses and jobs -/

/-- The n bytes at a register's address are translated, permitted and present, each with its page's nocache bit: CheckShared passes
(R246, R251, R273). -/
def reaches (s : State) (a : Word) (n : Nat) (need : Need) (bytes : List (Nat × Bool)) : Prop :=
  a.extractLsb' 48 16 = 0 ∧ a.toNat % 8 = 0 ∧ s.core.translate need a.toNat n = .ok bytes ∧ ∀ p ∈ bytes, s.unreachable p.1 = false
/-- The address passes the tests of its form, and a byte of it lies on a page that the TLB lacks (R247, R273). -/
def lacks (s : State) (a : Word) (n : Nat) (need : Need) : Prop :=
  a.extractLsb' 48 16 = 0 ∧ a.toNat % 8 = 0 ∧ ∃ m, s.core.translate need a.toNat n = .miss m
/-- What reads otherwise after an instruction that adds up to k entries to the log: nothing, while the ring has room for them;
and never a byte outside the log carve-out and the overflow log area, where spilled entries stand (R255, R260). -/
def spillsOnly (s t : State) (k : Nat) : Prop :=
  let g := s.grp
  (g.spilled = false → g.ringCount + k ≤ 64 → memory s t) ∧
    (∀ a, a < 0x8000 → (a < g.logCarve.1 ∨ g.logCarve.1 + g.logCarve.2 ≤ a) → t.grp.well.read a = g.well.read a) ∧
    ∀ p, (∀ j, j < (g.logLim.extractLsb' 0 32).toNat → p ≠ s.norm ((g.logOvf.extractLsb' 12 40).toNat * 4096 + j)) → t.mem.read p = s.mem.read p
/-- `i` has issued as a split-phase access that takes tag `x`: the slot goes on, and the destination is written later (R274). -/
def takesTag (i : Instr) (s t : State) (x : LoadTag) : Prop :=
  exec i s = .next t ∧ t.slot.pc = s.slot.finish.pc ∧ t.slot.levels = s.slot.finish.levels ∧ t.grp.instret = s.grp.instret ∧ t.grp.inFlight = s.grp.inFlight ∧
    slots s t [] ∧ t.grp.tile = s.grp.tile ∧ t.core.tags.getLast? = some x ∧
    t.core.tags.length = s.core.tags.length + 1
/-- The accesses of a load to blocks of remote memory, on their way to the fabric ports (R375, R378). -/
def asks (s : State) (tag : Nat) (blocks : List Nat) : List Packet :=
  blocks.filterMap fun b => (portModule (256 * b)).map fun m =>
    { place := .fabric m, id := 0, source := s.core.at_, body := .access (b % 2 ^ 7) (.load tag) }
/-- `i` completes and the octet's queue takes a job of this kind and these rows; gd takes its id (R284, R286, R294). -/
def enqueues (i : Instr) (s t : State) (d : GReg) (kind : JobKind) (rows : BitVec 32) : Prop :=
  exec i s = .next t ∧ done i s t ∧ slots s t [d] ∧ memory s t ∧ t.getG d = (if d = 0 then 0 else s.grp.nextJob.setWidth 64) ∧
    (t.octet (octetOf s.core.at_)).jobs = (s.octet (octetOf s.core.at_)).jobs ++
      [{ owner := s.grp.name, at_ := s.core.at_, id := s.grp.nextJob, serial := s.grp.jobSerial, running := false, error := 0, kind := kind }] ∧
    t.grp.nextJob = (if s.grp.nextJob = 255 then 1 else s.grp.nextJob + 1) ∧ t.grp.jobLast = s.grp.nextJob ∧
    t.grp.jobQueued = s.grp.jobQueued + 1 ∧ t.grp.jobOpen = min 255 (s.grp.jobOpen + 1) ∧ t.grp.busy = s.grp.busy ||| rows ∧
    t.grp.tile = s.grp.tile
/-- The words of the shared memory that the endpoint word `w` of a copy names, none if it names a well (R299, R323). -/
def wordsOf (w : Word) (rows stride width : Nat) : List Nat :=
  if w.getLsbD 63 then wordAddrs (w.extractLsb' 0 48).toNat rows stride width else []
/-- What the endpoint word `w` of a copy stands for, with the physical addresses of its words (R299, R323). -/
def endpointOf (s : State) (w : Word) (ps : List Nat) : Endpoint :=
  if w.getLsbD 63 then .shared ps else .well (if w.getLsbD 62 then s.grp.name else w.extractLsb' 0 40) (w.extractLsb' 40 16).toNat

/-! ### Messages -/

/-- The event happens, and changes no slot, no byte of memory and no other core. -/
def moves (i : Instr) (s t : State) : Prop :=
  exec i s = .next t ∧ t.stalled = s.stalled ∧ t.grp.slots = s.grp.slots ∧ memory s t ∧ t.others = s.others
/-- A message of class `cls` that comes up for delivery at the focus core, which holds its destination, unsealed and alone: nothing
that arrived before it waits there (R179, R372). -/
def arrives (s : State) (n : Nat) (p : Packet) (m : Msg) (cls : BitVec 3) : Prop :=
  s.net[n]? = some p ∧ p.body = .msg m ∧ p.place = .core s.core.at_ ∧ m.cls = cls ∧ s.portHolds = false ∧ s.isHere m.dest = true ∧
    s.grp.sealed = false ∧ s.grp.twin = none ∧ p.copy = false ∧ s.firmwareCore = false ∧ s.turnAt n p = true ∧ p.accepted = false ∧
    (cls = 0 → s.grp.noticeDue = false)
/-- The handler entry of a type is enabled for slot 1 or 2 (R24). -/
def handled (g : Group) (t : BitVec 8) : Prop :=
  (g.handler t.toNat).testBit 31 = true ∧ (g.handler t.toNat / 2 ^ 29 % 4 = 1 ∨ g.handler t.toNat / 2 ^ 29 % 4 = 2)
/-- A message of entry `id` on its way from the focus core (R181, R379). -/
def sending (s : State) (id : Nat) (m : Msg) : Packet :=
  { place := s.route m.dest, id := id, source := s.core.at_, body := .msg m, far := s.farCore m.dest }
/-- What leaves a core for a message: the message, or what the egress filters give back (R394; log 86). -/
def leaves (s t : State) (id : Nat) (m : Msg) : Prop :=
  (s.mayPass m.dest = true → t.net = s.net ++ [sending s id m]) ∧
    (s.mayPass m.dest = false → m.cls ≠ 1 → t.net = s.net ++
      [{ place := .core s.core.at_, id := id, source := s.core.at_, body := .notice { m with mtype := 0xFE, otype := m.mtype } id }])
/-- An output of a replica goes no further than its hash, on its way to the partner; the primary keeps the message until the hashes match
(R357; log 8). -/
def hashed (s t : State) (tw : Twin) (id : Nat) (m : Msg) : Prop :=
  let h := Config.twinHash (leNat m.image)
  t.net = s.net ++ [{ place := .core tw.partner, id := 0, source := s.core.at_, body := .twinHash h }] ∧
    t.grp.twin = some { tw with
      made := tw.made + 1, hashes := tw.hashes ++ [(h, s.cycle)]
      waiting := if tw.primary then tw.waiting ++ [(tw.made + 1, id, m)] else tw.waiting }
/-- What becomes of an output: it leaves the core, or, of a replica, its hash does. -/
def goesOut (s t : State) (id : Nat) (m : Msg) : Prop :=
  match s.grp.twin with | none => leaves s t id m | some tw => hashed s t tw id m
/-- Traffic of entry `id` back to the core that sent a packet, on this module or another (R379), by the router of the core `here`. -/
def answeredBy (here : Coord) (p : Packet) (id : Nat) (b : Traffic) : Packet :=
  match p.away with
  | none => { place := .core p.source, id := id, source := here, body := b }
  | some m => { place := .fabric m, id := id, source := here, body := b, far := some p.source }
/-- The same from the focus core. -/
def answered (s : State) (p : Packet) (id : Nat) (b : Traffic) : Packet := answeredBy s.core.at_ p id b
/-- A name-cache update, or what else is for the core itself, back to it. -/
def backTo (s : State) (p : Packet) (b : Traffic) : Packet := answered s p 0 b
/-- The acceptance of a packet's message, on its way to the sender (R171). -/
def acceptance (s : State) (p : Packet) (m : Msg) : Packet := answered s p p.id (.accept m.source p.id)
/-- The message returned to its sender with a type of its own (R171), by the router of the core `here`. -/
def returnedBy (here : Coord) (p : Packet) (m : Msg) (type : BitVec 8) : Packet :=
  answeredBy here p p.id (.notice { m with mtype := type, otype := m.mtype } p.id)
/-- The same from the focus core. -/
def returned (s : State) (p : Packet) (m : Msg) (type : BitVec 8) : Packet := returnedBy s.core.at_ p m type
/-- Mailbox entry i holds the image of `m` and is pending; every slot has its event (R107, R152). -/
def mailed (s t : State) (i : Nat) (m : Msg) : Prop :=
  t.grp.mbox[i]? = some (.pending s.grp.arrivals) ∧ (∀ j b, m.image[j]? = some b → t.grp.well.read (mboxAddr i + j) = b) ∧
    (∀ x, x < mboxAddr i ∨ mboxAddr i + m.image.length ≤ x → t.grp.well.read x = s.grp.well.read x) ∧
    ∀ j, (t.grp.slot j).latch = true ∧ (t.grp.slot j).pc = (s.grp.slot j).pc ∧ ∀ r, (t.grp.slot j).get r = (s.grp.slot j).get r

end Frame

end Sys2Proof
end

