-- ==== Sys2Proof/Certificates/Slice0/Obligations.lean ====
section
/-! DEFINITION. The statements for the provers: what the rules of the spec say that the instructions and the machine do. -/

open Sys2Proof
open Sys2Proof.Machine
open Sys2Proof.Frame

/-! ## Integer registers -/

/-- R95: the sums, products, logic and compares of two registers.
R95 and R31: the high halves of the exact products, and the quotients and remainders with their corners. -/
def Obligations.RegisterOperationsProductsAndQuotients : Prop :=
  (∀ (s : State) (d a b : GReg), let x := s.getG a; let y := s.getG b
    gives (.add d a b) s d (x + y) ∧ gives (.sub d a b) s d (x - y) ∧
    gives (.and d a b) s d (x &&& y) ∧ gives (.or d a b) s d (x ||| y) ∧ gives (.xor d a b) s d (x ^^^ y) ∧
    gives (.andn d a b) s d (x &&& ~~~y) ∧ gives (.orn d a b) s d (x ||| ~~~y) ∧
    gives (.mul d a b) s d (x * y) ∧
    gives (.min d a b) s d (if x.toInt ≤ y.toInt then x else y) ∧ gives (.max d a b) s d (if x.toInt ≤ y.toInt then y else x) ∧
    gives (.minu d a b) s d (if x.toNat ≤ y.toNat then x else y) ∧ gives (.maxu d a b) s d (if x.toNat ≤ y.toNat then y else x) ∧
    gives (.slt d a b) s d (if x.toInt < y.toInt then 1 else 0) ∧ gives (.sltu d a b) s d (if x.toNat < y.toNat then 1 else 0) ∧
    gives (.seq d a b) s d (if x = y then 1 else 0) ∧ gives (.sne d a b) s d (if x = y then 0 else 1)) ∧
  ∀ (s : State) (d a b : GReg), let x := s.getG a; let y := s.getG b
    (∃ v : Word, gives (.mulh d a b) s d v ∧ v.toInt = x.toInt * y.toInt / 2 ^ 64) ∧
    (∃ v : Word, gives (.mulhu d a b) s d v ∧ v.toNat = x.toNat * y.toNat / 2 ^ 64) ∧
    (∃ q r : Word, gives (.div d a b) s d q ∧ gives (.rem d a b) s d r ∧
      if y = 0 then q.toInt = -1 ∧ r = x
      else if x.toInt = -(2 ^ 63) ∧ y.toInt = -1 then q = x ∧ r = 0
      else q.toInt = x.toInt.tdiv y.toInt ∧ r.toInt = x.toInt - q.toInt * y.toInt) ∧
    ∃ q r : Word, gives (.divu d a b) s d q ∧ gives (.remu d a b) s d r ∧
      if y = 0 then q = BitVec.allOnes 64 ∧ r = x
      else q.toNat = x.toNat / y.toNat ∧ r.toNat = x.toNat - q.toNat * y.toNat

/-- R95: shifts and rotations by b[5:0], whose other bits are ignored, bit by bit.
R96 and R49: the immediate operations, and the trap of a shift with nonzero imm[15:6]. -/
def Obligations.ShiftsAndImmediateOperations : Prop :=
  (∀ (s : State) (d a b : GReg), let x := s.getG a; let n := (s.getG b).toNat % 64
    (∃ v : Word, gives (.sll d a b) s d v ∧ ∀ i, i < 64 → v.getLsbD i = (decide (n ≤ i) && x.getLsbD (i - n))) ∧
    (∃ v : Word, gives (.srl d a b) s d v ∧ ∀ i, i < 64 → v.getLsbD i = x.getLsbD (i + n)) ∧
    (∃ v : Word, gives (.sra d a b) s d v ∧ ∀ i, i < 64 → v.getLsbD i = if i + n < 64 then x.getLsbD (i + n) else x.getLsbD 63) ∧
    (∃ v : Word, gives (.rol d a b) s d v ∧ ∀ i, i < 64 → v.getLsbD ((i + n) % 64) = x.getLsbD i) ∧
    (∃ v : Word, gives (.ror d a b) s d v ∧ ∀ i, i < 64 → v.getLsbD i = x.getLsbD ((i + n) % 64))) ∧
  ∀ (s : State) (d a : GReg) (imm : BitVec 16), let x := s.getG a; let n := (imm.extractLsb' 0 6).toNat
    gives (.addi d a imm) s d (x + imm.signExtend 64) ∧ gives (.andi d a imm) s d (x &&& imm.setWidth 64) ∧
    gives (.ori d a imm) s d (x ||| imm.setWidth 64) ∧ gives (.xori d a imm) s d (x ^^^ imm.setWidth 64) ∧
    gives (.slti d a imm) s d (if x.toInt < imm.toInt then 1 else 0) ∧
    gives (.sltiu d a imm) s d (if x.toNat < (imm.signExtend 64).toNat then 1 else 0) ∧
    gives (.lih d imm) s d ((imm.setWidth 32 <<< 16).signExtend 64) ∧
    (imm.extractLsb' 6 10 = 0 →
      gives (.slli d a imm) s d (x <<< n) ∧ gives (.srli d a imm) s d (x >>> n) ∧
      gives (.srai d a imm) s d (x.sshiftRight n) ∧ gives (.rori d a imm) s d (x.rotateRight n)) ∧
    (imm.extractLsb' 6 10 ≠ 0 →
      traps (.slli d a imm) s 0x03 (s.ir.setWidth 64) ∧ traps (.srli d a imm) s 0x03 (s.ir.setWidth 64) ∧
      traps (.srai d a imm) s 0x03 (s.ir.setWidth 64) ∧ traps (.rori d a imm) s 0x03 (s.ir.setWidth 64))

/-- R95: the conditional moves leave gd alone when they do not move.
R95: what the unary operations count and rearrange. -/
def Obligations.ConditionalMovesAndUnaryOperations : Prop :=
  (∀ (s : State) (d a b : GReg),
    (s.getG b = 0 → gives (.movz d a b) s d (s.getG a) ∧ gives (.movnz d a b) s d (s.getG d)) ∧
    (s.getG b ≠ 0 → gives (.movnz d a b) s d (s.getG a) ∧ gives (.movz d a b) s d (s.getG d))) ∧
  ∀ (s : State) (d a : GReg), let x := s.getG a
    (∃ n, n ≤ 64 ∧ gives (.clz d a) s d (BitVec.ofNat 64 n) ∧ (∀ i, 64 - n ≤ i → i < 64 → x.getLsbD i = false) ∧
      (n < 64 → x.getLsbD (63 - n) = true)) ∧
    (∃ n, n ≤ 64 ∧ gives (.ctz d a) s d (BitVec.ofNat 64 n) ∧ (∀ i, i < n → x.getLsbD i = false) ∧
      (n < 64 → x.getLsbD n = true)) ∧
    gives (.popc d a) s d (BitVec.ofNat 64 ((List.range 64).filter fun i => x.getLsbD i).length) ∧
    (∃ v : Word, gives (.brev d a) s d v ∧ ∀ i, i < 64 → v.getLsbD i = x.getLsbD (63 - i)) ∧
    (∃ v : Word, gives (.bswap d a) s d v ∧ ∀ i, i < 8 → v.extractLsb' (8 * i) 8 = x.extractLsb' (8 * (7 - i)) 8) ∧
    gives (.sxb d a) s d ((x.extractLsb' 0 8).signExtend 64) ∧ gives (.sxh d a) s d ((x.extractLsb' 0 16).signExtend 64) ∧
    gives (.sxw d a) s d ((x.extractLsb' 0 32).signExtend 64) ∧ gives (.zxw d a) s d ((x.extractLsb' 0 32).setWidth 64)

/-! ## Control flow -/

/-- R97, R76 and R102: a branch whose test holds goes to A + sext(imm); else to the next word.
R98: the jumps and their links; JALR reads its base before it writes gd. -/
def Obligations.BranchesAndJumpsTransferControl : Prop :=
  (∀ (s : State) (b a : GReg) (imm : BitVec 16), let x := s.getG a; let y := s.getG b
    ∀ (i : Instr) (test : Prop),
      (i, test) ∈ [(Instr.beq b a imm, x = y), (.bne b a imm, x ≠ y), (.blt b a imm, x.toInt < y.toInt),
        (.bge b a imm, y.toInt ≤ x.toInt), (.bltu b a imm, x.toNat < y.toNat), (.bgeu b a imm, y.toNat ≤ x.toNat)] →
      ∃ t, exec i s = .next t ∧ slots s t [] ∧ outside t = outside s ∧ memory s t ∧
        (test → jumped s t (s.slot.pc + imm.signExtend 24)) ∧ (¬test → done i s t)) ∧
  ∀ (s : State) (d a : GReg) (imm : BitVec 16) (off : BitVec 26), let link : Word := (s.slot.pc.setWidth 64) + 1
    (∃ t, exec (.jal off) s = .next t ∧ jumped s t (BitVec.setWidth 24 ((s.slot.pc.setWidth 64) + off.signExtend 64)) ∧ t.getG 1 = link ∧
      slots s t [1] ∧ outside t = outside s ∧ memory s t) ∧
    ∃ t, exec (.jalr d a imm) s = .next t ∧ jumped s t ((s.getG a + imm.signExtend 64).setWidth 24) ∧
      t.getG d = (if d = 0 then 0 else link) ∧ slots s t [d] ∧ outside t = outside s ∧ memory s t

/-- R100: a loop instruction that may open a level opens it, or skips its body when the count is zero; each failing check
takes an illegal-operand trap.
R101: at the end word of the innermost level a count above one goes back to its start; a level that is through closes,
and the levels outside it are processed in turn. That a loop of no trips leaves the outer levels as they are is the model's reading
(log 12). -/
def Obligations.LoopsOpenLevelsAndEndWordsCountThem : Prop :=
  (∀ (s : State) (a : GReg) (count : BitVec 15) (body : BitVec 11) (i : Instr) (n : Nat) (v : Word),
    (i = .loop a body ∧ n = (s.getG a).toNat ∧ v = s.getG a) ∨ (i = .loopi count body ∧ n = count.toNat ∧ v = s.ir.setWidth 64) →
    let pc := s.slot.pc.toNat
    let may := body ≠ 0 ∧ pc + body.toNat < 2 ^ 24 ∧ n < 2 ^ 32 ∧ s.slot.levels.length ≠ 3 ∧
      ∀ l, s.slot.levels.getLast? = some l → pc + body.toNat ≤ l.stop.toNat
    (may → ∃ t, exec i s = .next t ∧ slots s t [] ∧ outside t = outside s ∧ memory s t ∧ t.grp.instret = s.grp.instret + 1 ∧
      if n = 0 then t.slot.pc = s.slot.pc + body.setWidth 24 + 1 ∧ t.slot.levels = s.slot.levels
      else t.slot.pc = s.slot.pc + 1 ∧ t.slot.levels = s.slot.levels ++
        [{ count := BitVec.ofNat 32 n, start := s.slot.pc + 1, stop := s.slot.pc + body.setWidth 24 }]) ∧
    (¬may → traps i s 0x03 v)) ∧
  (∀ (sl : Slot), sl.levels = [] → sl.finish.pc = sl.pc + 1 ∧ sl.finish.levels = []) ∧
  ∀ (sl : Slot) (l : LoopLevel) (outer : List LoopLevel), sl.levels = outer ++ [l] →
    (sl.pc ≠ l.stop → sl.finish.pc = sl.pc + 1 ∧ sl.finish.levels = sl.levels) ∧
    (sl.pc = l.stop → 1 < l.count.toNat →
      sl.finish.pc = l.start ∧ sl.finish.levels = outer ++ [{ l with count := l.count - 1 }]) ∧
    (sl.pc = l.stop → l.count.toNat ≤ 1 →
      sl.finish.pc = ({ sl with levels := outer } : Slot).finish.pc ∧
        sl.finish.levels = ({ sl with levels := outer } : Slot).finish.levels)

/-- R105 to R107: ENDH frees the slot, whose TRAPPC persists by the model's reading (log 34), and waits for what the slot issued before; YIELD only leaves its slot unready for the
core's next issue, which is the model's reading (log 132); WFE consumes a set latch, and waits for a clear one. -/
def Obligations.ActivationControlCompletes : Prop :=
  ∀ (s : State),
    (¬(s.k = 3 ∧ s.grp.trapact = true) → (∀ x ∈ s.core.tags, x.slot ≠ s.k) →
      ∃ t, exec .endh s = .next t ∧ t.slot.active = false ∧ t.slot.levels = [] ∧ (∀ r, t.getG r = 0) ∧
        t.slot.trapPc = s.slot.trapPc ∧ t.grp.instret = s.grp.instret + 1 ∧ t.grp.inFlight = s.grp.inFlight ∧ memory s t ∧
        (∀ i, s.slot.entry = some i → i < s.grp.mbox.length → t.grp.mbox[i]? = some .free) ∧
        (∀ i, s.slot.entry ≠ some i → t.grp.mbox[i]? = s.grp.mbox[i]?) ∧
        ∀ j, j ≠ s.k → (t.grp.slot j).latch = true ∧ (t.grp.slot j).pc = (s.grp.slot j).pc ∧ ∀ r, (t.grp.slot j).get r = (s.grp.slot j).get r) ∧
    (s.k = 3 → s.grp.trapact = true → traps .endh s 0x03 (s.ir.setWidth 64)) ∧
    (¬(s.k = 3 ∧ s.grp.trapact = true) → (∃ x ∈ s.core.tags, x.slot = s.k) → waits .endh s) ∧
    (∃ t, exec .yield s = .next t ∧ done .yield s t ∧ slot t.slot = { slot s.slot with yielded := true } ∧ (∀ r, t.getG r = s.getG r) ∧
      (∀ j, j ≠ s.k → t.grp.slot j = s.grp.slot j) ∧ outside t = outside s ∧ memory s t) ∧
    (s.slot.latch = true → ∃ t, exec .wfe s = .next t ∧ done .wfe s t ∧ slot t.slot = { slot s.slot with latch := false } ∧ (∀ r, t.getG r = s.getG r) ∧
      (∀ j, j ≠ s.k → t.grp.slot j = s.grp.slot j) ∧ outside t = outside s ∧ memory s t) ∧
    (s.slot.latch = false → waits .wfe s)

/-! ## Local memory -/

/-- R108 to R110: a scalar load that passes its checks gives the bytes at its address, little-endian, sign- or
zero-extended; over a damaged word of the window it takes a trap at its next word (R355). The address sum modulo 2^64 is the model's
reading (log 24); that this trap is that of R339, with tag 0 in TRAPCAUSE and the local address in TRAPVAL, is its choice (log 70). -/
def Obligations.ScalarLoadsExtendTheBytesTheyRead : Prop :=
  ∀ (s : State) (d a : GReg) (imm : BitVec 16), let addr := s.localAddr a imm; let m (j : Nat) := s.localByte (addr.toNat + j)
    (s.grp.checkLocal false addr.toNat 1 1 addr = none → s.windowDamaged addr.toNat 1 = false →
      gives (.ldb d a imm) s d ((m 0).signExtend 64) ∧ gives (.ldbu d a imm) s d ((m 0).setWidth 64)) ∧
    (s.grp.checkLocal false addr.toNat 2 2 addr = none → s.windowDamaged addr.toNat 2 = false →
      gives (.ldh d a imm) s d ((m 1 ++ m 0).signExtend 64) ∧ gives (.ldhu d a imm) s d ((m 1 ++ m 0).setWidth 64)) ∧
    (s.grp.checkLocal false addr.toNat 4 4 addr = none → s.windowDamaged addr.toNat 4 = false →
      gives (.ldw d a imm) s d ((m 3 ++ m 2 ++ m 1 ++ m 0).signExtend 64) ∧
      gives (.ldwu d a imm) s d ((m 3 ++ m 2 ++ m 1 ++ m 0).setWidth 64)) ∧
    (s.grp.checkLocal false addr.toNat 8 8 addr = none → s.windowDamaged addr.toNat 8 = false →
      gives (.ldd d a imm) s d (m 7 ++ m 6 ++ m 5 ++ m 4 ++ m 3 ++ m 2 ++ m 1 ++ m 0)) ∧
    ∀ (i : Instr) (n : Nat),
      (i, n) ∈ [(Instr.ldb d a imm, 1), (.ldbu d a imm, 1), (.ldh d a imm, 2), (.ldhu d a imm, 2), (.ldw d a imm, 4),
        (.ldwu d a imm, 4), (.ldd d a imm, 8)] →
      s.grp.checkLocal false addr.toNat n n addr = none → s.windowDamaged addr.toNat n = true → damagedLoad i s addr

/-- R108, R110 and R111: a store that passes its checks and touches no lent range writes the low bytes of its register, or
the row, at its address, and no other byte. The address sum modulo 2^64 is the model's reading (log 24). -/
def Obligations.LocalStoresWriteTheirBytesAndNoOther : Prop :=
  ∀ (s : State) (b a : GReg) (v : VReg) (imm : BitVec 16),
    let addr := s.localAddr a imm; let y := s.getG b; let byte (i : Nat) := y.extractLsb' (8 * i) 8
    (s.grp.checkLocal true addr.toNat 1 1 addr = none → s.grp.lentAt addr.toNat 1 = false →
      stores (.stb b a imm) s addr.toNat [byte 0]) ∧
    (s.grp.checkLocal true addr.toNat 2 2 addr = none → s.grp.lentAt addr.toNat 2 = false →
      stores (.sth b a imm) s addr.toNat [byte 0, byte 1]) ∧
    (s.grp.checkLocal true addr.toNat 4 4 addr = none → s.grp.lentAt addr.toNat 4 = false →
      stores (.stw b a imm) s addr.toNat [byte 0, byte 1, byte 2, byte 3]) ∧
    (s.grp.checkLocal true addr.toNat 8 8 addr = none → s.grp.lentAt addr.toNat 8 = false →
      stores (.std b a imm) s addr.toNat [byte 0, byte 1, byte 2, byte 3, byte 4, byte 5, byte 6, byte 7]) ∧
    (s.grp.checkLocal true addr.toNat 128 8 addr = none → s.rowFree v = true → s.grp.lentAt addr.toNat 128 = false →
      stores (.stv v a imm) s addr.toNat ((List.range 128).map fun j => (s.grp.row v).extractLsb' (8 * j) 8))

/-- R109: a local access outside the local space, misaligned, or in a protected range takes the first trap that applies,
with the address that fails, and moves nothing; the address sum modulo 2^64 is the model's reading (log 24).
R112: of the lanes that fail a check the lowest traps, with its address modulo 2^16 and its index in TRAPVAL.
R246, R251 and R273: a shared access with address bits above 48, a misaligned one, one whose translation fails, and one
that meets a byte which no access reaches, takes the first trap that applies; a row access waits for its row first. -/
def Obligations.AccessesTrapInTheOrderOfTheChecks : Prop :=
  (∀ (s : State) (d b a : GReg) (v : VReg) (imm : BitVec 16), let addr := s.localAddr a imm
    ∀ (i : Instr) (store : Bool) (n align : Nat),
      (i, store, n, align) ∈
        [(Instr.ldb d a imm, false, 1, 1), (.ldbu d a imm, false, 1, 1), (.ldh d a imm, false, 2, 2), (.ldhu d a imm, false, 2, 2),
         (.ldw d a imm, false, 4, 4), (.ldwu d a imm, false, 4, 4), (.ldd d a imm, false, 8, 8), (.stb b a imm, true, 1, 1),
         (.sth b a imm, true, 2, 2), (.stw b a imm, true, 4, 4), (.std b a imm, true, 8, 8), (.ldv v a imm, false, 128, 8),
         (.stv v a imm, true, 128, 8)] →
      if 0x10000 < addr.toNat + n then traps i s 0x04 addr
      else if addr.toNat % align ≠ 0 then traps i s 0x05 addr
      else s.grp.protected store addr.toNat n = true → traps i s 0x06 addr) ∧
  (∀ (s : State) (w : Width) (v : VReg) (a b : GReg) (i : Nat) (c : Nat) (x : Word), let n := widthBits w / 8
    i < 128 / n → ∀ store : Bool,
    (∀ j, j < i → s.grp.checkLocal store (s.laneAddr a b j) n n 0 = none) →
    s.grp.checkLocal store (s.laneAddr a b i) n n x = some (c, x) →
    x.toNat = (s.laneAddr a b i % 2 ^ 16).toNat + i * 2 ^ 16 →
    traps (if store then .stvs w v a b else .ldvs w v a b) s c x) ∧
  ∀ (s : State) (d m a b : GReg) (v : VReg) (ord : AtomOrd), let x := s.getG a
    ∀ (i : Instr) (n : Nat) (need : Need),
      (i, n, need) ∈ [(Instr.sld d a, 8, ⟨true, false⟩), (.lda d a, 8, ⟨true, false⟩), (.sldv v a, 128, ⟨true, false⟩), (.sstv v a, 128, ⟨false, true⟩),
        (.atomAdd ord d a b, 8, ⟨true, true⟩), (.atomMin ord d a b, 8, ⟨true, true⟩), (.atomMax ord d a b, 8, ⟨true, true⟩),
        (.atomAnd ord d a b, 8, ⟨true, true⟩), (.atomOr ord d a b, 8, ⟨true, true⟩), (.atomXor ord d a b, 8, ⟨true, true⟩),
        (.atomSwap ord d a b, 8, ⟨true, true⟩), (.atomCas ord d a b, 8, ⟨true, true⟩)] ∨
      (((s.getG m).extractLsb' 8 56 = 0) ∧ (i, n, need) ∈ [(Instr.sst m a b, 8, ⟨false, true⟩), (.sstr m a b, 8, ⟨false, true⟩)]) →
      (i = .sldv v a ∨ i = .sstv v a → s.rowFree v = true) →
      if x.extractLsb' 48 16 ≠ 0 then traps i s 0x04 x
      else if x.toNat % 8 ≠ 0 then traps i s 0x05 x
      else (∀ c y, s.core.translate need x.toNat n = .trap c y → traps i s c (BitVec.ofNat 64 y)) ∧
        ∀ ps j p, s.core.translate need x.toNat n = .ok ps → ps[j]? = some p → s.unreachable p.1 = true →
          (∀ j' p', j' < j → ps[j']? = some p' → s.unreachable p'.1 = false) → traps i s 0x08 (x + BitVec.ofNat 64 j)

/-- R111 and R112: the row loads, and a strided store of a lane as far as no higher lane overwrites it; a load over a damaged
word of the window traps at its next word (R355). The address sum modulo 2^64 is the model's reading (log 24); the registers of that
trap, with tag 0 and the local address, are its choice (log 70). -/
def Obligations.RowAndStridedAccessesMoveLanes : Prop :=
  ∀ (s : State) (w : Width) (v : VReg) (a b : GReg) (imm : BitVec 16),
    let addr := s.localAddr a imm; let n := widthBits w / 8; let lanes := 128 / n
    (s.grp.checkLocal false addr.toNat 128 8 addr = none → s.rowFree v = true → s.windowDamaged addr.toNat 128 = true →
      damagedLoad (.ldv v a imm) s addr) ∧
    (s.grp.checkLocal false addr.toNat 128 8 addr = none → s.rowFree v = true → s.windowDamaged addr.toNat 128 = false →
      ∃ row : Row, turnsInto (.ldv v a imm) s (s.mapGrp (·.setRow v row)) ∧
        ∀ j, j < 128 → row.extractLsb' (8 * j) 8 = s.localByte (addr.toNat + j)) ∧
    ((∀ i, i < lanes → s.grp.checkLocal false (s.laneAddr a b i) n n 0 = none) → s.rowFree v = true →
      ((∀ i, i < lanes → s.windowDamaged (s.laneAddr a b i).toNat n = false) →
        ∃ row : Row, turnsInto (.ldvs w v a b) s (s.mapGrp (·.setRow v row)) ∧
          ∀ i j, i < lanes → j < n → row.extractLsb' (8 * (n * i + j)) 8 = s.localByte ((s.laneAddr a b i).toNat + j)) ∧
      ∀ i, i < lanes → s.windowDamaged (s.laneAddr a b i).toNat n = true →
        (∀ j, j < i → s.windowDamaged (s.laneAddr a b j).toNat n = false) →
        damagedLoad (.ldvs w v a b) s (BitVec.ofNat 64 (s.laneAddr a b i).toNat)) ∧
    ((∀ i, i < lanes → s.grp.checkLocal true (s.laneAddr a b i) n n 0 = none ∧ s.grp.lentAt (s.laneAddr a b i).toNat n = false) →
      s.rowFree v = true →
      ∃ t, exec (.stvs w v a b) s = .next t ∧ done (.stvs w v a b) s t ∧ slots s t [] ∧ outsideMemory t = outsideMemory s ∧
        (∀ i j, i < lanes → j < n → (∀ i', i < i' → i' < lanes → s.laneAddr a b i' ≠ s.laneAddr a b i) →
          t.localByte ((s.laneAddr a b i).toNat + j) =
            keptByte ((s.laneAddr a b i).toNat + j) ((s.grp.row v).extractLsb' (8 * (n * i + j)) 8)) ∧
        (∀ p ∈ t.poisoned, p ∈ s.poisoned) ∧
        (∀ x, (∀ i j, i < lanes → j < n → x ≠ (s.laneAddr a b i).toNat + j) → t.localByte x = s.localByte x) ∧
        ∀ p, (∀ i j, i < lanes → j < n → 0x8000 ≤ (s.laneAddr a b i).toNat + j → p ≠ s.grp.windowAddr ((s.laneAddr a b i).toNat + j)) →
          t.mem.read p = s.mem.read p)

/-- R109, R114 and R115: the full/empty instructions on a well word. Beyond the well, misaligned, or in a protected range they trap; in
the state they wait for, with nobody ahead in its line, they take effect, and a change of the bit is an event for the other slots (R107);
otherwise they wait, and take a place in the line of waiters. That a STE which waits for a lent range alone has no place there is the
model's choice (log 71). -/
def Obligations.FullEmptyInstructionsTestAndSetTheBit : Prop :=
  ∀ (s : State) (d a b : GReg), let x := s.getG a; let w := x.toNat / 8
    let bytes := List.map (fun i => (s.getG b).extractLsb' (8 * i) 8) [0, 1, 2, 3, 4, 5, 6, 7]
    let word : Word := s.localByte (x.toNat + 7) ++ s.localByte (x.toNat + 6) ++ s.localByte (x.toNat + 5) ++ s.localByte (x.toNat + 4) ++
      s.localByte (x.toNat + 3) ++ s.localByte (x.toNat + 2) ++ s.localByte (x.toNat + 1) ++ s.localByte x.toNat
    let bit (t : State) (full : Bool) : Prop := t.grp.fe.getLsbD w = full ∧ ∀ y, y ≠ w → t.grp.fe.getLsbD y = s.grp.fe.getLsbD y
    -- the other slots have their event if the bit has changed, and are otherwise as they were
    let others (t : State) (full : Bool) : Prop := ∀ j, j ≠ s.k →
      if s.grp.fe.getLsbD w = full then t.grp.slot j = s.grp.slot j else notified (s.grp.slot j) (t.grp.slot j)
    let sets (i : Instr) (full : Bool) : Prop := ∃ t, exec i s = .next t ∧ done i s t ∧ slot t.slot = slot s.slot ∧ (∀ r, t.getG r = s.getG r) ∧
      bit t full ∧ others t full ∧ outside t = outside (s.mapGrp fun g => { g with fe := t.grp.fe }) ∧ memory s t
    let queues (i : Instr) (forFull : Bool) : Prop :=
      (∀ n, s.slot.ticketAt w forFull = some n → waits i s) ∧
      (s.slot.ticketAt w forFull = none → ∃ t, exec i s = .next t ∧ t.stalled = true ∧ t.slot.progress = .fullEmpty w s.grp.ticket forFull ∧
        t.slot.pc = s.slot.pc ∧ t.slot.levels = s.slot.levels ∧ t.grp.instret = s.grp.instret ∧ slots s t [] ∧
        outside t = outside (s.mapGrp fun g => { g with ticket := g.ticket + 1 }).stall ∧ memory s t)
    (∀ (i : Instr) (store : Bool),
      (i, store) ∈ [(Instr.ldf d a, false), (.ldfk d a, false), (.tstf d a, false), (.ste a b, true), (.setf a, true), (.sete a, true)] →
      if 0x8000 ≤ x.toNat then traps i s 0x04 x
      else if x.toNat % 8 ≠ 0 then traps i s 0x05 x
      else s.grp.protected store x.toNat 8 = true → traps i s 0x06 x) ∧
    (s.grp.checkWord false x = none →
      gives (.tstf d a) s d (if s.grp.fe.getLsbD w then 1 else 0) ∧
      (s.grp.fe.getLsbD w = true → s.behind w true = false →
        gives (.ldfk d a) s d word ∧
        ∃ t, exec (.ldf d a) s = .next t ∧ done (.ldf d a) s t ∧ slot t.slot = slot s.slot ∧ t.getG d = (if d = 0 then 0 else word) ∧
          (∀ r, r ≠ d → t.getG r = s.getG r) ∧ bit t false ∧ others t false ∧
          outside t = outside (s.mapGrp fun g => { g with fe := t.grp.fe }) ∧ memory s t) ∧
      (s.grp.fe.getLsbD w = false ∨ s.behind w true = true → queues (.ldf d a) true ∧ queues (.ldfk d a) true)) ∧
    (s.grp.checkWord true x = none →
      sets (.setf a) true ∧ sets (.sete a) false ∧
      (s.grp.fe.getLsbD w = true ∨ s.behind w false = true → queues (.ste a b) false) ∧
      (s.grp.fe.getLsbD w = false → s.behind w false = false → s.grp.lentAt x.toNat 8 = true → waits (.ste a b) s) ∧
      (s.grp.fe.getLsbD w = false → s.behind w false = false → s.grp.lentAt x.toNat 8 = false →
        ∃ t, exec (.ste a b) s = .next t ∧ done (.ste a b) s t ∧ slot t.slot = slot s.slot ∧ (∀ r, t.getG r = s.getG r) ∧ bit t true ∧ others t true ∧
          outsideMemory t = outsideMemory (s.mapGrp fun g => { g with fe := t.grp.fe }) ∧ t.poisoned = s.poisoned ∧
          (∀ p, t.mem.read p = s.mem.read p) ∧
          (∀ j, j < 8 → some (t.localByte (x.toNat + j)) = (bytes[j]?).map (keptByte (x.toNat + j))) ∧
          ∀ y, y < x.toNat ∨ x.toNat + 8 ≤ y → t.localByte y = s.localByte y))

/-! ## Scalar floating point -/

/-- R116 and R117: the scalar floating-point instructions write the rounded result in the low bits of gd, with zeros above
it, and raise its flags, which are sticky. -/
def Obligations.ScalarFloatingResultsAndStickyFlags : Prop :=
  ∀ (s : State) (t : FType) (d a b c : GReg),
    let w := ftypeWidth t; let f := ftypeFmt t
    let x := (s.getG a).toNat % 2 ^ w; let y := (s.getG b).toNat % 2 ^ w; let z := (s.getG c).toNat % 2 ^ w
    let result (i : Instr) (r : FRes) : Prop := givesFlags i s d (BitVec.ofNat 64 r.bits) r.flags
    result (.fadd t d a b) (f.binop .add s.rmode x y) ∧ result (.fsub t d a b) (f.binop .sub s.rmode x y) ∧
    result (.fmul t d a b) (f.binop .mul s.rmode x y) ∧ result (.fdiv t d a b) (f.binop .div s.rmode x y) ∧
    result (.ffma t d a b c) (f.fused .fma s.rmode x y z) ∧ result (.fsqrt t d a) (f.sqrt s.rmode (f.unpack x)) ∧
    result (.fmin t d a b) (f.minMax false x y) ∧ result (.fmax t d a b) (f.minMax true x y) ∧
    result (.feq t d a b) ⟨if (f.compare .eq x y).1 then 1 else 0, (f.compare .eq x y).2⟩ ∧
    result (.flt t d a b) ⟨if (f.compare .lt x y).1 then 1 else 0, (f.compare .lt x y).2⟩ ∧
    result (.fle t d a b) ⟨if (f.compare .le x y).1 then 1 else 0, (f.compare .le x y).2⟩ ∧
    gives (.fclass t d a) s d (1 <<< f.classBit x) ∧
    ∀ dst src : FKind, fcvtAllowed dst src = true →
      result (.fcvt dst src d a) (cvtResult dst s.grp.satf8 s.rmode (cvtValue src (s.getG a)))

/-! ## System registers, traps and their returns -/

/-- R26, R27 and R118: what MFS reads in each user register; how long an instruction stays in flight, and INSTRET without it, is a
free value (log 5). A number from 0x15 to 0x1F is reserved.
R118 and R27: MTS writes the fields that software may write; a reserved encoding, or a register that only hardware
writes, takes an illegal-operand trap. -/
def Obligations.UserRegistersAreReadAndWritten : Prop :=
  (∀ (s : State) (d : GReg), let g := s.grp
    let level (n : Nat) : Word := match s.slot.levels[n]? with | some l => l.count.setWidth 64 | none => 0
    gives (.mfs d 0x00) s d (BitVec.ofNat 64 s.cycle) ∧
    gives (.mfs d 0x01) s d (g.instret - BitVec.ofNat 64 g.inFlight) ∧
    gives (.mfs d 0x02) s d g.self ∧ gives (.mfs d 0x03) s d g.posn ∧ gives (.mfs d 0x04) s d g.launchReg ∧
    gives (.mfs d 0x05) s d (g.logTail.setWidth 64) ∧ gives (.mfs d 0x06) s d (g.logPub.setWidth 64) ∧
    gives (.mfs d 0x07) s d g.lpat ∧
    gives (.mfs d 0x08) s d (match g.tilecfg with | .f32 => 0 | .i32 => 1 | .f16 => 2 | .b16 => 3) ∧
    gives (.mfs d 0x09) s d (g.fmta.setWidth 64) ∧ gives (.mfs d 0x0A) s d (g.fmtb.setWidth 64) ∧
    gives (.mfs d 0x0B) s d (g.scla.setWidth 64) ∧ gives (.mfs d 0x0C) s d (g.sclb.setWidth 64) ∧
    gives (.mfs d 0x0D) s d (g.astride.setWidth 64) ∧ gives (.mfs d 0x0E) s d (g.bstride.setWidth 64) ∧
    gives (.mfs d 0x0F) s d (0#43 ++ g.fflags ++ 0#7 ++ BitVec.ofBool g.satf8 ++ 0#5 ++ g.rm) ∧
    ((∀ q, (g.queue q).words.length ≤ 32) →
      ∃ v : Word, gives (.mfs d 0x10) s d v ∧ v.extractLsb' 56 8 = 0 ∧ ∀ q : BitVec 3,
        (v.extractLsb' (6 * q.toNat) 6).toNat = (g.queue q).words.length ∧ v.getLsbD (48 + q.toNat) = (g.queue q).bound) ∧
    (∃ v : Word, gives (.mfs d 0x11) s d v ∧ (v.extractLsb' 16 5).toNat = min g.jobQueued 16 ∧ v.extractLsb' 8 8 = g.jobLast ∧
      (v.extractLsb' 0 8).toNat = min g.jobOpen 255 ∧ v.extractLsb' 21 43 = 0) ∧
    gives (.mfs d 0x12) s d (level 0) ∧ gives (.mfs d 0x13) s d (level 1) ∧ gives (.mfs d 0x14) s d (level 2)) ∧
  (∀ (s : State) (d a : GReg) (n : BitVec 8), 0x15 ≤ n.toNat → n.toNat < 0x20 →
    traps (.mfs d n) s 0x01 (s.ir.setWidth 64) ∧ traps (.mts a n) s 0x01 (s.ir.setWidth 64)) ∧
  ∀ (s : State) (a : GReg), let v := s.getG a
    turnsInto (.mts a 0x07) s (s.mapGrp fun g => { g with lpat := (v.setWidth 29).setWidth 64 }) ∧
    (if (v.extractLsb' 0 4).toNat < 7 then turnsInto (.mts a 0x09) s (s.mapGrp fun g => { g with fmta := v.extractLsb' 0 4 })
      else traps (.mts a 0x09) s 0x03 v) ∧
    (if (v.extractLsb' 0 4).toNat < 7 then turnsInto (.mts a 0x0A) s (s.mapGrp fun g => { g with fmtb := v.extractLsb' 0 4 })
      else traps (.mts a 0x0A) s 0x03 v) ∧
    turnsInto (.mts a 0x0B) s (s.mapGrp fun g => { g with scla := v.extractLsb' 0 17 }) ∧
    turnsInto (.mts a 0x0C) s (s.mapGrp fun g => { g with sclb := v.extractLsb' 0 17 }) ∧
    (if v.extractLsb' 0 3 = 0 then turnsInto (.mts a 0x0D) s (s.mapGrp fun g => { g with astride := v.extractLsb' 0 16 })
      else traps (.mts a 0x0D) s 0x03 v) ∧
    (if v.extractLsb' 0 3 = 0 then turnsInto (.mts a 0x0E) s (s.mapGrp fun g => { g with bstride := v.extractLsb' 0 16 })
      else traps (.mts a 0x0E) s 0x03 v) ∧
    (if (v.extractLsb' 0 3).toNat < 5 then
      turnsInto (.mts a 0x0F) s (s.mapGrp fun g => { g with fflags := v.extractLsb' 16 5, satf8 := v.getLsbD 8, rm := v.extractLsb' 0 3 })
      else traps (.mts a 0x0F) s 0x03 v) ∧
    ∀ n ∈ [0x00, 0x01, 0x02, 0x03, 0x04, 0x05, 0x06, 0x08, 0x10, 0x11, 0x12, 0x13, 0x14], traps (.mts a (BitVec.ofNat 8 n)) s 0x03 v

/-- R91, R334 and R340: a slot that is not privileged takes the privileged-instruction trap at MFSP and MTSP of any register, and
at MFS and MTS of a privileged number; in a privileged slot a number that is not listed is reserved, one of system level needs that
level, MFS and MTS of a privileged number act as MFSP and MTSP, and MFSP and MTSP of a user number as MFS and MTS.
R341 and R342: the field s names the slot of a per-slot register, LC0 to LC2 among them; what each register reads, and what MTSP to it
writes or refuses. A trap activation in slot 3 reaches the registers of the slot it handles.
A general register of a stopped slot that an access of the slot is still to write holds MFSP and MTSP off (R25).
R229, R261 and R340: the registers of system level; a write to one of the annealer waits for the next round start. That MTSP writes
SPILLOVF exactly in a system activation, and otherwise traps, is the model's reading of R340 (log 46); that LOGAREA takes every base is
the model's choice (log 127). -/
def Obligations.PrivilegedRegistersAreGuardedAndReached : Prop :=
  (∀ (s : State) (d a : GReg) (f : SlotId) (n : BitVec 8), let m := n.toNat; let w : Word := s.ir.setWidth 64; let v := s.getG a
    let perSlot := (decide (0x21 ≤ m) && decide (m ≤ 0x23)) || (decide (0x40 ≤ m) && decide (m ≤ 0x5F))
    let ofSystem := (decide (0x28 ≤ m) && decide (m ≤ 0x2B)) || (decide (0x30 ≤ m) && decide (m ≤ 0x35))
    (s.privileged = false →
      traps (.mfsp d f n) s 0x02 w ∧ traps (.mtsp a f n) s 0x02 w ∧ traps .eret s 0x02 w ∧
      (0x20 ≤ m → traps (.mfs d n) s 0x02 w ∧ traps (.mts a n) s 0x02 w)) ∧
    (s.privileged = true →
      (0x20 ≤ m → perSlot = false → ofSystem = false → m ≠ 0x20 → m ≠ 0x24 → traps (.mfsp d f n) s 0x01 w ∧ traps (.mtsp a f n) s 0x01 w) ∧
      (0x15 ≤ m → m < 0x20 → traps (.mfsp d f n) s 0x01 w ∧ traps (.mtsp a f n) s 0x01 w) ∧
      (m < 0x12 → f = 0 → exec (.mfsp d f n) s = exec (.mfs d n) s ∧ exec (.mtsp a f n) s = exec (.mts a n) s) ∧
      (m < 0x12 → f ≠ 0 → traps (.mfsp d f n) s 0x03 w ∧ traps (.mtsp a f n) s 0x03 v) ∧
      (0x12 ≤ m → m < 0x15 → traps (.mtsp a f n) s 0x03 v ∧ (f = 3 → ¬(s.k = 3 ∧ s.grp.trapact = true) → traps (.mfsp d f n) s 0x03 w)) ∧
      (0x20 ≤ m → exec (.mfs d n) s = exec (.mfsp d (if perSlot then s.k else 0) n) s ∧
        exec (.mts a n) s = exec (.mtsp a (if perSlot then s.k else 0) n) s) ∧
      (ofSystem = true → s.systemLevel = false → traps (.mfsp d f n) s 0x02 w ∧ traps (.mtsp a f n) s 0x02 w) ∧
      ((ofSystem = true ∧ s.systemLevel = true) ∨ m = 0x20 ∨ m = 0x24 → f ≠ 0 → traps (.mfsp d f n) s 0x03 w ∧ traps (.mtsp a f n) s 0x03 v) ∧
      (perSlot = true → f = 3 → ¬(s.k = 3 ∧ s.grp.trapact = true) → traps (.mfsp d f n) s 0x03 w ∧ traps (.mtsp a f n) s 0x03 v) ∧
      (0x40 ≤ m → m ≤ 0x5F → f ≠ 3 → (s.grp.slot f).susp = false → traps (.mfsp d f n) s 0x03 w ∧ traps (.mtsp a f n) s 0x03 v) ∧
      (m = 0x20 ∨ m = 0x22 ∨ m = 0x24 → traps (.mtsp a f n) s 0x03 v))) ∧
  (∀ (s : State) (d a : GReg) (f : SlotId), s.privileged = true → (f = 3 → s.k = 3 ∧ s.grp.trapact = true) →
    let j := if f = 3 then s.grp.trapSlot else f; let sl := s.grp.slot j; let v := s.getG a
    -- MTSP makes `x` of slot j, and changes nothing else
    let puts (n : BitVec 8) (x : Slot) : Prop := ∃ t, exec (.mtsp a f n) s = .next t ∧ done (.mtsp a f n) s t ∧ memory s t ∧ outside t = outside s ∧
      slot (t.grp.slot j) = slot x ∧ (∀ r, (t.grp.slot j).get r = x.get r) ∧
      (j ≠ s.k → t.grp.slot j = x ∧ slot t.slot = slot s.slot ∧ ∀ r, t.getG r = s.getG r) ∧
      ∀ i, i ≠ j → i ≠ s.k → t.grp.slot i = s.grp.slot i
    (∀ i, i < 3 → gives (.mfsp d f (BitVec.ofNat 8 (0x12 + i))) s d
      (match sl.levels[i]? with | some l => l.count.setWidth 64 | none => 0)) ∧
    gives (.mfsp d f 0x21) s d (sl.trapPc.setWidth 64) ∧ gives (.mfsp d f 0x22) s d sl.trapCause ∧
    gives (.mfsp d f 0x23) s d sl.trapVal ∧ gives (.mfsp d 0 0x24) s d (s.grp.trapSlot.setWidth 64) ∧
    (∃ w : Word, gives (.mfsp d 0 0x20) s d w ∧ w.getLsbD 15 = s.grp.sealed ∧ w.getLsbD 10 = (s.grp.slot 2).susp ∧
      w.getLsbD 9 = (s.grp.slot 1).susp ∧ w.getLsbD 8 = (s.grp.slot 0).susp ∧ w.getLsbD 2 = s.grp.sysact ∧
      w.getLsbD 1 = s.grp.trapact ∧ w.getLsbD 0 = s.grp.sys ∧ w &&& ~~~(0x8707#64) = 0) ∧
    (∀ r : GReg, sl.susp = true → (∀ x ∈ s.core.tags, ¬(x.slot = j ∧ x.dest = .g r)) →
      gives (.mfsp d f (BitVec.ofNat 8 (0x40 + r.toNat))) s d (sl.get r)) ∧
    (∀ r : GReg, sl.susp = true → (∃ x ∈ s.core.tags, x.slot = j ∧ x.dest = .g r) →
      waits (.mfsp d f (BitVec.ofNat 8 (0x40 + r.toNat))) s ∧ waits (.mtsp a f (BitVec.ofNat 8 (0x40 + r.toNat))) s) ∧
    (if v.extractLsb' 24 40 = 0 then puts 0x21 { sl with trapPc := v.extractLsb' 0 24 } else traps (.mtsp a f 0x21) s 0x03 v) ∧
    puts 0x23 { sl with trapVal := v } ∧
    ∀ r : GReg, sl.susp = true → (∀ x ∈ s.core.tags, ¬(x.slot = j ∧ x.dest = .g r)) → puts (BitVec.ofNat 8 (0x40 + r.toNat)) (sl.set r v)) ∧
  ∀ (s : State) (d a : GReg), s.systemLevel = true → let g := s.grp; let x := s.ann; let v := s.getG a
    let low := (v.extractLsb' 0 14).toNat; let half := (v.extractLsb' 0 32).toNat; let page := (v.extractLsb' 12 40).toNat
    let waiting (n : Nat) : Prop := turnsInto (.mtsp a 0 (BitVec.ofNat 8 n)) s (s.mapAnn fun x => { x with pendingRegs := x.pendingRegs ++ [(n, v)] })
    gives (.mfsp d 0 0x28) s d g.logArea ∧ gives (.mfsp d 0 0x29) s d g.logOvf ∧ gives (.mfsp d 0 0x2A) s d g.logLim ∧
    gives (.mfsp d 0 0x2B) s d g.spillOvf ∧ gives (.mfsp d 0 0x30) s d (x.tempCurrent ++ x.tempStart) ∧
    gives (.mfsp d 0 0x31) s d (x.alpha.setWidth 64) ∧ gives (.mfsp d 0 0x32) s d (x.floor.setWidth 64) ∧
    gives (.mfsp d 0 0x33) s d (x.seed.setWidth 64) ∧ gives (.mfsp d 0 0x34) s d (x.period.setWidth 64) ∧
    gives (.mfsp d 0 0x35) s d (x.round ++ x.head ++ x.left ++ 0#8 ++ BitVec.ofBool x.best ++ BitVec.ofBool x.wsrc ++
      match x.mode with | .off => 0#2 | .live => 1#2 | .dryRun => 2#2 | .commit => 3#2) ∧
    (if g.spilled = false ∧ low ≤ 8192 ∧ low % 64 = 0 then
        turnsInto (.mtsp a 0 0x28) s (s.mapGrp fun g => { g with logArea := v &&& 0xFFFF3FFF })
      else traps (.mtsp a 0 0x28) s 0x03 v) ∧
    (if g.spilled = false ∧ 0x1000000 ≤ page ∧ page < 0x9000000 then
        turnsInto (.mtsp a 0 0x29) s (s.mapGrp fun g => { g with logOvf := (v.extractLsb' 12 40).setWidth 64 <<< 12 })
      else traps (.mtsp a 0 0x29) s 0x03 v) ∧
    (if g.spilled = false ∧ half ≤ 2 ^ 30 ∧ half % 4096 = 0 then
        turnsInto (.mtsp a 0 0x2A) s (s.mapGrp fun g => { g with logLim := (v.extractLsb' 0 32).setWidth 64 })
      else traps (.mtsp a 0 0x2A) s 0x03 v) ∧
    (if s.k = 3 ∧ g.sysact = true then
        ∃ t, completes (.mtsp a 0 0x2B) s (s.mapGrp fun g => { g with spillOvf := v &&& 0xFFFFFFFFF8000 }) t [] ∧ ∀ p, t.mem.read p = s.mem.read p
      else traps (.mtsp a 0 0x2B) s 0x03 v) ∧
    waiting 0x30 ∧ waiting 0x31 ∧ waiting 0x32 ∧ waiting 0x33 ∧
    (if 65536 ≤ half ∧ half ≤ 2 ^ 31 then waiting 0x34 else traps (.mtsp a 0 0x34) s 0x03 v) ∧
    (if v.extractLsb' 0 2 ≠ 3 then waiting 0x35 else traps (.mtsp a 0 0x35) s 0x03 v)

/-- R335: a trap stops its slot, which keeps its registers and levels, saves the place, the cause and the value, and starts
slot 3 at the trap entry with g2 to g4 set, when slot 3 is idle, no system activation has begun and no older trap waits.
R335, R337 and R345: a trap while slot 3 runs, or while a system activation has begun, waits in the order of the traps; a trap in slot 3, or one with no enabled
trap entry, kills the group, with the code of the kill in its record. -/
def Obligations.TrapsStartSlotThreeQueueOrKill : Prop :=
  (∀ (s : State) (k : SlotId) (cause : Word) (pc : CodeAddr) (v : Word), k ≠ 3 → (s.grp.slot 3).active = false →
    s.grp.sysact = false → s.grp.trapQueue = [] → (s.grp.handler 0xF1).testBit 31 = true →
    let t := s.takeTrap k cause pc v; let old := s.grp.slot k; let new := t.grp.slot k; let h := t.grp.slot 3
    (new.susp = true ∧ new.trapPc = pc ∧ new.trapCause = cause ∧ new.trapVal = v ∧ new.active = old.active ∧
      new.pc = old.pc ∧ new.levels = old.levels ∧ ∀ r, new.get r = old.get r) ∧
    (h.active = true ∧ h.pc = BitVec.ofNat 24 (s.grp.handler 0xF1) ∧ h.get 2 = cause ∧ h.get 3 = v ∧ h.get 4 = k.setWidth 64 ∧
      h.levels = [] ∧ ∀ r, r ≠ 2 → r ≠ 3 → r ≠ 4 → h.get r = 0) ∧
    t.grp.trapact = true ∧ t.grp.trapSlot = k ∧ t.grp.trapQueue = [] ∧
    (∀ j, j ≠ k → j ≠ 3 → t.grp.slot j = s.grp.slot j) ∧ memory s t ∧
    t.grp.tile = s.grp.tile ∧ t.grp.m = s.grp.m ∧ t.grp.fflags = s.grp.fflags ∧ t.grp.fe = s.grp.fe ∧ t.others = s.others) ∧
  ∀ (s : State) (k : SlotId) (cause : Word) (pc : CodeAddr) (v : Word), s.grp.twin = none →
    (k ≠ 3 → ((s.grp.slot 3).active = true ∨ s.grp.sysact = true) →
      (s.takeTrap k cause pc v).grp.trapQueue = s.grp.trapQueue ++ [k] ∧ ((s.takeTrap k cause pc v).grp.slot k).susp = true ∧
      (s.takeTrap k cause pc v).grp.slot 3 = s.grp.slot 3) ∧
    (k = 3 → let t := s.takeTrap k cause pc v
      t.grp.ended = true ∧ t.grp.sealed = true ∧ (∀ j, (t.grp.slot j).active = false)) ∧
    (k ≠ 3 → (s.grp.slot 3).active = false → s.grp.sysact = false → s.grp.trapQueue = [] → (s.grp.handler 0xF1).testBit 31 = false →
      let t := s.takeTrap k cause pc v
      t.grp.ended = true ∧ t.grp.sealed = true ∧ ∀ j, (t.grp.slot j).active = false)

/-- R343: TRAP n takes its own trap, which resumes at the next word, once what the slot issued before has completed; in slot 3 it
kills the group.
R344: ERET in a trap activation resumes the trapped slot at TRAPPC with its registers, its loop levels and a wait count of
zero, and makes slot 3 idle; in a system activation it ends that. Which trap an ERET outside slot 3 takes, and that it ends a system
activation, are the model's readings (log 47, 38). -/
def Obligations.TrapInstructionAndReturn : Prop :=
  (∀ (s : State) (n : BitVec 5),
    ((∃ x ∈ s.core.tags, x.slot = s.k) → waits (.trap n) s) ∧
    ((∀ x ∈ s.core.tags, x.slot ≠ s.k) →
      ∃ t, exec (.trap n) s = .next t ∧ t = s.retireNow.takeTrap s.k 0x0D (s.slot.pc + 1) (n.setWidth 64) ∧
        (s.k ≠ 3 → (s.grp.slot 3).active = true → t.slot.susp = true ∧ t.slot.trapPc = s.slot.pc + 1 ∧ t.slot.trapCause = 0x0D ∧
          t.slot.trapVal = n.setWidth 64 ∧ ∀ r, t.getG r = s.getG r) ∧
        (s.k = 3 → s.grp.twin = none → t.grp.ended = true ∧ t.grp.sealed = true ∧ ∀ j, (t.grp.slot j).active = false))) ∧
  ∀ (s : State), s.k = 3 → (∀ x ∈ s.core.tags, x.slot ≠ 3) →
    (s.grp.trapact = true → s.grp.trapSlot ≠ 3 →
      ∃ t, exec .eret s = .next t ∧ t.grp.trapact = false ∧ (t.grp.slot 3).active = false ∧ (∀ r, t.getG r = 0) ∧ t.slot.levels = [] ∧
        (let old := s.grp.slot s.grp.trapSlot; let new := t.grp.slot s.grp.trapSlot
         new.susp = false ∧ new.pc = old.trapPc ∧ new.wait = 0 ∧ new.levels = old.levels ∧ new.active = old.active ∧
           ∀ r, new.get r = old.get r) ∧
        (∀ j, j ≠ 3 → (t.grp.slot j).active = (s.grp.slot j).active) ∧ t.grp.sysact = s.grp.sysact ∧ memory s t ∧
        t.grp.instret = s.grp.instret + 1 ∧ t.grp.inFlight = s.grp.inFlight) ∧
    (s.grp.trapact = false → s.grp.sysact = true →
      ∃ t, exec .eret s = .next t ∧ t.grp.sysact = false ∧ (t.grp.slot 3).active = false ∧ memory s t ∧
        ∀ j, j ≠ 3 → (t.grp.slot j).wait = 0 ∧ (t.grp.slot j).latch = true ∧ (t.grp.slot j).pc = (s.grp.slot j).pc ∧
          ∀ r, (t.grp.slot j).get r = (s.grp.slot j).get r) ∧
    (s.grp.trapact = false → s.grp.sysact = false → s.privileged = true → traps .eret s 0x03 (s.ir.setWidth 64))

/-- R350: KILL, SEAL and UNSEAL at system level act on the name in g[a] and then wait for the confirmation; below system
level they take the privileged-instruction trap, and at system level the illegal-operand trap for a bit they do not read; a name that is
not issued, or released, leaves them with no effect. KILL ends the group or, with its restart bit, leaves it stopped; where the group is
on another core or saved, it waits for the confirmation there.
R229, R351, R352 and R353: the other privileged instructions, at system level; below it they trap. That the effect comes at issue, and
the slot then waits, is the model's reading (log 53); that an ANRUN starts the count of phases again also while a commit runs (log 99),
and that ANCFG clears round and head at once also inside a round (log 111), are its choices. -/
def Obligations.PrivilegedInstructionsActOrTrap : Prop :=
  (∀ (s : State) (a : GReg), let w := s.getG a; let n : Name := w.setWidth 40
    (s.systemLevel = false → traps (.kill a) s 0x02 (s.ir.setWidth 64) ∧ traps (.seal a) s 0x02 (s.ir.setWidth 64) ∧
      traps (.unseal a) s 0x02 (s.ir.setWidth 64)) ∧
    (s.systemLevel = true → s.slot.progress ≠ .sealing → let restart := w.getLsbD 63
      -- the instruction has its effect at issue, and waits for its confirmation
      let waiting (i : Instr) (t : State) : Prop := exec i s = .next t ∧ t.stalled = true ∧ t.slot.progress = .sealing ∧ t.slot.pc = s.slot.pc ∧
        ∀ r, t.getG r = s.getG r
      let killed (t : State) : Prop := ∃ e, t.dirEntry n = some e ∧ e.sealed = true ∧ e.ended = !restart
      (w.extractLsb' 40 23 ≠ 0 → traps (.kill a) s 0x03 w) ∧
      (w.extractLsb' 40 24 ≠ 0 → traps (.seal a) s 0x03 w ∧ traps (.unseal a) s 0x03 w) ∧
      (s.dirEntry n = none ∨ (∃ e, s.dirEntry n = some e ∧ e.residence = .released) →
        (w.extractLsb' 40 23 = 0 → turnsInto (.kill a) s s) ∧ (w.extractLsb' 40 24 = 0 → turnsInto (.seal a) s s ∧ turnsInto (.unseal a) s s)) ∧
      (∀ e, w.extractLsb' 40 24 = 0 → s.dirEntry n = some e → e.residence ≠ .released →
        (e.sealed = true → turnsInto (.seal a) s s) ∧
        (e.sealed = false → turnsInto (.unseal a) s s ∧
          ∃ t, waiting (.seal a) t ∧ (∀ x ∈ t.directory, x.name = n → x.sealed = true) ∧ memory s t) ∧
        (e.sealed = true → e.ended = true → turnsInto (.unseal a) s s) ∧
        (e.sealed = true → e.ended = false → s.isKilled n = false →
          ∃ t, exec (.unseal a) s = .next t ∧ (∀ x ∈ t.directory, x.name = n → x.sealed = false))) ∧
      ∀ e, w.extractLsb' 40 23 = 0 → s.dirEntry n = some e → e.residence ≠ .released →
        (s.isKilled n = true → turnsInto (.kill a) s s) ∧
        (s.isKilled n = false → s.isHere n = true → s.grp.twin = none →
          ∃ t, exec (.kill a) s = .next t ∧ killed t ∧ t.grp.sealed = true ∧ t.grp.stopped = true ∧
            (restart = false → t.grp.ended = true ∧ ∀ j, (t.grp.slot j).active = false) ∧
            (restart = true → t.grp.ended = s.grp.ended ∧ ∀ j, (t.grp.slot j).active = (s.grp.slot j).active ∧ (t.grp.slot j).pc = (s.grp.slot j).pc)) ∧
        (∀ c, Safety.apart (s.cores.map (·.at_)) = true → s.isKilled n = false → s.isHere n = false → s.holder n = some c → c.grp.twin = none → c.swap = none →
          ∃ t y, waiting (.kill a) t ∧ killed t ∧ t.coreAt c.at_ = some y ∧ y.grp.sealed = true ∧ y.grp.stopped = true ∧
            y.grp.ended = (!restart || c.grp.ended)) ∧
        (∀ x, s.isKilled n = false → s.isHere n = false → s.holder n = none → s.frames.find? (fun x => x.name = n) = some x →
          ∃ t y, waiting (.kill a) t ∧ killed t ∧ t.frames.find? (fun x => x.name = n) = some y ∧ y.grp.sealed = true ∧ y.grp.stopped = true ∧
            y.grp.ended = !restart))) ∧
  ∀ (s : State) (d a b : GReg), let w := s.getG a; let v := s.getG b
    (s.systemLevel = false →
      traps (.tlbw a b) s 0x02 (s.ir.setWidth 64) ∧ traps (.ancfg a b) s 0x02 (s.ir.setWidth 64) ∧
      traps (.anrun a) s 0x02 (s.ir.setWidth 64) ∧ traps (.anread d a) s 0x02 (s.ir.setWidth 64) ∧
      traps (.sleepc a) s 0x02 (s.ir.setWidth 64)) ∧
    (s.systemLevel = true →
      (w.extractLsb' 48 16 = 0 → leafValid v = true → leafOnes v ≤ 20 → v.extractLsb' 52 8 = 0 → v.extractLsb' 0 11 = 0 →
        ∃ t, exec (.tlbw a b) s = .next t ∧ done (.tlbw a b) s t ∧ memory s t ∧
          (t.core.tlb.head?).map (·.leaf) = some v ∧ (∀ x : Word, x.toNat / 2 ^ leafSize v = w.toNat / 2 ^ leafSize v →
            (t.core.tlbFind x.toNat).map (·.leaf) = some v)) ∧
      (w = 0 → v = 0 → turnsInto (.ancfg a b) s (s.mapAnn fun a => { a with round := 0, head := 0, best := false, reloadTemp := true })) ∧
      (w &&& ~~~(0xFFFF3F01 : Word) = 0 → w.extractLsb' 0 1 = 1 → v.extractLsb' 40 24 = 0 →
        turnsInto (.ancfg a b) s (s.mapAnn fun x => { x with reloadTemp := true, pendingWeights :=
          x.pendingWeights ++ [(v.extractLsb' 0 40, (w.extractLsb' 8 6).toNat, (w.extractLsb' 16 16).toNat)] })) ∧
      (w = 0 → s.slot.progress ≠ .committing → s.ann.best = true →
        turnsInto (.anrun a) s (s.mapAnn fun a => { a with mode := .commit, phases := 0 })) ∧
      (w = 1 → s.slot.progress ≠ .committing → s.ann.best = false → turnsInto (.anrun a) s s) ∧
      (w.extractLsb' 10 54 = 0 →
        gives (.anread d a) s d (((s.ann.ring[w.toNat % 256]?).getD 0).extractLsb' (64 * (w.toNat / 256)) 64)) ∧
      ∃ t, exec (.sleepc a) s = .next t ∧ t.core.asleep = some w ∧ t.slot.progress = .sleeping false ∧ memory s t ∧
        ∀ r, t.getG r = s.getG r)

/-! ## Messages, holds and queues -/

/-- R189 and R190: a descriptor without rs whose checks pass sends a class-0 message; a channel's message is sequenced with
its txseq, which advances. SENDR also reserves the lowest free mailbox entry for the reply and gives its address.
R190 and R337: with no free injection entry, and a SENDR with no free mailbox entry, a send with qt = 1 traps with the send-queue-full
code and its descriptor, and one with qt = 0 waits. That the payload is read as it stands also over a damaged word is the model's choice
(log 70). -/
def Obligations.SendsTakeAnEntryTrapOrWait : Prop :=
  (∀ (s : State) (d a b : GReg) (dest : Name) (c : Option (BitVec 6)), let w := s.getG a; let p := s.getG b
    let n := (p.extractLsb' 16 8).toNat; let x := (p.extractLsb' 0 16).toNat
    let m : Msg := { (Msg.plain dest s.grp.name (w.extractLsb' 40 8) 0 (s.localBytes x n)) with
      chan := w.extractLsb' 54 6, rel := w.getLsbD 61, seqd := c.isSome, seq := match c with | some c => BitVec.ofNat 16 (s.grp.chan c).txseq | none => 0 }
    w.getLsbD 63 = false → w.extractLsb' 48 6 = 0 → p.extractLsb' 24 40 = 0 → n ≤ 128 → (w.extractLsb' 40 8).toNat < 0xF0 →
    s.target w 0 = some (dest, c) → (n ≠ 0 → s.grp.checkLocal false x n 1 0 = none) → s.grp.injFree .request = true →
    (∃ t, injects (.send a b) s t .request m ∧ slots s t [] ∧ t.grp.mbox = s.grp.mbox ∧
      (∀ c', c = some c' → (t.grp.chan c').txseq = ((s.grp.chan c').txseq + 1) % 2 ^ 16) ∧ (c = none → t.grp.well = s.grp.well)) ∧
    ∀ i, s.grp.freeMbox = some i →
      ∃ t, injects (.sendr d a b) s t .request { m with rslot := BitVec.ofNat 8 i } ∧ slots s t [d] ∧
        t.getG d = (if d = 0 then 0 else BitVec.ofNat 64 (0x800 + 160 * i)) ∧ t.grp.mbox[i]? = some (.reserved dest) ∧
        (∀ j, j ≠ i → t.grp.mbox[j]? = s.grp.mbox[j]?)) ∧
  ∀ (s : State) (d a b : GReg) (dest : Name) (c : Option (BitVec 6)), let w := s.getG a; let p := s.getG b
    let n := (p.extractLsb' 16 8).toNat; let x := (p.extractLsb' 0 16).toNat
    let full (i : Instr) : Prop := if w.getLsbD 62 then traps i s 0x0A w else waits i s
    w.getLsbD 63 = false → w.extractLsb' 48 6 = 0 → p.extractLsb' 24 40 = 0 → n ≤ 128 → (w.extractLsb' 40 8).toNat < 0xF0 →
    s.target w 0 = some (dest, c) → (n ≠ 0 → s.grp.checkLocal false x n 1 0 = none) →
    (s.grp.injFree .request = false → full (.send a b) ∧ full (.sendr d a b)) ∧ (s.grp.freeMbox = none → full (.sendr d a b))

/-- R192 and R193: a resent notice takes its original type back and is not sequenced again; it takes an entry of its image's class, and
with an rslot a new mailbox entry for its reply, and traps or waits where one is missing. A reply goes to the source and the entry that
its request names, and waits for an entry. That a resend with rel = 0 keeps the image's tail (log 104), and that payloads are read as
they stand also over a damaged word (log 70), are the model's choices. -/
def Obligations.NoticesAreResentAndRepliesAnswer : Prop :=
  ∀ (s : State) (d a b : GReg), let w := s.getG a; let p := s.getG b
    (let x := (p.extractLsb' 0 16).toNat
     let m := Msg.ofImage (leNat (s.localBytes x 32)) (s.localBytes (x + 32) 128)
     w &&& ~~~(3#64 <<< 62) = 0 → p.extractLsb' 16 48 = 0 → x % 32 = 0 → x + 160 ≤ 0x8000 → s.grp.checkLocal false x 160 1 p = none →
     (m.mtype = 0xFD ∨ m.mtype = 0xFF) → m.source = s.grp.name → (m.cls = 0 ∨ m.cls = 2 ∨ m.cls = 3) → m.len ≤ 128 →
     let kind : InjKind := if m.cls = 3 then .register else .request
     let sent : Msg := { m with mtype := m.otype, otype := 0, fwd := 0 }
     (w.getLsbD 63 = true → exec (.send a b) s = exec (.noticeResend false d a b) s ∧ exec (.sendr d a b) s = exec (.noticeResend true d a b) s) ∧
     ∀ isSendr : Bool, let i : Instr := .noticeResend isSendr d a b
       (s.grp.injFree kind = true → m.rslot = 0xFF → ∃ t, injects i s t kind sent ∧ slots s t [] ∧ memory s t ∧ t.grp.mbox = s.grp.mbox) ∧
       (∀ e, s.grp.injFree kind = true → m.rslot ≠ 0xFF → s.grp.freeMbox = some e →
         ∃ t, injects i s t kind { sent with rslot := BitVec.ofNat 8 e } ∧ slots s t (if isSendr then [d] else []) ∧ memory s t ∧
           (isSendr = true → t.getG d = (if d = 0 then 0 else BitVec.ofNat 64 (0x800 + 160 * e))) ∧
           t.grp.mbox[e]? = some (.reserved m.dest) ∧ ∀ j, j ≠ e → t.grp.mbox[j]? = s.grp.mbox[j]?) ∧
       (s.grp.injFree kind = false ∨ (m.rslot ≠ 0xFF ∧ s.grp.freeMbox = none) →
         if w.getLsbD 62 then traps i s 0x0A w else waits i s)) ∧
    let x := (w.extractLsb' 0 16).toNat; let i := (x - 0x800) / 160; let h := Msg.ofImage (s.grp.well.nat x 32) []
    let n := (p.extractLsb' 16 8).toNat
    w.extractLsb' 25 39 = 0 → p.extractLsb' 24 40 = 0 → (w.extractLsb' 16 8).toNat < 0xF0 → n ≤ 128 → x = 0x800 + 160 * i →
    s.grp.mbox[i]? = some .running → s.slot.entry = some i → h.rslot ≠ 0xFF →
    (n ≠ 0 → s.grp.checkLocal false (p.extractLsb' 0 16).toNat n 1 0 = none) →
    (s.grp.injFree .reply = true → ∃ t, injects (.reply a b) s t .reply
      { (Msg.plain h.source s.grp.name (w.extractLsb' 16 8) 1 (s.localBytes (p.extractLsb' 0 16).toNat n)) with
        rslot := h.rslot, rel := w.getLsbD 24 } ∧ slots s t [] ∧ memory s t ∧ t.grp.mbox = s.grp.mbox) ∧
    (s.grp.injFree .reply = false → waits (.reply a b) s)

/-- R194 and R195: a register write takes a register-write entry with the row's bytes, once its row is ready, and traps or waits where no
entry is free; VHOLD sets one hold bit once its row is not busy and is not still to be written. -/
def Obligations.RegisterWritesAndHolds : Prop :=
  ∀ (s : State) (v : VReg) (a : GReg) (dest : Name) (c : Option (BitVec 6)), let w := s.getG a
    (w.getLsbD 63 = false → w.getLsbD 61 = false → w.extractLsb' 45 9 = 0 → s.target w 2 = some (dest, c) → s.rowFree v = true →
      s.grp.injFree .register = true →
      let m (rel : Bool) : Msg := { (Msg.plain dest s.grp.name 0 3 ((List.range 128).map fun j => (s.grp.row v).extractLsb' (8 * j) 8)) with
        chan := w.extractLsb' 54 6, rel := rel, row := w.extractLsb' 40 5, seqd := c.isSome,
        seq := match c with | some c => BitVec.ofNat 16 (s.grp.chan c).txseq | none => 0 }
      (∃ t, injects (.vput v a) s t .register (m false) ∧ slots s t [] ∧ t.grp.tile = s.grp.tile) ∧
      (∃ t, injects (.vputr v a) s t .register (m true) ∧ slots s t [] ∧ t.grp.tile = s.grp.tile)) ∧
    (w.getLsbD 63 = false → w.getLsbD 61 = false → w.extractLsb' 45 9 = 0 → s.target w 2 = some (dest, c) →
      (s.rowFree v = false → waits (.vput v a) s ∧ waits (.vputr v a) s) ∧
      (s.rowFree v = true → s.grp.injFree .register = false → if w.getLsbD 62 then traps (.vput v a) s 0x0A w ∧ traps (.vputr v a) s 0x0A w
        else waits (.vput v a) s ∧ waits (.vputr v a) s)) ∧
    (s.grp.busy.getLsbD v.toNat = true ∨ (∃ t ∈ s.core.tags, t.dest = .v v) → waits (.vhold v) s) ∧
    (s.grp.busy.getLsbD v.toNat = false → (∀ t ∈ s.core.tags, t.dest ≠ .v v) →
      ∃ t, completes (.vhold v) s (s.mapGrp fun g => { g with hold := g.hold ||| (1#32 <<< v.toNat) }) t [] ∧ memory s t ∧
        ∀ r : VReg, t.grp.hold.getLsbD r.toNat = (s.grp.hold.getLsbD r.toNat || decide (r = v)))

/-- R176, R177 and R196: the queue instructions on a bound queue; an unbound one, or one of the wrong direction, traps with its
number.
R197 and R198: CHOPEN writes a closed entry and binds a stream's queue; CHCLOSE clears an open entry that no message
uses, and waits for one that does; that it completes at a closed entry, whatever entries are still sequenced there, is the model's
choice (log 103). -/
def Obligations.QueueAndChannelInstructions : Prop :=
  (∀ (s : State) (d a : GReg) (q : BitVec 5), let k : BitVec 3 := q.extractLsb' 0 3; let v := s.grp.queue k
    (4 ≤ q.toNat → q.toNat < 8 → v.bound = true →
      (v.words.length < 32 →
        turnsInto (.qput q a) s (s.mapGrp fun g => g.setQueue k { v with words := v.words ++ [s.getG a] })) ∧
      (32 ≤ v.words.length → waits (.qput q a) s) ∧
      (v.words = [] → turnsInto (.qflush q) s s) ∧ (v.words ≠ [] → waits (.qflush q) s)) ∧
    (q.toNat < 4 → v.bound = true →
      (∀ x rest, v.words = x :: rest →
        ∃ t, exec (.qget d q) s = .next t ∧ done (.qget d q) s t ∧ slots s t [d] ∧ t.getG d = (if d = 0 then 0 else x) ∧
          (t.grp.queue k).words = rest ∧ (∀ j, j ≠ k → t.grp.queue j = s.grp.queue j) ∧ memory s t) ∧
      (v.words = [] → waits (.qget d q) s)) ∧
    (q.toNat < 8 → gives (.qcnt d q) s d (if v.bound then BitVec.ofNat 64 v.words.length else 0)) ∧
    (8 ≤ q.toNat → traps (.qcnt d q) s 0x03 (q.setWidth 64)) ∧
    ((q.toNat < 4 ∨ 8 ≤ q.toNat ∨ v.bound = false) → traps (.qput q a) s 0x03 (q.setWidth 64) ∧ traps (.qflush q) s 0x03 (q.setWidth 64)) ∧
    ((4 ≤ q.toNat ∨ v.bound = false) → traps (.qget d q) s 0x03 (q.setWidth 64))) ∧
  ∀ (s : State) (a b : GReg), let w := s.getG a; let p := s.getG b
    let c : BitVec 6 := w.extractLsb' 0 6; let kind := (w.extractLsb' 6 2).toNat; let q : BitVec 3 := w.extractLsb' 8 3
    let weight := (w.extractLsb' 11 4).toNat
    (w.extractLsb' 15 49 = 0 → p.extractLsb' 40 24 = 0 → kind ≠ 3 → weight ≠ 0 → (s.grp.chan c).isOpen = false →
      (kind ≠ 1 → q = 0) → (kind = 1 → (s.grp.queue q).bound = false) →
      ∃ t, exec (.chopen a b) s = .next t ∧ done (.chopen a b) s t ∧ slots s t [] ∧
        (let e := t.grp.chan c
         e.isOpen = true ∧ e.kind = kind ∧ e.weight = weight ∧ e.queue = q.toNat ∧ e.txseq = 0 ∧ e.rxseq = 0 ∧
           e.credits = (if kind = 1 ∧ 4 ≤ q.toNat then 32 else 0) ∧ e.peer = p.extractLsb' 0 40) ∧
        (∀ j, j ≠ c → t.grp.chan j = s.grp.chan j) ∧
        (kind = 1 → (t.grp.queue q).bound = true ∧ (t.grp.queue q).chan = c ∧ (t.grp.queue q).words = []) ∧
        (∀ j, kind ≠ 1 ∨ j ≠ q → t.grp.queue j = s.grp.queue j) ∧
        ∀ x, x < 16 * c.toNat ∨ 16 * c.toNat + 16 ≤ x → t.grp.well.read x = s.grp.well.read x) ∧
    (w.extractLsb' 6 58 = 0 →
      ((s.grp.chan c).isOpen = false → turnsInto (.chclose a) s s) ∧
      ((s.grp.chan c).isOpen = true → (∃ x ∈ s.grp.inj, x.msg.seqd = true ∧ x.msg.chan = c) → waits (.chclose a) s) ∧
      ((s.grp.chan c).isOpen = true → (∀ x ∈ s.grp.inj, x.msg.seqd = false ∨ x.msg.chan ≠ c) →
        let e := s.grp.chan c; let k := BitVec.ofNat 3 e.queue
        (e.kind = 1 → 4 ≤ e.queue → (s.grp.queue k).words = []) →
        ∃ t, exec (.chclose a) s = .next t ∧ done (.chclose a) s t ∧ slots s t [] ∧
          (t.grp.chan c).isOpen = false ∧ (∀ x, 16 * c.toNat ≤ x → x < 16 * c.toNat + 16 → t.grp.well.read x = 0) ∧
          (∀ x, x < 16 * c.toNat ∨ 16 * c.toNat + 16 ≤ x → t.grp.well.read x = s.grp.well.read x) ∧
          (∀ j, j ≠ c → t.grp.chan j = s.grp.chan j) ∧ (∀ j, e.kind ≠ 1 ∨ j ≠ k → t.grp.queue j = s.grp.queue j) ∧
          (e.kind = 1 → (t.grp.queue k).bound = false ∧ (t.grp.queue k).words = []) ∧
          t.grp.reorder = s.grp.reorder.filter (fun m => decide (m.chan ≠ c))))

/-- R199 to R202: the class mask, names, the position and the anchor. -/
def Obligations.MasksNamesPositionsAndAnchors : Prop :=
  ∀ (s : State) (d a : GReg), let w := s.getG a
    (w.extractLsb' 8 56 = 0 →
      turnsInto (.maskc a) s (s.mapGrp fun g => { g with classMask := g.classMask ||| w.extractLsb' 0 8 }) ∧
      turnsInto (.unmaskc a) s (s.mapGrp fun g => { g with classMask := g.classMask &&& ~~~(w.extractLsb' 0 8) })) ∧
    (w.extractLsb' 8 56 ≠ 0 → traps (.maskc a) s 0x03 w ∧ traps (.unmaskc a) s 0x03 w) ∧
    gives (.pos d) s d s.grp.posn ∧
    turnsInto .anchor s (s.mapGrp fun g => { g with anchored := true }) ∧
    turnsInto .unanch s (s.mapGrp fun g => { g with anchored := false }) ∧
    ∀ l, s.launch? = some l →
      (w.toNat < l.groups → ∃ v : Word, gives (.lname d a) s d v ∧
        v.toNat = ((s.grp.self.toNat / 2 ^ 28 % 2 ^ 12) * 2 ^ 28 + (l.base + w.toNat) * 2 ^ 8 + l.gen.toNat) % 2 ^ 64) ∧
      (l.groups ≤ w.toNat → traps (.lname d a) s 0x03 w)

/-- R203: BARA arrives once its log is released, and waits until then; BARW completes with an acquire once the whole unit has arrived; BAR does
both; a level that the launch does not declare traps, with the instruction word in TRAPVAL by the model's reading (log 43). -/
def Obligations.BarriersArriveAndWait : Prop :=
  ∀ (s : State) (n : BitVec 5),
    (s.level? n = none → traps (.bar n) s 0x03 (s.ir.setWidth 64) ∧ traps (.bara n) s 0x03 (s.ir.setWidth 64) ∧
      traps (.barw n) s 0x03 (s.ir.setWidth 64)) ∧
    ∀ l, s.level? n = some l → let scope : Scope := if l.fence = 1 then .pod else .device
      (s.slot.progress = .none → s.grp.released scope s.grp.logTail = true →
        turnsInto (.bara n) s (s.mapGrp fun g => (g.publish s.grp.logTail).addArrival n) ∧
        ((s.mapGrp fun g => (g.publish s.grp.logTail).addArrival n).unitArrived n = true →
          ∃ t, exec (.bar n) s = .next t ∧ done (.bar n) s t ∧ slots s t [] ∧ memory s t ∧ t.core.view = [] ∧
            t.grp.arrived n = s.grp.arrived n + 1) ∧
        ((s.mapGrp fun g => (g.publish s.grp.logTail).addArrival n).unitArrived n = false →
          ∃ t, exec (.bar n) s = .next t ∧ t.stalled = true ∧ t.slot.progress = .arrived n.toNat ∧ t.slot.pc = s.slot.pc ∧
            t.grp.arrived n = s.grp.arrived n + 1)) ∧
      (s.slot.progress = .none → s.grp.released scope s.grp.logTail = false → ∀ i, i = .bara n ∨ i = .bar n →
        ∃ t, exec i s = .next t ∧ t.stalled = true ∧ t.slot.progress = .arriving n.toNat s.grp.logTail ∧ t.slot.pc = s.slot.pc ∧
          t.grp.arrive = s.grp.arrive ∧ memory s t ∧ ∀ r, t.getG r = s.getG r) ∧
      (s.unitArrived n = true →
        ∃ t, exec (.barw n) s = .next t ∧ done (.barw n) s t ∧ slots s t [] ∧ memory s t ∧ t.core.view = [] ∧ t.grp.arrive = s.grp.arrive) ∧
      (s.unitArrived n = false → ∃ t, exec (.barw n) s = .next t ∧ t.stalled = true ∧ t.slot.pc = s.slot.pc)

/-! ## Vector instructions -/

/-- R123, R124 and R128: the floating-point lane operations, on every lane that the mask enables; the patterned operand comes
from vb, or from the 16 oldest words of a queue. R122 and R125: where an operand cannot be read they wait, or trap. -/
def Obligations.FloatingLanesTakeTheRoundedResults : Prop :=
  ∀ (s : State) (t : FType) (d a b : VReg) (m : MReg) (p : Pat), let w := ftypeWidth t; let f := ftypeFmt t; let n := laneCount w
    let on := laneOn w (s.grp.mask m); let u := sourceRead s p b
    let x := lane w (s.grp.row a); let y := sourceLane s w p b; let z := lane w (s.grp.row d)
    (∀ i ∈ [Instr.vaddF t d a b m p, .vsubF t d a b m p, .vmulF t d a b m p, .vdiv t d a b m p, .vminF t d a b m p, .vmaxF t d a b m p,
      .vfma t d a b m p, .vfms t d a b m p, .vfnma t d a b m p], sourceHolds i s p b [d, a]) ∧
    (∀ i ∈ [Instr.vsqrt t d b m p, .vabsF t d b m p, .vnegF t d b m p], sourceHolds i s p b [d]) ∧
    (sourceReady s p b [d, a] →
      lanesTake (.vaddF t d a b m p) s u w n d on (fun l => f.binop .add s.rmode (x l) (y l)) ∧
      lanesTake (.vsubF t d a b m p) s u w n d on (fun l => f.binop .sub s.rmode (x l) (y l)) ∧
      lanesTake (.vmulF t d a b m p) s u w n d on (fun l => f.binop .mul s.rmode (x l) (y l)) ∧
      lanesTake (.vdiv t d a b m p) s u w n d on (fun l => f.binop .div s.rmode (x l) (y l)) ∧
      lanesTake (.vminF t d a b m p) s u w n d on (fun l => f.minMax false (x l) (y l)) ∧
      lanesTake (.vmaxF t d a b m p) s u w n d on (fun l => f.minMax true (x l) (y l)) ∧
      lanesTake (.vfma t d a b m p) s u w n d on (fun l => f.fused .fma s.rmode (x l) (y l) (z l)) ∧
      lanesTake (.vfms t d a b m p) s u w n d on (fun l => f.fused .fms s.rmode (x l) (y l) (z l)) ∧
      lanesTake (.vfnma t d a b m p) s u w n d on (fun l => f.fused .fnma s.rmode (x l) (y l) (z l))) ∧
    (sourceReady s p b [d] →
      lanesTake (.vsqrt t d b m p) s u w n d on (fun l => f.sqrt s.rmode (f.unpack (y l))) ∧
      lanesBecome (.vabsF t d b m p) s u w n d on (fun l => y l % 2 ^ (w - 1)) ∧
      lanesBecome (.vnegF t d b m p) s u w n d on (fun l => y l + 2 ^ (w - 1)))

/-- R129 and R130: the integer lane operations wrap, compare as signed numbers and raise no flag; shift amounts are the low
bits of the patterned lane. R122 and R125: where an operand cannot be read they wait, or trap. -/
def Obligations.IntegerLanesWrapAndShift : Prop :=
  ∀ (s : State) (t : IType) (v : Width) (d a b : VReg) (m : MReg) (p : Pat), let w := itypeWidth t; let n := laneCount w
    let on := laneOn w (s.grp.mask m); let u := sourceRead s p b
    let x := lane w (s.grp.row a); let y := sourceLane s w p b; let si (k : Nat) : Int := laneInt w k
    (∀ i ∈ [Instr.vaddI t d a b m p, .vsubI t d a b m p, .vmulI t d a b m p, .vminI t d a b m p, .vmaxI t d a b m p, .vshl t d a b m p,
      .vshr t d a b m p, .vsra t d a b m p, .vand v d a b m p, .vor v d a b m p, .vxor v d a b m p], sourceHolds i s p b [d, a]) ∧
    (∀ i ∈ [Instr.vabsI t d b m p, .vnegI t d b m p], sourceHolds i s p b [d]) ∧
    (sourceReady s p b [d, a] →
      lanesBecome (.vaddI t d a b m p) s u w n d on (fun l => x l + y l) ∧
      lanesBecome (.vsubI t d a b m p) s u w n d on (fun l => x l + (2 ^ w - y l)) ∧
      lanesBecome (.vmulI t d a b m p) s u w n d on (fun l => x l * y l) ∧
      lanesBecome (.vminI t d a b m p) s u w n d on (fun l => if si (x l) ≤ si (y l) then x l else y l) ∧
      lanesBecome (.vmaxI t d a b m p) s u w n d on (fun l => if si (x l) ≤ si (y l) then y l else x l) ∧
      lanesBecome (.vshl t d a b m p) s u w n d on (fun l => x l * 2 ^ (y l % w)) ∧
      lanesBecome (.vshr t d a b m p) s u w n d on (fun l => x l / 2 ^ (y l % w)) ∧
      lanesBecome (.vsra t d a b m p) s u w n d on (fun l => (si (x l) / 2 ^ (y l % w) % 2 ^ w).toNat)) ∧
    (sourceReady s p b [d] →
      lanesBecome (.vabsI t d b m p) s u w n d on (fun l => if si (y l) < 0 then 2 ^ w - y l else y l) ∧
      lanesBecome (.vnegI t d b m p) s u w n d on (fun l => 2 ^ w - y l)) ∧
    (sourceReady s p b [d, a] → let w := widthBits v; let x := lane w (s.grp.row a); let y := sourceLane s w p b
      let on := laneOn w (s.grp.mask m)
      lanesBecome (.vand v d a b m p) s u w (laneCount w) d on (fun l => x l &&& y l) ∧
      lanesBecome (.vor v d a b m p) s u w (laneCount w) d on (fun l => x l ||| y l) ∧
      lanesBecome (.vxor v d a b m p) s u w (laneCount w) d on (fun l => x l ^^^ y l))

/-- R123 and R131: a compare writes the mask bits that its own mask enables, one for each lane, or for each pair of 8-bit
lanes the AND of the two; a floating compare raises the flags of the enabled lanes. R122 and R125: where an operand cannot be read a
compare waits, or traps.
R18 and R149: the mask instructions; a write to m0 is discarded. -/
def Obligations.ComparesAndMaskInstructionsWriteMasks : Prop :=
  (∀ (s : State) (t : FType) (v : IType) (d : MReg) (a b : VReg) (m : MReg) (p : Pat), ∀ i ∈ [Instr.vceqF t d a b m p, .vcltF t d a b m p,
    .vcleF t d a b m p, .vceqI v d a b m p, .vcltI v d a b m p, .vcleI v d a b m p], sourceHolds i s p b [a]) ∧
  (∀ (s : State) (t : FType) (v : IType) (d : MReg) (a b : VReg) (m : MReg) (p : Pat), sourceReady s p b [a] →
    let sets (i : Instr) (w : Nat) (r : Nat → Bool × Flags) : Prop :=
      ∃ (t : State) (md : Word) (f : Flags),
        completes i s (((sourceRead s p b).mapGrp fun g => g.setMask d md).raiseFlags f) t [] ∧ memory s t ∧
        (∀ j, j < 64 → md.getLsbD j =
          if j < laneCount w ∧ (s.grp.mask m).getLsbD j = true then (if w = 8 then (r (2 * j)).1 && (r (2 * j + 1)).1 else (r j).1)
          else (s.grp.mask d).getLsbD j) ∧
        ∀ j, j < 5 → (f.getLsbD j = true ↔ ∃ l, l < laneCount w ∧ laneOn w (s.grp.mask m) l = true ∧ (r l).2.getLsbD j = true)
    (let w := ftypeWidth t; let x := lane w (s.grp.row a); let y := sourceLane s w p b; let f := ftypeFmt t
     sets (.vceqF t d a b m p) w (fun l => f.compare .eq (x l) (y l)) ∧ sets (.vcltF t d a b m p) w (fun l => f.compare .lt (x l) (y l)) ∧
     sets (.vcleF t d a b m p) w (fun l => f.compare .le (x l) (y l))) ∧
    let w := itypeWidth v; let x (l : Nat) := laneInt w (lane w (s.grp.row a) l); let y (l : Nat) := laneInt w (sourceLane s w p b l)
    sets (.vceqI v d a b m p) w (fun l => (decide (x l = y l), 0)) ∧ sets (.vcltI v d a b m p) w (fun l => (decide (x l < y l), 0)) ∧
    sets (.vcleI v d a b m p) w (fun l => (decide (x l ≤ y l), 0))) ∧
  ∀ (s : State) (d a b : MReg) (x : GReg), let g := s.grp
    let sets (i : Instr) (v : Word) : Prop :=
      ∃ t, exec i s = .next t ∧ done i s t ∧ slots s t [] ∧ memory s t ∧ outside t = outside (s.mapGrp (·.setMask d v)) ∧
        t.grp.mask d = (if d = 0 then BitVec.allOnes 64 else v) ∧ ∀ r, r ≠ d → t.grp.mask r = g.mask r
    sets (.mand d a b) (g.mask a &&& g.mask b) ∧ sets (.mor d a b) (g.mask a ||| g.mask b) ∧
    sets (.mxor d a b) (g.mask a ^^^ g.mask b) ∧ sets (.mnot d a) (~~~g.mask a) ∧ sets (.mfrom d x) (s.getG x) ∧
    gives (.mpopc x a) s x (BitVec.ofNat 64 ((List.range 64).filter fun i => (g.mask a).getLsbD i).length) ∧
    gives (.mto x a) s x (g.mask a)

/-- R134: a reduction takes the enabled lanes in ascending order, the first as it stands, and writes lane 0 whatever the mask
holds; with no lane enabled it writes the identity. R122 and R125: where an operand cannot be read it waits, or traps. -/
def Obligations.ReductionsFoldTheEnabledLanesInOrder : Prop :=
  (∀ (s : State) (t : FType) (v : IType) (d b : VReg) (m : MReg) (p : Pat), ∀ i ∈ [Instr.vrsumF t d b m p, .vrmaxF t d b m p, .vrminF t d b m p,
    .vrsumI v d b m p, .vrmaxI v d b m p, .vrminI v d b m p], sourceHolds i s p b [d]) ∧
  ∀ (s : State) (t : FType) (v : IType) (d b : VReg) (m : MReg) (p : Pat), sourceReady s p b [d] → let u := sourceRead s p b
    let enabled (w : Nat) : List Nat := ((List.range (laneCount w)).filter fun l => laneOn w (s.grp.mask m) l).map (sourceLane s w p b)
    let folds (i : Instr) (w ident : Nat) (f : Nat → Nat → FRes) : Prop :=
      lanesTake i s u w 1 d (fun _ => true) (fun _ =>
        match enabled w with
        | [] => ⟨ident, 0⟩
        | x :: rest => rest.foldl (fun acc y => ⟨(f acc.bits y).bits, acc.flags ||| (f acc.bits y).flags⟩) ⟨x, 0⟩)
    (let w := ftypeWidth t; let f := ftypeFmt t
     folds (.vrsumF t d b m p) w 0 (fun x y => f.binop .add s.rmode x y) ∧
     folds (.vrmaxF t d b m p) w (2 ^ (w - 1) + f.infCode) (fun x y => f.minMax true x y) ∧
     folds (.vrminF t d b m p) w f.infCode (fun x y => f.minMax false x y)) ∧
    let w := itypeWidth v; let l := enabled w
    (lanesBecome (.vrsumI v d b m p) s u w 1 d (fun _ => true) (fun _ => l.foldl (· + ·) 0)) ∧
    (l = [] → lanesBecome (.vrmaxI v d b m p) s u w 1 d (fun _ => true) (fun _ => 2 ^ (w - 1)) ∧
      lanesBecome (.vrminI v d b m p) s u w 1 d (fun _ => true) (fun _ => 2 ^ (w - 1) - 1)) ∧
    (l ≠ [] →
      (∃ x ∈ l, (∀ y ∈ l, laneInt w y ≤ laneInt w x) ∧ lanesBecome (.vrmaxI v d b m p) s u w 1 d (fun _ => true) (fun _ => x)) ∧
      ∃ x ∈ l, (∀ y ∈ l, laneInt w x ≤ laneInt w y) ∧ lanesBecome (.vrminI v d b m p) s u w 1 d (fun _ => true) (fun _ => x))

/-- R50, R132, R133, R136 and R140: selection, moves, broadcasts, single lanes, packing and queue output; a lane index outside
the row takes an illegal-operand trap. The sign that VBCI.f16 gives a NaN is the model's choice (log 101). R122 and R125: where an operand
cannot be read they wait, or trap. -/
def Obligations.MovesBroadcastsAndSingleLanes : Prop :=
  ∀ (s : State) (t : Width) (ty : BType) (d a b : VReg) (e x y : GReg) (m : MReg) (p : Pat) (imm : BitVec 16) (h q : BitVec 5),
    let w := widthBits t; let n := laneCount w; let on := laneOn w (s.grp.mask m); let u := sourceRead s p b
    let all := fun (_ : Nat) => true; let v := sourceLane s w p b; let i := (s.getG x).toNat
    sourceHolds (.vsel t d a b m p) s p b [d, a] ∧ (t ≠ .w32 → sourceHolds (.vpack t d a b m p) s p b [d, a]) ∧
    sourceHolds (.vmov t d b m p) s p b [d] ∧ (t ≠ .w8 → h.toNat ≤ 1 → sourceHolds (.vunpk t d b h m p) s p b [d]) ∧
    sourceHolds (.vext t e b x p) s p b [] ∧
    (4 ≤ q.toNat → q.toNat < 8 → (s.grp.queue (q.extractLsb' 0 3)).bound = true → sourceHolds (.vstq t q b p) s p b []) ∧
    (s.rowFree d = false → waits (.vbc t d x m) s ∧ waits (.vbci ty d m imm) s ∧ waits (.vins t d x y m) s) ∧
    (sourceReady s p b [d, a] →
      lanesBecome (.vsel t d a b m p) s u w n d all (fun l => if on l then lane w (s.grp.row a) l else v l) ∧
      (t ≠ .w32 → lanesBecome (.vpack t d a b m p) s u w n d on (fun l => if l < n / 2 then lane w (s.grp.row a) l else v (l - n / 2)))) ∧
    (sourceReady s p b [d] →
      lanesBecome (.vmov t d b m p) s u w n d on v ∧
      (t ≠ .w8 → h.toNat ≤ 1 → lanesBecome (.vunpk t d b h m p) s u w (n / 2) d on (fun l => v (l + h.toNat * (n / 2))))) ∧
    (s.rowFree d = true →
      lanesBecome (.vbc t d x m) s s w n d on (fun _ => (s.getG x).toNat) ∧
      (let w := btypeWidth ty; lanesBecome (.vbci ty d m imm) s s w (laneCount w) d (laneOn w (s.grp.mask m)) (fun _ => vbciValue ty imm)) ∧
      (i < n → lanesBecome (.vins t d x y m) s s w n d (fun l => decide (l = i) && on l) (fun _ => (s.getG y).toNat)) ∧
      (n ≤ i → traps (.vins t d x y m) s 0x03 (s.getG x))) ∧
    (sourceReady s p b [] →
      (i < n → ∃ t', completes (.vext t e b x p) s u t' [e] ∧ memory s t' ∧ t'.getG e = (if e = 0 then 0 else BitVec.ofNat 64 (v i))) ∧
      (n ≤ i → traps (.vext t e b x p) s 0x03 (s.getG x)) ∧
      let k : BitVec 3 := q.extractLsb' 0 3; let words := (s.grp.queue k).words
      (4 ≤ q.toNat → q.toNat < 8 → (s.grp.queue k).bound = true → words.length ≤ 16 →
        let out : List Word := (List.range 16).map fun j =>
          BitVec.ofNat 64 ((List.range (64 / w)).foldl (fun z c => z + v (64 / w * j + c) * 2 ^ (w * c)) 0)
        turnsInto (.vstq t q b p) s (u.mapGrp fun g => g.setQueue k { (s.grp.queue k) with words := words ++ out })) ∧
      (4 ≤ q.toNat → q.toNat < 8 → (s.grp.queue k).bound = true → 16 < words.length → waits (.vstq t q b p) s) ∧
      (q.toNat < 4 ∨ 8 ≤ q.toNat ∨ (s.grp.queue k).bound = false → traps (.vstq t q b p) s 0x03 (q.setWidth 64)))

/-- R135, R137, R138 and R139: conversions fill the low lanes of vd, and VAMAX folds magnitudes into an amax register. That VQUANT to
e4 and e5 raises OF and UF like another conversion is the model's reading of R53 (log 36). R122, R125 and R320: where an operand, or the
decode table, cannot be read they wait, or trap. -/
def Obligations.ConversionsFillTheLowLanes : Prop :=
  ∀ (s : State) (dst src : VType) (t : FType) (q : QFmt) (k : DFmt) (d a b : VReg) (m : MReg) (p : Pat) (r : BitVec 5),
    (s.rowFree d = false ∨ s.rowFree a = false →
      (vcvtAllowed dst src = true → waits (.vcvt dst src d a m) s) ∧ waits (.vquant q t d a m) s ∧ waits (.vdeq t k d a m) s) ∧
    (s.tablePending = true → waits (.vquant .d8 t d a m) s ∧ waits (.vdeq t .d8 d a m) s) ∧
    (r.toNat ≤ 3 → sourceHolds (.vamax t r b m p) s p b []) ∧
    (s.rowFree d = true → s.rowFree a = true →
    (let wf := vtypeWidth src; let wt := vtypeWidth dst
     vcvtAllowed dst src = true →
       lanesTake (.vcvt dst src d a m) s s wt (min (laneCount wf) (laneCount wt)) d (laneOn wt (s.grp.mask m))
         (fun l => vtypeResult dst (vtypeIsInt src) s.grp.satf8 s.rmode (vtypeValue src (lane wf (s.grp.row a) l)))) ∧
    (let w := ftypeWidth t; let x (l : Nat) := lane w (s.grp.row a) l
     (q = .d8 → s.tablePending = false ∧ s.grp.searchable = true) →
       lanesTake (.vquant q t d a m) s s 8 (laneCount w) d (laneOn 8 (s.grp.mask m)) (fun l =>
         match q with
         | .e4 => Fmt.e4.convert s.grp.satf8 .rne ((ftypeFmt t).unpack (x l))
         | .e5 => Fmt.e5.convert s.grp.satf8 .rne ((ftypeFmt t).unpack (x l))
         | .d8 => s.grp.quantD8 ((x l).testBit (w - 1)) ((ftypeFmt t).unpack (x l)))) ∧
    (s.tablePending = false → s.grp.searchable = false → traps (.vquant .d8 t d a m) s 0x03 (s.ir.setWidth 64)) ∧
    (let w := ftypeWidth t; let x (l : Nat) := lane 8 (s.grp.row a) l
     (k = .d8 → s.tablePending = false) →
       lanesTake (.vdeq t k d a m) s s w (laneCount w) d (laneOn w (s.grp.mask m)) (fun l =>
         (ftypeFmt t).convert s.grp.satf8 s.rmode (match k with
           | .e4 => Fmt.e4.unpack (x l) | .e5 => Fmt.e5.unpack (x l) | .d8 => s.grp.entryVal (x l)
           | .i8 => FVal.ofInt (laneInt 8 (x l))))) ∧
    (sourceReady s p b [] → let w := ftypeWidth t; let y := sourceLane s w p b; let on := laneOn w (s.grp.mask m)
      let mag (l : Nat) : Nat := (Fmt.f32.convert true .rne ((ftypeFmt t).unpack (y l)).abs).bits
      (3 < r.toNat → traps (.vamax t r b m p) s 0x03 (s.ir.setWidth 64)) ∧
      ∀ j : Fin 4, r.toNat = j.val →
        ∃ t', exec (.vamax t r b m p) s = .next t' ∧ done (.vamax t r b m p) s t' ∧ slots s t' [] ∧ memory s t' ∧ t'.grp.tile = s.grp.tile ∧
          t'.grp.fflags = s.grp.fflags ∧ (∀ i, i ≠ j → t'.grp.amax.get i = s.grp.amax.get i) ∧
          (∀ l, l < laneCount w → on l = true → ((ftypeFmt t).unpack (y l)).isNan = false → mag l ≤ (t'.grp.amax.get j).toNat) ∧
          (s.grp.amax.get j).toNat ≤ (t'.grp.amax.get j).toNat ∧
          (t'.grp.amax.get j = s.grp.amax.get j ∨
            ∃ l, l < laneCount w ∧ on l = true ∧ ((ftypeFmt t).unpack (y l)).isNan = false ∧ (t'.grp.amax.get j).toNat = mag l)))

/-- R142 and R146 to R148: the function pipe works on every enabled lane; VLUT reads the table that g[28 + n] names, after its
checks, and keeps a copy of it. R122 and R125: where an operand cannot be read it waits, or traps. -/
def Obligations.FunctionPipeWorksOnEnabledLanes : Prop :=
  (∀ (s : State) (t : FType) (fn : BitVec 5) (d b : VReg) (m : MReg) (p : Pat),
    (fn.toNat ≤ 15 → sourceHolds (.vfn t fn d b m p) s p b [d]) ∧ (fn.toNat ≤ 3 → sourceHolds (.vlut t fn d b m p) s p b [d])) ∧
  ∀ (s : State) (t : FType) (fn : BitVec 5) (d b : VReg) (m : MReg) (p : Pat), sourceReady s p b [d] →
    let w := ftypeWidth t; let n := laneCount w; let on := laneOn w (s.grp.mask m); let y := sourceLane s w p b
    (fn.toNat ≤ 15 →
      lanesTake (.vfn t fn d b m p) s (sourceRead s p b) w n d on (fun l => vfnLane (ftypeFmt t) fn.toNat s.ticks l (y l))) ∧
    (15 < fn.toNat → traps (.vfn t fn d b m p) s 0x03 (s.ir.setWidth 64)) ∧
    (3 < fn.toNat → traps (.vlut t fn d b m p) s 0x03 (s.ir.setWidth 64)) ∧
    ∀ j : Fin 4, fn.toNat = j.val → let a := s.getG (BitVec.ofNat 5 (28 + j.val))
      (∀ c v, s.grp.lutFault a = some (c, v) → traps (.vlut t fn d b m p) s c v) ∧
      (s.grp.lutFault a = none →
        lanesTake (.vlut t fn d b m p) s
          ((sourceRead s p b).mapCore fun c => { c with fnCopies := c.fnCopies.set j.val (some a.toNat) j.isLt }) w n d on
          (fun l => vlutLane (ftypeFmt t) (s.grp.tableWord a.toNat) (y l)))

/-! ## Shared memory -/

/-- R270, R274, R275 and R279: a load or an atomic whose address passes CheckShared takes a free load tag, the lowest by the model's choice
(log 138); it waits for a page, for a tag, for an acquire, for a row or for room in the log. A load takes what the group's own unacknowledged records hold (R262), LDA never does; an atomic also takes a log entry with the
operand, the old gd and its bytes. The model's own are that every atomic, not CAS alone, records the old gd as its comparand (log 112), that
a load which own records overlap, and which is not forwarded, reads all its bytes at the home (log 124), and that a releasing store's
record is forwarded like another, unless its byte is known to have been replaced at its home (log 125). -/
def Obligations.SharedLoadsAndAtomicsTakeATag : Prop :=
  ∀ (s : State) (d a b : GReg) (v : VReg) (ord : AtomOrd) (tag : Nat) (ps : List (Nat × Bool)), let x := s.getG a
    let bytes := ps.map fun p => s.norm p.1
    let line (y : LoadTag) (l : Nat) : Prop := l ∈ y.lines ↔ (∀ b ∈ bytes, ∀ e ∈ s.grp.log, e.touches b = false) ∧
      ∃ p ∈ ps, p.2 = false ∧ viewable p.1 = true ∧ l = s.norm p.1 / 64 * 64
    let newest (e : LogEntry) (b : Nat) : Prop := s.grp.log.reverse.find? (·.touches b) = some e
    -- all bytes are forwarded from the ring, or none is
    let forwards (y : LoadTag) : Prop :=
      ((∃ b ∈ bytes, ∀ e ∈ s.grp.log, e.touches b = false) ∨
        (∃ b ∈ bytes, ∃ e ∈ s.grp.log, e.touches b = true ∧ (e.inRing = false ∨ (e.kind ≠ .store ∧ e.kind ≠ .relStore))) → y.data = none) ∧
      ∀ bs, y.data = some bs → bs.length = bytes.length ∧ ∀ (j b : Nat) (e : LogEntry), bytes[j]? = some b → newest e b →
        bs[j]? = some (e.byte (b - e.addr)) ∧ e.passed.getLsbD (b - e.addr) = false
    let atomics : List (Instr × AtomOp) := [(.atomAdd ord d a b, .add), (.atomMin ord d a b, .min), (.atomMax ord d a b, .max),
      (.atomAnd ord d a b, .and), (.atomOr ord d a b, .or), (.atomXor ord d a b, .xor), (.atomSwap ord d a b, .swap), (.atomCas ord d a b, .cas)]
    (∀ i ∈ [Instr.sld d a, .lda d a], (lacks s x 8 ⟨true, false⟩ → misses i s) ∧
      (reaches s x 8 ⟨true, false⟩ ps → s.awaitsAcquire = true ∨ s.freeTag = none → holdsOff i s)) ∧
    (s.rowFree v = false → waits (.sldv v a) s) ∧
    (s.rowFree v = true → (lacks s x 128 ⟨true, false⟩ → misses (.sldv v a) s) ∧
      (reaches s x 128 ⟨true, false⟩ ps → s.awaitsAcquire = true ∨ s.freeTag = none → holdsOff (.sldv v a) s)) ∧
    (∀ z ∈ atomics, (lacks s x 8 ⟨true, true⟩ → misses z.1 s) ∧
      (reaches s x 8 ⟨true, true⟩ ps → s.freeTag = none ∨ s.grp.logRoom 1 = false → holdsOff z.1 s)) ∧
    (s.freeTag = some tag →
    (s.awaitsAcquire = false →
      (reaches s x 8 ⟨true, false⟩ ps →
        (∃ t y, takesTag (.sld d a) s t y ∧ memory s t ∧ y.tag = tag ∧ y.slot = s.k ∧ y.dest = .g d ∧ y.bytes = bytes ∧
          y.acquires = false ∧ y.data = s.grp.forward bytes ∧ forwards y ∧ y.bound = s.grp.logTail ∧ y.vaddr = x ∧ ∀ l, line y l) ∧
        ∃ t y, takesTag (.lda d a) s t y ∧ memory s t ∧ y.tag = tag ∧ y.slot = s.k ∧ y.dest = .g d ∧ y.bytes = bytes ∧
          y.acquires = true ∧ y.lines = [] ∧ y.data = none ∧ y.vaddr = x) ∧
      (reaches s x 128 ⟨true, false⟩ ps → s.rowFree v = true →
        ∃ t y, takesTag (.sldv v a) s t y ∧ memory s t ∧ y.tag = tag ∧ y.slot = s.k ∧ y.dest = .v v ∧ y.bytes = bytes ∧
          y.acquires = false ∧ y.data = s.grp.forward bytes ∧ forwards y ∧ y.vaddr = x ∧ ∀ l, line y l)) ∧
    (reaches s x 8 ⟨true, true⟩ ps → s.grp.logRoom 1 = true →
      ∀ (i : Instr) (op : AtomOp), (i, op) ∈ atomics →
        ∃ t y e, takesTag i s t y ∧ spillsOnly s t 1 ∧ y.tag = tag ∧ y.slot = s.k ∧ y.dest = .g d ∧ y.atomic = true ∧
          (y.acquires = true ↔ ord = .acq ∨ ord = .ar) ∧
          t.grp.log = s.grp.log ++ [e] ∧ e.kind = .atomic ∧ e.aop = op ∧ e.ord = ord ∧ e.tag = tag ∧ e.cmp = s.getG d ∧
          e.seq = s.grp.logTail + 1 ∧ y.seq = e.seq ∧ t.grp.logTail = s.grp.logTail + 1 ∧
          ∀ p, ps.head?.map (·.1) = some p → p % 8 = 0 →
            e.phys = p / 32 * 32 ∧ e.addr = s.norm (p / 32 * 32) ∧ e.mask = 0xFF#32 <<< (p % 32) ∧
              ∀ j, j < 8 → e.byte (p % 32 + j) = (s.getG b).extractLsb' (8 * j) 8))

/-- R252, R276 and R277: the stores append records to the log and write no byte of memory but the images of spilled ones; a zero mask stores
nothing; the selected bytes stand in a record, merged or new, that takes the next sequence number. A store waits for a page, for its row or
for room in the log. -/
def Obligations.SharedStoresAppendRecords : Prop :=
  ∀ (s : State) (m a b : GReg) (v : VReg) (ps : List (Nat × Bool)), let x := s.getG a; let mask := s.getG m
    let same (i : Instr) (t : State) (k : Nat) : Prop := done i s t ∧ slots s t [] ∧ spillsOnly s t k ∧ t.grp.tile = s.grp.tile ∧ t.grp.fflags = s.grp.fflags ∧
      t.core.tags.length = s.core.tags.length
    (mask.extractLsb' 8 56 ≠ 0 → traps (.sst m a b) s 0x03 mask ∧ traps (.sstr m a b) s 0x03 mask) ∧
    (mask.extractLsb' 8 56 = 0 → ∀ i ∈ [Instr.sst m a b, .sstr m a b], (lacks s x 8 ⟨false, true⟩ → misses i s) ∧
      (mask ≠ 0 → reaches s x 8 ⟨false, true⟩ ps → s.grp.logRoom 1 = false → holdsOff i s)) ∧
    (s.rowFree v = false → waits (.sstv v a) s) ∧
    (s.rowFree v = true → (lacks s x 128 ⟨false, true⟩ → misses (.sstv v a) s) ∧
      (reaches s x 128 ⟨false, true⟩ ps → s.grp.logRoom (if x.toNat % 32 = 0 then 4 else 5) = false → holdsOff (.sstv v a) s)) ∧
    (mask = 0 → reaches s x 8 ⟨false, true⟩ ps →
      (∃ t, exec (.sst m a b) s = .next t ∧ same (.sst m a b) t 0 ∧ memory s t ∧ t.grp.log = s.grp.log) ∧
      ∃ t, exec (.sstr m a b) s = .next t ∧ same (.sstr m a b) t 0 ∧ memory s t ∧ t.grp.log = s.grp.log) ∧
    (mask ≠ 0 → mask.extractLsb' 8 56 = 0 → reaches s x 8 ⟨false, true⟩ ps → s.grp.logRoom 1 = true →
      ∀ p, ps.head?.map (·.1) = some p → p % 8 = 0 →
        let holds (e : LogEntry) : Prop := e.seq = s.grp.logTail + 1 ∧ e.addr = s.norm (p / 32 * 32) ∧
          ∀ j, j < 8 → mask.getLsbD j = true →
            e.touches (e.addr + p % 32 + j) = true ∧ e.byte (p % 32 + j) = (s.getG b).extractLsb' (8 * j) 8
        (∃ t, exec (.sst m a b) s = .next t ∧ same (.sst m a b) t 1 ∧ t.grp.logTail = s.grp.logTail + 1 ∧ ∃ e ∈ t.grp.log, e.kind = .store ∧ holds e) ∧
        ∃ t e, exec (.sstr m a b) s = .next t ∧ same (.sstr m a b) t 1 ∧ t.grp.logTail = s.grp.logTail + 1 ∧ t.grp.log = s.grp.log ++ [e] ∧
          e.kind = .relStore ∧ holds e) ∧
    (reaches s x 128 ⟨false, true⟩ ps → let bytes := ps.map fun p => s.norm p.1
      bytes.Nodup → s.rowFree v = true → s.grp.logRoom (if x.toNat % 32 = 0 then 4 else 5) = true →
      ∃ t, exec (.sstv v a) s = .next t ∧ same (.sstv v a) t 5 ∧
        t.grp.logTail = s.grp.logTail + BitVec.ofNat 32 (distinct (ps.map fun p => p.1 / 32)).length ∧
        ∀ j p, bytes[j]? = some p → ∃ e ∈ t.grp.log, e.kind = .store ∧ e.touches p = true ∧
          e.byte (p - e.addr) = (s.grp.row v).extractLsb' (8 * j) 8)

/-- R264, R265, R267 and R278: REL fixes its tail when it first comes to issue, waits for a free entry for its marker and for the records
before it to be released, and publishes that tail; FENCE leaves its marker behind earlier records; ACQ empties the view cache unless its
frontier entry is already that late. The bytes of records that ACQ notes as replaced are the model's own (log 125).
R248, R281 and R282: TLBLK locks the page of an address and adds it to the group's locked set, at most twelve, after a miss if it must;
TLBUL takes it out, of two that overlap the one added first by the model's choice (log 139), as the locking of a found entry is (log
137); TLBPRB gives the leaf and the lock of an address and changes nothing. -/
def Obligations.ReleasesAcquiresAndTlbInstructions : Prop :=
  (∀ (s : State) (a b : GReg) (scope : Scope), let w := s.getG a; let n : BitVec 32 := (s.getG b).extractLsb' 0 32
    let records (t : State) : Prop := t.grp.log.filter (·.isRecord) = s.grp.log.filter (·.isRecord)
    (∀ q placed, s.slot.progress = .rel q placed ∨ (s.slot.progress = .none ∧ q = s.grp.logTail ∧ placed = false) →
      let waiting (t : State) (placed : Bool) : Prop := exec (.rel scope) s = .next t ∧ t.stalled = true ∧ t.slot.pc = s.slot.pc ∧
        t.slot.progress = .rel q placed ∧ t.grp.logPub = s.grp.logPub ∧ slots s t []
      (placed = false → s.grp.logRoom 1 = false → ∃ t, waiting t false ∧ memory s t ∧ t.grp.log = s.grp.log) ∧
      (placed = true ∨ s.grp.logRoom 1 = true →
        (s.grp.released scope q = true →
          ∃ t, exec (.rel scope) s = .next t ∧ done (.rel scope) s t ∧ slots s t [] ∧ spillsOnly s t 1 ∧ records t ∧
            t.grp.logPub = (if seqEarlier s.grp.logPub q then q else s.grp.logPub)) ∧
        (s.grp.released scope q = false → ∃ t, waiting t true ∧ spillsOnly s t 1 ∧ records t))) ∧
    (s.grp.logRoom 1 = true →
      ∃ t, exec .fence s = .next t ∧ done .fence s t ∧ slots s t [] ∧ spillsOnly s t 1 ∧ records t ∧ t.grp.logTail = s.grp.logTail ∧
        ((∃ e ∈ s.grp.log, e.isRecord = true) → t.grp.log.getLast?.map (·.kind) = some .fenceMarker)) ∧
    (s.grp.logRoom 1 = false → waits .fence s) ∧
    (w.extractLsb' 41 23 ≠ 0 → traps (.acq a b) s 0x03 w) ∧
    (w.extractLsb' 41 23 = 0 → let key : WriterKey := w.extractLsb' 0 41
      ∃ t, exec (.acq a b) s = .next t ∧ done (.acq a b) s t ∧ slots s t [] ∧ memory s t ∧
        t.grp.log.map (fun e => { e with passed := 0 }) = s.grp.log.map (fun e => { e with passed := 0 }) ∧
        ((∃ e u, s.core.frontier.find? (fun e => decide (e.1 = key)) = some (e, u) ∧ seqUpTo n u = true) →
          t.core.view = s.core.view ∧ t.grp.log = s.grp.log) ∧
        ((∀ e u, s.core.frontier.find? (fun e => decide (e.1 = key)) = some (e, u) → seqUpTo n u = false) →
          t.core.view = [] ∧ t.core.frontier.head? = some (key, n) ∧
            ∀ e ∈ t.grp.log, s.applied e = true → ∀ j, j < 32 → e.touches (e.addr + j) = true →
              s.homeByte (e.addr + j) ≠ e.byte j → e.passed.getLsbD j = true))) ∧
  ∀ (s : State) (d a : GReg), let x := s.getG a; let held := s.grp.locked.any fun p => p.holds x.toNat
    (x.extractLsb' 48 16 ≠ 0 → traps (.tlblk a) s 0x04 x ∧ traps (.tlbul a) s 0x04 x ∧ traps (.tlbprb d a) s 0x04 x) ∧
    (x.extractLsb' 48 16 = 0 →
      (s.core.tlbFind x.toNat = none → misses (.tlblk a) s) ∧
      (∀ e, s.core.tlbFind x.toNat = some e →
        (leafValid e.leaf = false → traps (.tlblk a) s 0x08 x) ∧
        (leafValid e.leaf = true → held = false → 12 ≤ s.grp.locked.length → traps (.tlblk a) s 0x03 x) ∧
        (leafValid e.leaf = true → held = true ∨ s.grp.locked.length < 12 →
          ∃ t, exec (.tlblk a) s = .next t ∧ done (.tlblk a) s t ∧ slots s t [] ∧ memory s t ∧
            t.grp.locked = (if held then s.grp.locked else s.grp.locked ++ [e.page]) ∧
            t.core.tlbFind x.toNat = some { e with locked := e.locked || !held || s.core.relocks x.toNat e.page })) ∧
      (∀ p, s.grp.locked.find? (fun p => p.holds x.toNat) = some p →
        ∃ t, exec (.tlbul a) s = .next t ∧ done (.tlbul a) s t ∧ slots s t [] ∧ memory s t ∧ t.grp.locked = s.grp.locked.filter (fun q => decide (q ≠ p)) ∧
          (∀ y ∈ t.core.tlb, y.page.meets p = true → y.locked = false) ∧ t.core.tlb.length = s.core.tlb.length) ∧
      (held = false → turnsInto (.tlbul a) s s) ∧
      gives (.tlbprb d a) s d ((match s.core.tlbFind x.toNat with
        | some e => e.leaf.extractLsb' 11 53 ++ 0#9 ++ 1#1 | none => 0#63) ++ BitVec.ofBool held))

/-! ## Engine instructions -/

/-- R284 and R311 to R327: an engine instruction whose checks pass, with a free entry in the octet's queue and no earlier load
pending on its rows, enqueues its job and gives the job's id; a copy that lacks a page waits. That a copy translates all its pages in the enqueue, that a
collective's number among those of its group is part of the job, and that an instruction waits whose job would name a group that a swap
is moving are the model's readings (log 15, 16, 119); a shared destination with ndest above 1 fails in step 3 by its choice (log 140). -/
def Obligations.EngineInstructionsEnqueueJobs : Prop :=
  ∀ (s : State) (d a b : GReg) (rows : StepRows), let x := s.getG a; let y := s.getG b
    s.queueFree = true →
    (∀ wf, s.rowPending (s.stepJob wf rows x y).mask = false → s.stepChecks (s.stepJob wf rows x y) x y = none →
      (∀ o ∈ [(s.stepJob wf rows x y).a.owner, (s.stepJob wf rows x y).b.owner], s.leaving s.core.at_ o = false) →
      (wf = true → ∃ t, enqueues (.mstep wf rows d a b) s t d (.step (s.stepJob wf rows x y)) (s.stepJob wf rows x y).mask) ∧
      (wf = false → (∀ c ∈ s.others, c.at_ ≠ s.core.at_) →
        (s.lendBoth s.core.at_ (s.grp.name, s.grp.jobSerial) (s.stepJob wf rows x y)).isSome = true →
        ∃ t, enqueues (.mstep wf rows d a b) s t d (.step (s.stepJob wf rows x y)) (s.stepJob wf rows x y).mask)) ∧
    (x ≠ 0 → x.extractLsb' 32 32 = 0 → s.rowPending (x.extractLsb' 0 32) = false →
      ∃ t, enqueues (.tzero a) s t 0 (.tzero (x.extractLsb' 0 32)) (x.extractLsb' 0 32)) ∧
    (s.grp.checkLocal false x.toNat 1024 8 x = none →
      ∃ t es, enqueues (.dtload a) s t 0 (.dtload es) 0 ∧ es.length = 256 ∧
        ∀ i, i < 256 → ∃ e, es[i]? = some e ∧ e = (s.localByte (x.toNat + 4 * i + 2)).extractLsb' 0 3 ++
          s.localByte (x.toNat + 4 * i + 1) ++ s.localByte (x.toNat + 4 * i)) ∧
    (∀ two : Bool, let blk := s.copyBlock y.toNat; let n := if two then blk.rows else 1
      let ws := (List.range blk.ndest).map fun i => BitVec.ofNat 64 (leNat (s.localBytes (y.toNat + 24 + 8 * i) 8)); let first := ws.headD 0
      s.grp.checkLocal false y.toNat 24 8 y = none → s.grp.checkLocal false y.toNat (24 + 8 * blk.ndest) 8 y = none →
      blk.ok two = true → s.endpointBad blk false first [] x = false → s.endpointFault blk first [] ws = none →
      s.endpointRange x n blk.sstride blk.width = none → (∀ w ∈ ws, s.endpointRange w n blk.dstride blk.width = none) →
      let sw := wordsOf x n blk.sstride blk.width; let dw := wordsOf first n blk.dstride blk.width
      let before := s.slot.translatedFor [x.toNat, first.toNat, n, blk.sstride, blk.dstride, blk.width]
      (∀ o ∈ s.endpointOwners (x :: ws), s.leaving s.core.at_ o = false) →
      (∀ t, s.checkRanges sw dw before = .inl t → exec (if two then .cpy2 d a b else .cpy d a b) s = .next t) ∧
      ∀ u ps m, s.checkRanges sw dw before = .inr (u, ps, m) →
        (m = none → ∃ t j, enqueues (if two then .cpy2 d a b else .cpy d a b) s t d (.copy j) 0 ∧
          j.src = endpointOf s x (ps.reverse.take sw.length) ∧ j.dests.length = blk.ndest ∧
          j.dests.head? = some (endpointOf s first (ps.reverse.drop sw.length)) ∧
          j.rows = n ∧ j.width = blk.width ∧ j.fill = decide (blk.mode = 1) ∧ j.next = 0) ∧
        (m ≠ none → ∃ t, exec (if two then .cpy2 d a b else .cpy d a b) s = .next t ∧ t.stalled = true ∧ t.slot.pc = s.slot.pc ∧
          t.grp.instret = s.grp.instret ∧ t.octets = s.octets)) ∧
    (let blk := s.collBlock x.toNat; let p := (s.launch?.map fun l => l.unitSize blk.level).getD 1; let parent := (y.extractLsb' 32 32).toNat
     let root := decide (parent = 0xFFFFFFFF)
     let result := if blk.op = 1 then blk.bytes else if root then (if blk.op = 2 then blk.bytes * p else blk.bytes) else 0
     s.grp.checkLocal false x.toNat 16 8 x = none → s.collBlockOk blk (blk.op == 1 || root) = true → y.extractLsb' 16 16 = 0 →
     (y.extractLsb' 8 8).toNat ≤ 15 → (y.extractLsb' 0 8).toNat ≤ 16 → (root = false → parent < p) →
     checkOperand (some s.core) blk.buf (blk.buf + blk.bytes) = none →
     (result ≠ 0 → checkOperand (some s.core) blk.res (blk.res + result) = none) →
       ∃ t j, enqueues (.coll d a b) s t d (.coll j) 0 ∧ j.block = blk ∧ j.member = s.grp.ordinal % p ∧ j.unit = s.grp.ordinal / p ∧
         j.number = s.grp.collsAt blk.level + 1 ∧ j.parent = (if root then none else some parent) ∧ j.child = (y.extractLsb' 8 8).toNat ∧ j.nchild = (y.extractLsb' 0 8).toNat)

/-- R307 and R313 to R318: MCOMMIT closes the open batch and gives its id word; JPOLL reads a status word; JWAIT goes on when
the job or batch is complete, traps on an error, and waits while it runs.
R316, R317, R318, R321 and R322: TCFG and TREL change the accumulator type and clear the tile, and trap while a row is busy;
AMPUSH moves an amax into its ring of sixteen; AMSCALE gives the scale byte of a ring's greatest magnitude. -/
def Obligations.BatchesTileAndScalingInstructions : Prop :=
  (∀ (s : State) (d a : GReg), let w := s.getG a; let record := s.grp.record? (w.getLsbD 8) (w.extractLsb' 0 8)
    (s.grp.openJobs = [] → gives (.mcommit d) s d 0x100) ∧
    (∀ p, s.grp.openJobs.getLast? = some p →
      ∃ t, exec (.mcommit d) s = .next t ∧ done (.mcommit d) s t ∧ memory s t ∧ t.getG d = (if d = 0 then 0 else 0x100 + p.id.setWidth 64) ∧
        (∀ r, r ≠ d → t.getG r = s.getG r) ∧ t.grp.openJobs = [] ∧ t.grp.jobOpen = 0 ∧
        ∃ r ∈ t.grp.records, r.batch = true ∧ r.id = p.id ∧ r.parts = s.grp.openJobs ∧
          r.state = (if s.grp.openJobs.all (·.done) then 3 else 2)) ∧
    (w.extractLsb' 9 55 ≠ 0 ∨ w = 0 → traps (.jpoll d a) s 0x03 w ∧ traps (.jwait a) s 0x03 w) ∧
    (w.extractLsb' 9 55 = 0 → w ≠ 0 →
      (∀ r, record = some r →
        gives (.jpoll d a) s d r.word ∧
        (r.state ≠ 3 → waits (.jwait a) s) ∧
        (r.state = 3 → (∀ p ∈ r.parts, p.publish = none) → (r.word.extractLsb' 12 4).toNat ∉ [1, 2, 3, 5, 6] → turnsInto (.jwait a) s s) ∧
        (r.state = 3 → (∀ p ∈ r.parts, p.publish = none) → (r.word.extractLsb' 12 4).toNat ∈ [1, 2, 3, 5, 6] →
          exec (.jwait a) s = .next (s.takeTrap s.k 0x0C (s.slot.pc + 1) r.word))) ∧
      (record = none →
        gives (.jpoll d a) s d ((w.extractLsb' 0 8).setWidth 64 <<< 16) ∧ turnsInto (.jwait a) s s))) ∧
  ∀ (s : State) (ty : AccType) (d a : GReg) (n : BitVec 2) (fmt : QFmt), let j := n.toFin
    let ring := s.grp.rings.get j; let top := s.grp.amax.get j
    (s.grp.busy = 0 → turnsInto (.tcfg ty) s (s.mapGrp fun g => { g with tilecfg := ty }) ∧
      (s.rowPending (BitVec.allOnes 32) = false →
        ∃ t, exec .trel s = .next t ∧ done .trel s t ∧ slots s t [] ∧ memory s t ∧ t.grp.tilecfg = .f32 ∧ (∀ v, t.grp.row v = 0) ∧
          t.grp.hold = s.grp.hold ∧ t.grp.m = s.grp.m)) ∧
    (s.grp.busy ≠ 0 → traps (.tcfg ty) s 0x0B 0 ∧ traps .trel s 0x0B 0) ∧
    (s.getG a = 0 → turnsInto (.tzero a) s s) ∧
    ((s.getG a).extractLsb' 32 32 ≠ 0 → traps (.tzero a) s 0x03 (s.getG a)) ∧
    (∃ t, exec (.ampush n) s = .next t ∧ done (.ampush n) s t ∧ slots s t [] ∧ memory s t ∧ t.grp.amax.get j = 0 ∧
      (t.grp.rings.get j).getLast? = some top ∧ (t.grp.rings.get j).length = min 16 (ring.length + 1) ∧
      (ring.length < 16 → t.grp.rings.get j = ring ++ [top]) ∧
      ∀ i, i ≠ j → t.grp.amax.get i = s.grp.amax.get i ∧ t.grp.rings.get i = s.grp.rings.get i) ∧
    ((fmt = .d8 → s.tablePending = false ∧ s.grp.searchable = true) →
      ∃ m : BitVec 32, (m = top ∨ m ∈ ring) ∧ top.toNat ≤ m.toNat ∧ (∀ x ∈ ring, x.toNat ≤ m.toNat) ∧
        gives (.amscale fmt d n) s d (BitVec.ofNat 64 (scaleByte (Fmt.f32.unpack m.toNat)
          (match fmt with | .e4 => .num false 448 0 | .e5 => .num false 57344 0 | .d8 => s.grp.entryVal 0x7F)))) ∧
    (s.tablePending = false → s.grp.searchable = false → traps (.amscale .d8 d n) s 0x03 (s.ir.setWidth 64))

/-! ## Events of message delivery -/

/-- R171, R176, R182 and R190: an entry leaves once it is first of its queue and what it releases is released; a bounced entry
leaves again; a stream message takes words against credits; answers free the entry, send it again, or bring credits.
R357: of a replica only a hash leaves, and the primary's credits are the secondary's too. That a message which the egress filters stop
comes back with type 0xFE is the model's reading (log 86); that a stream message does not wait for a resend is its choice (log 143). -/
def Obligations.EntriesLeaveTheCoreAndAreAnswered : Prop :=
  (∀ (s : State) (n : Nat) (e : InjEntry), s.grp.inj[n]? = some e → s.core.vacant = false → s.grp.stopped = false →
    (∀ w, e.stage = .waiting w → (∀ x ∈ s.grp.inj.take n, x.kind = e.kind → ∀ y, x.stage ≠ .waiting y) →
      (∀ q, w = some q → s.grp.released .pod q = true) →
      let m : Msg := match w with | some q => { e.msg with tail := q } | none => e.msg
      ∃ t, moves (.injection n) s t ∧ goesOut s t e.id m ∧
        t.grp.inj = (if e.kind = .reply then listDrop s.grp.inj n else listSet s.grp.inj n { e with msg := m, stage := .sent }) ∧
        ∀ q, w = some q → t.grp.logPub = if seqEarlier s.grp.logPub q then q else s.grp.logPub) ∧
    (s.portHolds = false → e.stage = .bounced →
      ∃ t, moves (.reinjection n) s t ∧ goesOut s t e.id e.msg ∧
        t.grp.inj = listSet s.grp.inj n { e with stage := .sent })) ∧
  (∀ (s : State) (q : BitVec 3), let v := s.grp.queue q; let c := s.grp.chan v.chan; let n := min (v.words.length - v.injected) (min c.credits 16)
    v.bound = true → 4 ≤ q.toNat → c.isStream = true → 0 < n → s.portHolds = false → s.core.vacant = false → s.grp.stopped = false →
    ∃ t e, exec (.streamInjection q) s = .next t ∧ t.stalled = s.stalled ∧ t.grp.slots = s.grp.slots ∧ t.grp.inj = s.grp.inj ++ [e] ∧
      e.kind = .stream q ∧ e.stage = .sent ∧ e.msg.cls = 2 ∧ e.msg.dest = c.peer ∧ e.msg.chan = v.chan ∧ e.msg.seqd = true ∧
      e.msg.seq = BitVec.ofNat 16 c.txseq ∧ e.msg.len = 8 * n ∧ e.msg.data = ((v.words.drop v.injected).take n).flatMap (fun w => leBytes 8 w.toNat) ∧
      (t.grp.chan v.chan).credits = c.credits - n ∧ (t.grp.chan v.chan).txseq = (c.txseq + 1) % 2 ^ 16 ∧
      (t.grp.queue q).words = v.words ∧ (t.grp.queue q).injected = v.injected + n ∧ t.grp.sent = s.grp.sent + 1 ∧
      goesOut s t e.id e.msg) ∧
  ∀ (s : State) (n : Nat) (p : Packet) (dst name : Name) (id k module : Nat) (c : BitVec 6) (at_ : Coord), s.net[n]? = some p →
    (s.isHere dst = true → s.answerTurn n p = true →
      (p.body = .accept dst id → ∃ t, happens (.acceptanceArrival n) s t ∧ t.net = listDrop s.net n ∧ (∀ e ∈ t.grp.inj, e.id ≠ id) ∧
        (∀ e ∈ s.grp.inj, e.id ≠ id → e ∈ t.grp.inj) ∧ t.grp.slots = s.grp.slots ∧ memory s t) ∧
      (p.body = .bounce dst id → ∃ t, happens (.acceptanceArrival n) s t ∧ t.net = listDrop s.net n ∧ t.grp.slots = s.grp.slots ∧ memory s t ∧
        t.grp.inj = s.grp.inj.map fun e => if e.id = id then { e with stage := .bounced } else e) ∧
      (p.body = .credit dst c k → s.grp.twin = none → (s.grp.chan c).isStream = true → 4 ≤ (s.grp.chan c).queue →
        ∃ t, happens (.creditReturn n) s t ∧ t.net = listDrop s.net n ∧ (t.grp.chan c).credits = min 32 ((s.grp.chan c).credits + k) ∧
          (t.grp.chan c).txseq = (s.grp.chan c).txseq ∧ (∀ j, j ≠ c → t.grp.chan j = s.grp.chan j) ∧
          ∀ j, (t.grp.slot j).latch = true ∧ (t.grp.slot j).pc = (s.grp.slot j).pc) ∧
      (∀ tw y, p.body = .credit dst c k → s.grp.twin = some tw → tw.primary = true → Safety.apart (s.cores.map (·.at_)) = true →
        s.coreAt tw.partner = some y → tw.partner ≠ s.core.at_ → (s.grp.chan c).isStream = true → 4 ≤ (s.grp.chan c).queue →
        ∃ t z, happens (.creditReturn n) s t ∧ t.net = listDrop s.net n ∧ (t.grp.chan c).credits = min 32 ((s.grp.chan c).credits + k) ∧
          t.coreAt tw.partner = some z ∧ (z.grp.chan c).credits = min 32 ((y.grp.chan c).credits + k))) ∧
    (p.body = .nameUpdate name module at_ → p.place = .core s.core.at_ → s.turnAt n p = true →
      (s.portHolds = false → ∃ t, moves (.nameCacheUpdate n) s t ∧ t.net = listDrop s.net n ∧
        t.core.names.head? = some (name, module, at_) ∧ t.core.names.length ≤ 16 ∧ (module = s.board.module → t.route name = .core at_)) ∧
      (s.portHolds = true → ∃ t, moves (.nameCacheUpdate n) s t ∧ t.net = listDrop s.net n ∧ t.core.held = s.core.held ++ [p]))

/-- R153, R173, R174, R182, R184 and R390: a request that can be delivered becomes a pending entry and is accepted; with no free
entry it is returned with type 0xFF; a sealed name returns it with type 0xFD, a firmware core with 0xFE; a locked port keeps it;
a message ahead of its turn is kept
in the reorder store, one that came before is dropped, and both are accepted. -/
def Obligations.RequestsAreDeliveredKeptOrReturned : Prop :=
  ∀ (s : State) (n : Nat) (p : Packet) (m : Msg),
    (arrives s n p m 0 → m.rel = false →
      (m.seqd = false →
        (∀ i, s.grp.freeMbox = some i → handled s.grp m.mtype →
          ∃ t, happens (.messageArrival n) s t ∧ mailed s t i m ∧ t.net = listDrop s.net n ++ [acceptance s p m]) ∧
        (s.grp.freeMbox = none →
          ∃ t, moves (.messageArrival n) s t ∧ t.net = listDrop s.net n ++ [returned s p m 0xFF] ∧ t.grp.consumed = s.grp.consumed + 1 ∧
            t.grp.sent = s.grp.sent + 1 ∧ t.grp.mbox = s.grp.mbox)) ∧
      (let e := s.grp.chan m.chan; let k := (m.seq.toNat + 2 ^ 16 - e.rxseq) % 2 ^ 16
       m.seqd = true → e.isMessage = true → e.peer = m.source →
        (k = 0 → s.grp.reorder = [] → ∀ i, s.grp.freeMbox = some i → handled s.grp m.mtype →
          ∃ t, happens (.messageArrival n) s t ∧ t.grp.mbox[i]? = some (.pending s.grp.arrivals) ∧ t.net = listDrop s.net n ++ [acceptance s p m] ∧
            (t.grp.chan m.chan).rxseq = (e.rxseq + 1) % 2 ^ 16 ∧ (t.grp.chan m.chan).txseq = e.txseq) ∧
        (0 < k → k < 32768 → s.grp.reorder.length < 8 →
          ∃ t, moves (.messageArrival n) s t ∧ t.grp.reorder = s.grp.reorder ++ [m] ∧ t.net = listDrop s.net n ++ [acceptance s p m]) ∧
        (0 < k → k < 32768 → 8 ≤ s.grp.reorder.length →
          ∃ t, moves (.messageArrival n) s t ∧ t.grp.reorder = s.grp.reorder ∧ t.core.refusedOrder = s.core.refusedOrder + 1 ∧
            t.net = listDrop s.net n ++ [{ (acceptance s p m) with body := .bounce m.source p.id }]) ∧
        (32768 ≤ k → ∃ t, moves (.messageArrival n) s t ∧ t.grp.consumed = s.grp.consumed + 1 ∧ t.grp.reorder = s.grp.reorder ∧
          t.net = listDrop s.net n ++ [acceptance s p m]))) ∧
    (s.net[n]? = some p → p.body = .msg m → p.place = .core s.core.at_ → m.cls = 0 → s.turnAt n p = true →
      (s.portHolds = true → ∃ t, moves (.messageArrival n) s t ∧ t.net = listDrop s.net n ∧ t.core.held = s.core.held ++ [p]) ∧
      (s.portHolds = false → s.firmwareCore = true → s.admits 0 = false ∨ s.fromGroup m = true →
        ∃ t, moves (.messageArrival n) s t ∧ t.net = listDrop s.net n ++ [returned s p m 0xFE]) ∧
      (s.portHolds = false → s.firmwareCore = false → s.isHere m.dest = false → p.copy = false →
        (s.pointer m.dest = none →
          ∃ t, moves (.messageArrival n) s t ∧ t.net = listDrop s.net n ++ [{ p with place := .directory, released := false }]) ∧
        ∀ c, s.pointer m.dest = some c → m.fwd.toNat < 3 →
          ∃ t, moves (.messageArrival n) s t ∧ t.net = listDrop s.net n ++
            [{ p with place := .core c, body := .msg { m with fwd := m.fwd + 1 }, released := false },
             backTo s p (.nameUpdate m.dest s.board.module c)]) ∧
      (s.portHolds = false → s.firmwareCore = false → s.isHere m.dest = true → s.grp.isSecondary = false → s.grp.sealed = true →
        p.accepted = false → p.copy = false → ∃ t, moves (.messageArrival n) s t ∧ t.net = listDrop s.net n ++ [returned s p m 0xFD]))

/-- R171, R172, R176, R178, R191 and R230: replies go to the entry reserved for them, stream words to their queue in sequence,
register writes to a held row that is not busy, in the order in which they came (R179); a returned message is written as a notice, or waits
for a free entry; one whose injection entry is gone is held at a locked port, and goes on to where its group is, from the core of a
secondary too (R182). That messages of any length are taken is the model's choice (log 107). -/
def Obligations.RepliesStreamsFillsAndNoticesArrive : Prop :=
  ∀ (s : State) (n : Nat) (p : Packet) (m : Msg),
    (arrives s n p m 1 → m.rel = false →
      (s.grp.mbox[m.rslot.toNat]? = some (.reserved m.source) → handled s.grp m.mtype →
        ∃ t, happens (.replyArrival n) s t ∧ mailed s t m.rslot.toNat m ∧ t.net = listDrop s.net n) ∧
      (s.grp.mbox[m.rslot.toNat]? ≠ some (.reserved m.source) →
        ∃ t, moves (.replyArrival n) s t ∧ t.grp.consumed = s.grp.consumed + 1 ∧ t.net = listDrop s.net n)) ∧
    (arrives s n p m 2 → let e := s.grp.chan m.chan; let q := BitVec.ofNat 3 e.queue
      m.seqd = true → e.isStream = true → e.queue < 4 → e.peer = m.source → m.seq.toNat = e.rxseq → s.grp.reorder = [] →
      ∃ t, happens (.streamArrival n) s t ∧ t.net = listDrop s.net n ++ [acceptance s p m] ∧
        (t.grp.chan m.chan).rxseq = (e.rxseq + 1) % 2 ^ 16 ∧
        (t.grp.queue q).words = (s.grp.queue q).words ++
          (List.range (m.len / 8)).map (fun i => BitVec.ofNat 64 (leNat ((m.data.drop (8 * i)).take 8))) ∧
        (∀ j, j ≠ q → t.grp.queue j = s.grp.queue j) ∧ ∀ j, (t.grp.slot j).latch = true) ∧
    (m.rel = false → m.seqd = false → let v : VReg := m.row
      let fills (t : State) : Prop := t.grp.row v = rowOfBytes m.data ∧ (∀ r, r ≠ v → t.grp.row r = s.grp.row r) ∧
        t.grp.hold.getLsbD v.toNat = false ∧ t.grp.consumed = s.grp.consumed + 1 ∧ (∀ j, (t.grp.slot j).latch = true) ∧ memory s t
      (arrives s n p m 3 →
        let behind := ∃ x ∈ s.core.fills, ∃ y, x.body = .msg y ∧ y.row = m.row
        (s.grp.hold.getLsbD v.toNat = true → s.grp.busy.getLsbD v.toNat = false → ¬behind →
          ∃ t, happens (.registerWriteArrival n) s t ∧ fills t ∧ t.net = listDrop s.net n ++ [acceptance s p m]) ∧
        (s.grp.hold.getLsbD v.toNat = true → s.grp.busy.getLsbD v.toNat = true ∨ behind →
          ∃ t, moves (.registerWriteArrival n) s t ∧ t.core.fills = s.core.fills ++ [p] ∧ t.grp.tile = s.grp.tile) ∧
        (s.grp.hold.getLsbD v.toNat = false →
          ∃ t, moves (.registerWriteArrival n) s t ∧ t.net = listDrop s.net n ++ [returned s p m 0xFF] ∧ t.grp.tile = s.grp.tile)) ∧
      (s.core.fills[n]? = some p → p.body = .msg m → m.cls = 3 → p.accepted = false →
        (∀ x ∈ s.core.fills.take n, ∀ y, x.body = .msg y → y.row ≠ m.row) → s.grp.hold.getLsbD v.toNat = true → s.grp.busy.getLsbD v.toNat = false →
        s.portHolds = false → s.grp.stopped = false → s.grp.twin = none →
        ∃ t, happens (.deferredFill n) s t ∧ fills t ∧ t.net = s.net ++ [acceptance s p m] ∧ t.core.fills = listDrop s.core.fills n)) ∧
    (handled s.grp m.mtype → (∀ x, s.grp.mbox[m.rslot.toNat]? = some (.reserved x) → x ≠ m.dest) →
      ∀ i, s.grp.freeMbox = some i → s.portHolds = false →
        (∀ id, s.net[n]? = some p → p.body = .notice m id → s.isHere m.source = true → p.copy = false → s.grp.twin = none →
          (s.ownEntry m id = true ∧ s.answerTurn n p = true) ∨ (s.ownEntry m id = false ∧ p.place = .core s.core.at_ ∧ s.turnAt n p = true) →
          s.grp.ended = false → s.grp.stopped = false → s.grp.noticeDue = false →
          ∃ t, happens (.noticeArrival n) s t ∧ t.grp.mbox[i]? = some (.pending s.grp.arrivals) ∧ t.net = listDrop s.net n ∧
            (∀ e ∈ t.grp.inj, e.id ≠ id) ∧ ∀ j, (t.grp.slot j).latch = true) ∧
        (∀ e c, s.grp.inj[n]? = some e → e.stage = .notice m c → (∀ x ∈ s.grp.notices, c ≤ x.2) → s.core.vacant = false → s.grp.stopped = false →
          ∃ t, happens (.noticeWrite n) s t ∧ t.grp.mbox[i]? = some (.pending s.grp.arrivals) ∧ t.net = s.net ∧
            (∀ x ∈ t.grp.inj, x.id ≠ e.id) ∧ ∀ j, (t.grp.slot j).latch = true)) ∧
    (∀ id e, s.net[n]? = some p → p.body = .notice m id → s.answerTurn n p = true → s.isHere m.source = true → p.copy = false →
      s.grp.twin = none → s.grp.ended = false → (s.portHolds = true ∨ s.grp.stopped = true) → e ∈ s.grp.inj → e.id = id →
      ∃ t, moves (.noticeArrival n) s t ∧ t.net = listDrop s.net n ∧
        t.grp.inj = s.grp.inj.map fun e => if e.id = id then { e with stage := .notice m s.grp.arrivals } else e) ∧
    (∀ id, s.net[n]? = some p → p.body = .notice m id → s.ownEntry m id = false → p.place = .core s.core.at_ → s.turnAt n p = true → p.copy = false →
      (s.portHolds = true → ∃ t, moves (.noticeArrival n) s t ∧ t.net = listDrop s.net n ∧ t.core.held = s.core.held ++ [p]) ∧
      (s.portHolds = false → s.isHere m.source = false ∨ s.grp.isSecondary = true →
        (s.pointer m.source = none → ∃ t, moves (.noticeArrival n) s t ∧
          t.net = listDrop s.net n ++ [{ p with place := .directory, released := false }]) ∧
        ∀ c, s.pointer m.source = some c → m.fwd.toNat < 3 → ∃ t, moves (.noticeArrival n) s t ∧ t.net = listDrop s.net n ++
          [{ p with place := .core c, body := .notice { m with fwd := m.fwd + 1 } id, released := false },
           backTo s p (.nameUpdate m.source s.board.module c)]))

/-- R154, R155 and R199: an idle slot 1 or 2 starts the pending entry of its class that no other beats in priority or, at equal
priority, in age, and whose message class is not masked; g2 to g4 describe the message, and the other registers are zero. -/
def Obligations.HandlerStartsTakeTheBestPendingEntry : Prop :=
  ∀ (s : State) (k : SlotId), k = 1 ∨ k = 2 → let g := s.grp
    let stamp (i c : Nat) : Prop := g.mbox[i]? = some (.pending c)
    let waits (i : Nat) : Prop := (∃ c, stamp i c) ∧ g.entryClass i = some k ∧
      g.classMask.getLsbD (g.well.nat (mboxAddr i) 32 / 2 ^ 88 % 8) = false
    let prio (i : Nat) : Nat := g.handler (g.entryType i) / 2 ^ 27 % 4
    (∀ i, g.candidate k = some i → waits i ∧ ∀ j, waits j → prio j ≤ prio i ∧
      (prio j = prio i → ∀ a b, stamp i a → stamp j b → a ≤ b)) ∧
    (g.candidate k = none → ∀ i, ¬waits i) ∧
    ∀ i, g.candidate k = some i → (g.slot k).active = false → s.core.vacant = false → g.stopped = false → s.portHolds = false →
      ∃ t, happens (.handlerStart k) s t ∧ t.grp.mbox[i]? = some .running ∧ (∀ j, j ≠ i → t.grp.mbox[j]? = g.mbox[j]?) ∧
        (∀ j, j ≠ k → t.grp.slot j = g.slot j) ∧ memory s t ∧
        let new := t.grp.slot k; let h := g.well.nat (mboxAddr i) 32
        new.active = true ∧ new.pc = BitVec.ofNat 24 (g.handler (g.entryType i)) ∧ new.entry = some i ∧ new.latch = false ∧ new.levels = [] ∧
          new.get 2 = BitVec.ofNat 64 (0x800 + 160 * i) ∧ new.get 3 = BitVec.ofNat 64 (h / 2 ^ 40 % 2 ^ 40) ∧
          new.get 4 = BitVec.ofNat 64 (h / 2 ^ 80 % 2 ^ 8 + h / 2 ^ 88 % 2 ^ 3 * 2 ^ 8 + h / 2 ^ 91 % 2 ^ 6 * 2 ^ 11 + h / 2 ^ 113 % 2 ^ 8 * 2 ^ 17) ∧
          ∀ r, r ≠ 2 → r ≠ 3 → r ≠ 4 → new.get r = 0

/-! ## Events of the directory, of memory and of the log -/

/-- R172, R183, R184 and R185: the directory sends a message on to the core of its destination and tells the source, holds it
while the entry moves, returns it when the name is sealed or dead; a posted position lets the held arrivals go; the sump
queues and accepts what comes for a group that is not resident, or applies a register write to its saved image. The model's own are that
what the sump sends leaves by the router of its partition's first sump manager (log 105), that a frame's structured state changes with
its image (log 25), and that a register write of any length fills its row (log 107). -/
def Obligations.DirectoryAndSumpHandleMessages : Prop :=
  ∀ (s : State) (n : Nat) (p : Packet) (m : Msg), s.net[n]? = some p →
    (p.body = .msg m → p.place = .directory → s.turnAt n p = true →
      (∀ e, s.dirEntry m.dest = some e →
        (e.moving = true → ∃ t, moves (.directoryArrival n) s t ∧ t.net = listDrop s.net n ∧
          (t.dirEntry m.dest).map (·.held) = some (e.held ++ [p])) ∧
        (e.moving = false → e.sealed = false → ∀ c, e.residence = .resident c →
          ∃ t, moves (.directoryArrival n) s t ∧ t.net = listDrop s.net n ++ [{ p with place := .core c },
            answeredBy (homeCore m.dest) p 0 (.nameUpdate m.dest s.board.module c)]) ∧
        (e.moving = false → e.sealed = false → e.residence = .preempted ∨ e.residence = .parked ∨ e.residence = .unplaced →
          ∃ t, moves (.directoryArrival n) s t ∧ t.net = listDrop s.net n ++ [{ p with place := .sump }]) ∧
        (e.moving = false → e.sealed = true → e.residence ≠ .released → m.cls ≠ 1 → p.accepted = false →
          ∃ t, moves (.directoryArrival n) s t ∧ t.net = listDrop s.net n ++ [returnedBy (homeCore m.dest) p m 0xFD]) ∧
        (e.moving = false → e.residence = .released → m.cls ≠ 1 →
          ∃ t, moves (.directoryArrival n) s t ∧ t.net = listDrop s.net n ++ [returnedBy (homeCore m.dest) p m 0xFE])) ∧
      (s.dirEntry m.dest = none → m.cls ≠ 1 →
        ∃ t, moves (.directoryArrival n) s t ∧ t.net = listDrop s.net n ++ [returnedBy (homeCore m.dest) p m 0xFE])) ∧
    (∀ name c k e old, p.body = .dirUpdate name c k → s.turnAt n p = true → s.dirEntry name = some e → e.residence = .resident old →
      (e.moves ≤ k → e.moving = true → e.awaits ≤ k →
        ∃ t, moves (.directoryUpdate n) s t ∧ t.net = listDrop s.net n ++ e.held ∧
          t.dirEntry name = some { e with residence := .resident c, moves := k, moving := false, held := [] } ∧
          ∀ x, x ≠ name → t.dirEntry x = s.dirEntry x) ∧
      (k < e.moves → e.moving = false → ∃ t, moves (.directoryUpdate n) s t ∧ t.net = listDrop s.net n ∧ t.dirEntry name = some e)) ∧
    (∀ e, p.body = .msg m → p.place = .sump → s.turnAt n p = true → p.accepted = false → s.dirEntry m.dest = some e → e.sealed = false →
      e.residence ≠ .released → (∀ c, e.residence ≠ .resident c) →
      let here := s.sumpCore m.dest; let accepts := answeredBy here p p.id (.accept m.source p.id)
      let queued (t : State) : Prop := t.net = listDrop s.net n ++ [accepts] ∧ t.sump = s.sump ++ [(m.dest, { p with accepted := true })]
      (m.cls = 0 →
        let waiting := (s.sump.filter fun e => e.1 == m.dest && match e.2.body with | .msg x => x.cls == 0 | _ => false).length
        (waiting < 256 → ∃ t, moves (.sumpArrival n) s t ∧ queued t) ∧
        (256 ≤ waiting → ∃ t, happens (.sumpArrival n) s t ∧ t.sump = s.sump ∧ t.net = listDrop s.net n ++ [returnedBy here p m 0xFF])) ∧
      (m.cls = 1 → ∃ t, moves (.sumpArrival n) s t ∧ t.net = listDrop s.net n ∧ t.sump = s.sump ++ [(m.dest, p)]) ∧
      (m.cls = 2 → ∃ t, moves (.sumpArrival n) s t ∧ queued t) ∧
      (m.cls = 3 → m.seqd = false → ∀ x, s.frames.find? (fun x => x.name = m.dest) = some x →
        let g := s.loadFrame x
        (g.hold.getLsbD m.row.toNat = true → g.busy.getLsbD m.row.toNat = false → x.base + 0x10000 ≤ 2 ^ 39 →
          ∃ (t u : State) (y : SaveFrame), happens (.sumpArrival n) s t ∧ t = u.scanSump m.dest (s.sump.length + 8) ∧ u.net = listDrop s.net n ++ [accepts] ∧
            u.sump = s.sump ∧ u.frames.find? (fun x => x.name = m.dest) = some y ∧ y.grp.row m.row = rowOfBytes m.data ∧
            y.grp.hold.getLsbD m.row.toNat = false ∧ (∀ r, r ≠ m.row → y.grp.row r = g.row r) ∧ y.grp.consumed = g.consumed + 1 ∧
            ∀ j, j < 128 → u.homeByte (0x1000000000 + x.base + 0x8200 + 128 * m.row.toNat + j) = (y.grp.row m.row).extractLsb' (8 * j) 8) ∧
        (g.hold.getLsbD m.row.toNat = true → g.busy.getLsbD m.row.toNat = true →
          ∃ t, moves (.sumpArrival n) s t ∧ queued t) ∧
        (g.hold.getLsbD m.row.toNat = false →
          ∃ t, happens (.sumpArrival n) s t ∧ t.net = listDrop s.net n ++ [returnedBy here p m 0xFF])))

/-- R247, R249, R268, R274, R275 and R339: the translation service's leaf enters the TLB, or kills the group; a load first reads
its bytes and then writes its destination and retires; a line comes whole from its homes; what an access of remote memory has not asked
for it asks for first (R378); an error return traps the slot. -/
def Obligations.MissesLoadsAndFillsReturn : Prop :=
  ∀ (s : State) (tag : Nat) (x : LoadTag),
    (∀ a rest, s.core.misses = a :: rest → s.portClear = true →
      (a.live = false → ∃ t, moves .tlbMissReply s t ∧ t.core.misses = rest ∧ t.core.tlb = s.core.tlb) ∧
      (a.live = true → (s.core.tlbFind a.addr.toNat).isSome = true → ∃ t, moves .tlbMissReply s t ∧ t.core.misses = rest ∧ t.core.tlb = s.core.tlb) ∧
      (a.live = true → s.core.tlbFind a.addr.toNat = none → ∀ page leaf, s.service a.addr.toNat = some (page, leaf) →
        ∃ t, moves .tlbMissReply s t ∧ t.core.misses = rest ∧
          t.core.tlb.head? = some ⟨page, leaf, s.core.relocks a.addr.toNat page⟩ ∧ ∀ e ∈ t.core.tlb.tail, e.page.meets page = false) ∧
      (a.live = true → s.core.tlbFind a.addr.toNat = none → s.service a.addr.toNat = none → s.grp.twin = none → s.core.swap = none →
        ∃ t, happens .tlbMissReply s t ∧ t.core.misses = [] ∧ t.grp.ended = true ∧ t.grp.sealed = true ∧
          ∀ j, (t.grp.slot j).active = false)) ∧
    (s.core.tags.find? (fun t => t.tag == tag) = some x →
      (x.atomic = false → s.core.awaitsOlder x = false → s.portClear = true →
        (∀ bs, x.data = some bs →
          ∃ t, happens (.loadReply tag) s t ∧ t.core.tags.length < s.core.tags.length ∧ (∀ y ∈ t.core.tags, y.tag ≠ tag) ∧
            t.grp.instret = s.grp.instret + 1 ∧ t.grp.inFlight = s.grp.inFlight ∧ memory s t ∧ (x.acquires = true → t.core.view = []) ∧
            (∀ d, x.dest = .g d → (t.grp.slot x.slot).get d = (if d = 0 then 0 else BitVec.ofNat 64 (leNat bs)) ∧
              (∀ r, r ≠ d → (t.grp.slot x.slot).get r = (s.grp.slot x.slot).get r) ∧ (∀ j, j ≠ x.slot → t.grp.slot j = s.grp.slot j) ∧
              t.grp.tile = s.grp.tile) ∧
            ∀ v, x.dest = .v v → t.grp.row v = rowOfBytes bs ∧ (∀ r, r ≠ v → t.grp.row r = s.grp.row r) ∧ t.grp.slots = s.grp.slots) ∧
        (x.data = none → s.awaitsOwn x = false → s.isPoisoned x.bytes = false → s.loadAtPort tag = false → s.core.missingLines x = [] →
          let more := x.unasked fun a => !x.kept.contains (a / 64 * 64)
          (more = [] → ∃ t, moves (.loadReply tag) s t ∧ ∀ y ∈ t.core.tags, y.tag = tag →
            y.data = some (x.bytes.map (s.viewByte x)) ∧ (x.lines = [] → y.data = some (x.bytes.map s.homeByte))) ∧
          (more ≠ [] → ∃ t, moves (.loadReply tag) s t ∧ t.net = s.net ++ asks s tag more))) ∧
      (x.data = none → s.isPoisoned x.bytes = false → s.loadAtPort tag = false → s.portClear = true → ∀ l rest, s.core.missingLines x = l :: rest →
        s.core.readsHome x l = false → (∀ e ∈ s.grp.log, e.overlapsRange l 64 = false) →
        let more := x.unasked fun a => a / 64 * 64 == l
        (more ≠ [] → ∃ t, moves (.viewCacheFill tag) s t ∧ t.net = s.net ++ asks s tag more ∧ t.core.view = s.core.view) ∧
        (more = [] → ∃ t line, moves (.viewCacheFill tag) s t ∧ t.core.view.head? = some line ∧ line.addr = l ∧ line.data.length = 64 ∧
          (∀ i, i < 64 → line.data[i]? = some (s.homeByte (l + i))) ∧ t.core.view.length ≤ 64 ∧ t.core.tags = s.core.tags)) ∧
      (s.portClear = true → (s.grp.slot x.slot).atBoundary = false ∨ s.canTrap = false → (∀ j, j ≠ x.slot → (s.grp.slot j).errors = []) →
        ∃ t, exec (.asyncErrorReturn tag) s = .next t ∧ memory s t ∧ (t.grp.slot x.slot).errors = (s.grp.slot x.slot).errors ++ [(tag, x.vaddr)] ∧
          (∀ y ∈ t.core.tags, y.tag ≠ tag) ∧ ∀ r, (t.grp.slot x.slot).get r = (s.grp.slot x.slot).get r) ∧
      (s.portClear = true → (s.grp.slot x.slot).atBoundary = true → s.canTrap = true → s.grp.twin = none →
        (∀ j, (s.grp.slot j).errors = []) →
        exec (.asyncErrorReturn tag) s = .next ((s.mapCore fun c => { c with tags := c.tags.filter fun y => y.tag != tag }).takeTrap x.slot
          (BitVec.ofNat 64 (2 ^ 63 + tag % 8 * 256 + 0x0E)) (s.grp.slot x.slot).pc x.vaddr)))

/-- R257, R258, R260, R264, R270 and R279: the pump sends the oldest sendable record; a home applies the masked bytes of a record
once, and an atomic as one read and write; acknowledgements free the entries that they cover; the old value of an atomic
reaches its register with an event. -/
def Obligations.RecordsAreSentAppliedAndAcknowledged : Prop :=
  (∀ (s : State) (i : Nat) (e : LogEntry), s.grp.nextSend = some i → s.grp.log[i]? = some e →
    ∃ t, moves .logPumpSend s t ∧ (portModule e.phys = none → t.net = s.net) ∧
      (∀ m, portModule e.phys = some m → t.net = s.net ++
        [{ place := .fabric m, id := 0, source := s.core.at_, body := .access (e.phys / 2 ^ 8 % 2 ^ 7) (.record s.grp.key e.seq) }]) ∧ t.grp.log = listSet s.grp.log i { e with sent := true } ∧
      t.records = s.records ++ [{ writer := s.grp.key, entry := e, stage := .toHome }] ∧ e.sent = false ∧ e.isRecord = true) ∧
  (∀ (s : State), s.grp.spilled = true → s.grp.ringCount < 64 → s.grp.log.length - s.grp.ringCount ≤ s.grp.logCapacity - 64 →
    ∃ t, happens .logRefill s t ∧ spillsOnly s t 0 ∧ t.grp.slots = s.grp.slots ∧ t.others = s.others ∧ t.grp.ringCount = s.grp.ringCount + 1 ∧ t.grp.log.length = s.grp.log.length) ∧
  ∀ (s : State) (n : Nat) (r : FlightRecord), s.records[n]? = some r → let e := r.entry
    (r.stage = .toHome → e.addr % 32 = 0 → s.norm e.addr = e.addr → s.overtakes n = false → s.recordAtPort r = false →
      (s.isDuplicate r = true → (e.kind ≠ .atomic → ∃ t, moves (.recordApply n) s t ∧ t.mem = s.mem ∧
        t.records = listSet s.records n { r with stage := .ack })) ∧
      (s.isDuplicate r = false →
        (e.kind ≠ .atomic → ∃ t, happens (.recordApply n) s t ∧ t.records = listSet s.records n { r with stage := .ack } ∧
          (∀ j, j < 32 → t.homeByte (e.addr + j) = if e.mask.getLsbD j then e.byte j else s.homeByte (e.addr + j)) ∧
          (∀ a, a < e.addr ∨ e.addr + 32 ≤ a → t.mem.read a = s.mem.read a) ∧ t.core = s.core ∧ t.others = s.others) ∧
        (e.kind = .atomic → ∀ w, w < 4 → e.mask = 0xFF#32 <<< (8 * w) →
          let word := (List.range 8).map (e.addr + 8 * w + ·); let old : Word := BitVec.ofNat 64 (leNat (word.map s.homeByte))
          let v : Word := e.data.extractLsb' (64 * w) 64
          let new : Word := match e.aop with
            | .add => old + v
            | .min => if old.toInt ≤ v.toInt then old else v
            | .max => if old.toInt ≤ v.toInt then v else old
            | .and => old &&& v | .or => old ||| v | .xor => old ^^^ v
            | .swap => v
            | .cas => if old = e.cmp then v else old
          (s.isPoisoned word = true → ∃ t, happens (.atomicExecute n) s t ∧ t.mem = s.mem ∧
            t.records = listSet s.records n { r with stage := .atomError }) ∧
          (s.isPoisoned word = false → ∃ t, happens (.atomicExecute n) s t ∧ t.records = listSet s.records n { r with stage := .atomReturn old } ∧
            (∀ j, j < 8 → t.homeByte (e.addr + 8 * w + j) = new.extractLsb' (8 * j) 8) ∧
            (∀ a, a < e.addr + 8 * w ∨ e.addr + 8 * w + 8 ≤ a → t.mem.read a = s.mem.read a) ∧ t.core = s.core ∧ t.others = s.others)))) ∧
    (s.grp.key = r.writer → s.core.vacant = false →
      (r.stage = .ack → s.portClear = true →
        let covered (x : LogEntry) : Prop := x.home = e.home ∧ x.kind ≠ .atomic ∧ seqUpTo x.seq e.seq = true
        ∃ t, happens (.recordAck n) s t ∧ t.records = listDrop s.records n ∧
          (∀ x ∈ t.grp.log, x.isRecord = true → ¬covered x) ∧ (∀ x ∈ s.grp.log, x.isRecord = true → ¬covered x → x ∈ t.grp.log) ∧
          (∀ x ∈ s.grp.log, x.releasing = true → covered x → seqEarlier t.grp.logPub x.seq = false ∨ ∃ y ∈ s.grp.log, y ≠ x ∧ y.releasing = true)) ∧
      (r.stage = .toHome → e.away = true → s.recordAtPort r = false → s.portClear = true →
        ∃ t, happens (.egressAck n) s t ∧ t.records = s.records ∧ (∀ x ∈ t.grp.log, x.isRecord = true → x.seq = e.seq → x.egress = true) ∧
          t.grp.log.length = s.grp.log.length) ∧
      (∀ old x d, r.stage = .atomReturn old → s.portClear = true → s.grp.twin = none → s.core.tags.find? (fun t => t.atomic && t.seq == e.seq) = some x → x.dest = .g d →
        ∃ t, happens (.atomicReturn n) s t ∧ t.records = listDrop s.records n ∧
          (t.grp.slot x.slot).get d = (if d = 0 then 0 else old) ∧ (∀ r, r ≠ d → (t.grp.slot x.slot).get r = (s.grp.slot x.slot).get r) ∧
          (∀ j, (t.grp.slot j).latch = true) ∧ t.grp.instret = s.grp.instret + 1 ∧ t.grp.inFlight = s.grp.inFlight ∧ (x.acquires = true → t.core.view = []) ∧
          (∀ y ∈ t.core.tags, y.tag ≠ x.tag) ∧ ∀ y ∈ t.grp.log, y.kind = .atomic → y.seq ≠ e.seq))

/-! ## Events of the engines -/

/-- R285, R286, R291, R300, R309, R318, R319 and R328: a free unit starts the next job in the cyclic order of the cores; the
first job that can end writes its rows, table or words, leaves the queue and frees its place; a step under .wf empties its operand words
(R296), and the end of a batch's last job ends what its steps lend (R295); a copy moves one word at a time, and waits for a lent range; a
parent takes its child's vector, or finds that it does not match. -/
def Obligations.JobsStartMoveWordsAndComplete : Prop :=
  (∀ (s : State) (u : JobUnit) (j : Job), let o := octetOf s.core.at_
    (∀ c ∈ s.others, c.at_ ≠ s.core.at_) → (s.octet o).unitBusy u = false → s.pick u (s.octet o) = some j →
    ∃ t, happens (.jobStart u) s t ∧ (∃ j' ∈ (t.octet o).jobs, j'.owner = j.owner ∧ j'.serial = j.serial ∧ j'.running = true) ∧
      (u = .matrix → (t.octet o).lastMatrix = octetIndex j.at_) ∧ (u = .copy → (t.octet o).lastCopy = octetIndex j.at_) ∧
      t.core.at_ = s.core.at_ ∧ t.grp.slots = s.grp.slots ∧ memory s t) ∧
  (∀ (s : State) (j : Job) (rest : List Job), let o := octetOf s.core.at_
    j.at_ = s.core.at_ → j.now = s.core.at_ → j.error = 0 → (s.octet o).number = o →
    let gone (t : State) : Prop := (∀ y ∈ (t.octet o).jobs, y.owner = j.owner → y.serial ≠ j.serial) ∧
      ∀ y ∈ (s.octet o).jobs, y.owner ≠ j.owner ∨ y.serial ≠ j.serial → y ∈ (t.octet o).jobs
    ((s.octet o).jobs.filter (fun j => j.running && j.kind.onUnit .matrix) = j :: rest →
      (∀ m, j.kind = .tzero m → ∃ t, happens (.jobComplete .matrix) s t ∧ gone t ∧ memory s t ∧
        ∀ v, t.grp.row v = if m.getLsbD v.toNat then 0 else s.grp.row v) ∧
      (∀ es, j.kind = .dtload es → ∃ t, happens (.jobComplete .matrix) s t ∧ gone t ∧ memory s t ∧ t.grp.dtable = es ∧ t.grp.tile = s.grp.tile) ∧
      (∀ x d, j.kind = .step x → (x.held = some d ∨ (x.held = none ∧ ∃ ca cb, s.owner? j.at_ x.a.owner = some ca ∧
          s.owner? j.at_ x.b.owner = some cb ∧ d = (x.a.rowsIn ca.grp.well, x.b.rowsIn cb.grp.well))) →
        ∃ t, happens (.jobComplete .matrix) s t ∧ gone t ∧ memory s t ∧ t.grp.m = s.grp.m ∧ t.grp.tile = (x.run d.1 d.2 s.grp).tile ∧
          (s.core.vacant = false → x.wf = true → x.lent = true → ∀ y ∈ [x.a, x.b], y.owner = s.grp.name →
            ∀ w, y.lo < 8 * w + 8 → 8 * w < y.hi → t.grp.isFull w = false) ∧
          (s.grp.name = j.owner → (∀ c ∈ s.others, c.at_ ≠ s.core.at_) →
            ∀ r ∈ s.grp.records, r.batch = true → r.state ≠ 3 → (∃ p ∈ r.parts, p.serial = j.serial) → (∀ p ∈ r.parts, p.serial = j.serial ∨ p.done = true) →
              ∀ c ∈ t.cores, ∀ y ∈ c.grp.lent, (j.owner, j.serial) ∉ y.jobs))) ∧
    ((s.octet o).jobs.filter (fun j => j.running && j.kind.onUnit .copy) = j :: rest → ∀ x, j.kind = .copy x → x.next = x.words →
      s.unacked (engineKey s.board.module o) = false →
      ∃ t, happens (.jobComplete .copy) s t ∧ gone t ∧ memory s t) ∧
    (∀ x b, (s.octet o).jobs.find? (fun j => j.running && j.kind.onUnit .copy && !j.kind.isColl) = some j → j.kind = .copy x →
      x.next < x.words → s.copyAtPort j = false →
      (∀ ps w a m, x.src = .shared ps → x.unasked = some w → ps[w]? = some a → portModule a = some m →
        ∃ t, moves .copyWordWrite s t ∧ t.net = s.net ++
          [{ place := .fabric m, id := 0, source := s.core.at_, body := .access (a / 2 ^ 8 % 2 ^ 7) (.copy j.owner j.serial) }]) ∧
      (x.unasked = none → x.dests = [.well s.grp.name b] → x.failed = [false] → s.core.vacant = false → s.grp.sealed = false →
      let at_ := b + x.next / (x.width / 8) * x.dstride + 8 * (x.next % (x.width / 8))
      (j.error = 0 → s.grp.lentAt at_ 8 = true → ∀ v, s.fetchWord j x x.next = .word v → waits .copyWordWrite s) ∧
      (s.grp.lentAt at_ 8 = false → (x.fill = true → s.grp.isFull (at_ / 8) = false) →
      ∀ v, s.fetchWord j x x.next = .word v →
        ∃ t, happens .copyWordWrite s t ∧ t.grp.well = s.grp.well.writeN at_ (keptBytes at_ v) ∧ t.mem = s.mem ∧
          (∃ y ∈ (t.octet o).jobs, y.owner = j.owner ∧ y.serial = j.serial ∧ y.kind = .copy { x with next := x.next + 1 }))))) ∧
  ∀ (s : State) (n : Nat) (v : CollVector) (o : Octet) (j : Job) (x : CollJob), s.collVectors[n]? = some v →
    (s.octets.map (·.number)).Nodup → (∀ y ∈ s.octets, (y.jobs.map fun k => (k.owner, k.serial)).Nodup) → o ∈ s.octets → j ∈ o.jobs →
    s.memberJobs v.coll v.parent = [(o.number, j, x)] → (∀ c, s.coreAt j.at_ = some c → c.grp.twin = none) → v.member ≠ v.parent →
    let same := v.block.op = x.block.op ∧ v.block.fn = x.block.fn ∧ v.block.type = x.block.type ∧ v.block.count = x.block.count ∧
      v.block.tag = x.block.tag ∧ v.child < x.nchild ∧ ∀ p ∈ x.parts, p.child ≠ v.child
    (¬same → ∃ t, moves (.collChildArrival n) s t ∧ (∀ y ∈ t.collVectors, y ∈ s.collVectors) ∧ t.octets.map (·.number) = s.octets.map (·.number) ∧
      (∃ y ∈ t.octets, y.number = o.number ∧ { j with error := 6 } ∈ y.jobs) ∧
      ∀ y ∈ s.octets, ∀ k ∈ y.jobs, (∀ z, k.kind = .coll z → z.coll ≠ x.coll) → ∃ y' ∈ t.octets, y'.number = y.number ∧ k ∈ y'.jobs) ∧
    -- the parent has the vector, the child's job knows it, and no other job changes
    (same → ∃ (t : State) (z : CollJob), moves (.collChildArrival n) s t ∧ z.parts = x.parts ++ [{ child := v.child, members := v.members, vectors := v.vectors }] ∧
      let memberOf (k : Job) : Option CollJob := match k.kind with
        | .coll y => if k.running = true ∧ k.error = 0 ∧ y.coll = v.coll then some y else none
        | _ => none
      let after (k : Job) : Job :=
        match memberOf k with
        | some u => if u.member = v.parent then { k with kind := .coll z } else if u.member = v.member then { k with kind := .coll { u with taken := true } } else k
        | none => k
      t.octets = s.octets.map fun y => { y with jobs := y.jobs.map after })

/-! ## Events of the annealer -/

/-- R211, R214, R215, R224, R226 and R231, and of R208 and R225 what follows: a round begins at its instant, takes its pending settings, and sends weights; an
update is stored at an open end of its sender's peer, held at a locked port, or goes on to where its group is; a phase lists its pairs; the round's end writes a trace entry and
cools; a commit ends when every group stands at its target, or after 4,096 phases. R229 and R352: the latest write to each register and
weight takes effect at the round's start. The model's own are the way of an update for a group that is not here (log 73), what counts as
away from its target (log 17), that the end of a commit ends the round that runs, without a trace entry (log 126), that one round begins
for all the instants that have passed (log 109), and that the round's end adds 1 to round and head also after an ANCFG inside it (log 111).
R212 to R214, R216 and R224: the lower core decides its pair: a skipped pair counts as busy, an exchange that is not accepted as
rejected; an accepted one changes the shadow table in a dry run, and otherwise locks both cores. That the delta of a pair is that of its
groups at the phase's start is the model's choice (log 135). -/
def Obligations.AnnealingRoundsRunAndPairsDecide : Prop :=
  (∀ (s : State), let a := s.ann
    (a.inRound = false → (a.instant < s.cycle / a.period.toNat * a.period.toNat ∨ a.mode = .commit) → s.commitOver = false →
      (∀ x ∈ s.others, x.at_ ≠ s.core.at_) →
      -- the latest of the writes that wait to register n, if there is one, and else what stands there; bits [w - 1:0]
      let latest (p : Nat → Bool) : Option Word := (a.pendingRegs.reverse.find? fun e => p e.1).map (·.2)
      let takes (n w : Nat) (old : BitVec w) : BitVec w := match latest (· == n) with | some v => v.extractLsb' 0 w | none => old
      let trace := latest fun n => decide (n < 0x30 ∨ 0x34 < n)
      ∃ t, happens .roundInstant s t ∧ t.ann.instant = s.cycle ∧ t.ann.reloadTemp = false ∧ t.grp.slots = s.grp.slots ∧
        ((∀ x ∈ s.frames, ∀ w ∈ a.pendingWeights, x.name ≠ w.1) → memory s t) ∧ t.ann.pendingRegs = [] ∧ t.ann.pendingWeights = [] ∧
        t.ann.tempStart = takes 0x30 32 a.tempStart ∧ t.ann.alpha = takes 0x31 8 a.alpha ∧ t.ann.floor = takes 0x32 32 a.floor ∧
        t.ann.seed = takes 0x33 32 a.seed ∧ t.ann.period = takes 0x34 32 a.period ∧
        t.ann.tempCurrent = (if a.reloadTemp then takes 0x30 32 a.tempStart else a.tempCurrent) ∧
        t.ann.wsrc = (match trace with | some v => v.getLsbD 2 | none => a.wsrc) ∧
        t.ann.mode = (match trace with
          | some v => if v.extractLsb' 0 2 = 1 then .live else if v.extractLsb' 0 2 = 2 then .dryRun else .off
          | none => a.mode) ∧
        (t.ann.mode = .off → t.ann.inRound = false ∧ t.net = s.net) ∧
        (t.ann.mode ≠ .off → t.ann.inRound = true ∧ t.ann.roundMode = t.ann.mode ∧ t.ann.phase = 0 ∧ t.ann.pairs = [] ∧ t.ann.accepted = 0 ∧
          t.ann.rejected = 0 ∧ t.ann.busy = 0 ∧ t.ann.aborted = 0) ∧
        -- the weights that ANCFG has written, and with wsrc = 0 what is then measured
        (s.core.vacant = false → s.grp.twin = none → (∀ x ∈ s.frames, x.name ≠ s.grp.name) → s.grp.ended = false →
          ∀ (c : BitVec 6) (e : AnnEntry), (s.grp.chan c).isOpen = true → s.grp.ann[c.toNat]? = some e →
            let w := match a.pendingWeights.reverse.find? (fun x => x.1 = s.grp.name ∧ x.2.1 = c.toNat) with | some x => x.2.2 | none => e.w
            t.grp.ann[c.toNat]? = some (if t.ann.mode = .off then { e with w := w }
              else { e with w := if t.ann.wsrc then w else (w + e.count) / 2, count := 0 }))) ∧
    (∀ n p dst name c q at_ e, s.net[n]? = some p → p.place = .core s.core.at_ → s.turnAt n p = true → s.portHolds = false →
      s.isHere dst = true → s.grp.twin = none → (s.grp.chan c).isOpen = true →
      (s.grp.chan c).peer = name → s.grp.ann[c.toNat]? = some e →
      (p.body = .weight dst name c q at_ → ∃ t, happens (.weightUpdateArrival n) s t ∧ t.net = listDrop s.net n ∧
        t.grp.ann[c.toNat]? = some { e with q := q, peer := some at_ } ∧ (∀ j, j ≠ c.toNat → t.grp.ann[j]? = s.grp.ann[j]?)) ∧
      (p.body = .position dst name c at_ → ∃ t, happens (.positionUpdateArrival n) s t ∧ t.net = listDrop s.net n ∧
        t.grp.ann[c.toNat]? = some { e with peer := some at_ } ∧ t.core.names.head? = some (name, (name.extractLsb' 28 12).toNat, at_))) ∧
    (∀ n p dst name c q at_, s.net[n]? = some p → p.place = .core s.core.at_ → s.turnAt n p = true →
      ∀ i, (i = .weightUpdateArrival n ∧ p.body = .weight dst name c q at_) ∨ (i = .positionUpdateArrival n ∧ p.body = .position dst name c at_) →
      (s.portHolds = true → ∃ t, moves i s t ∧ t.net = listDrop s.net n ∧ t.core.held = s.core.held ++ [p]) ∧
      (s.portHolds = false → s.isHere dst = false → ∃ t, moves i s t ∧ t.core = s.core ∧
        t.net = listDrop s.net n ++ [{ p with released := false, place := match s.pointer dst with | some c => .core c | none => .directory }])) ∧
    (a.inRound = true → a.phase < 4 → a.pairs = [] → s.swapping = false → s.updateOut (fun b => b.isWeight || b.isPosition) = false →
      s.commitStops = false → ∃ t, moves .phaseStart s t ∧ t.net = s.net ∧ t.ann.phase = a.phase + 1 ∧
        (∀ p ∈ t.ann.pairs, isLower a.phase p.1 = true ∧ s.considered p.1 = true ∧ s.considered (upperOf a.phase p.1) = true) ∧
        (a.phase = 0 → t.ann.energy = s.energy) ∧
        (a.phase = 0 → a.roundMode = .dryRun → t.ann.best = true ∧ (a.best = true → t.ann.bestEnergy = min a.bestEnergy s.energy))) ∧
    (a.inRound = true → 4 ≤ a.phase → a.pairs = [] → s.swapping = false → s.updateOut Traffic.isPosition = false →
      ∃ t, moves .roundEnd s t ∧ t.ann.inRound = false ∧ t.ann.round = a.round + 1 ∧ t.ann.head = a.head + 1 ∧
        (a.head.toNat < a.ring.length → ∃ w, t.ann.ring[a.head.toNat]? = some w ∧ w.extractLsb' 160 24 = a.round ∧
          (w.extractLsb' 192 64).toNat = a.energy % 2 ^ 64 ∧ (w.extractLsb' 128 32).toNat = a.accepted % 2 ^ 32 ∧
          (w.extractLsb' 96 32).toNat = a.rejected % 2 ^ 32 ∧ (w.extractLsb' 64 32).toNat = a.busy % 2 ^ 32 ∧
          (w.extractLsb' 32 32).toNat = a.aborted % 2 ^ 32) ∧
        t.ann.tempCurrent.toNat = max a.floor.toNat (a.tempCurrent.toNat * a.alpha.toNat / 256)) ∧
    (a.mode = .commit → s.away = 0 ∨ (4096 ≤ a.phases ∧ a.pairs = []) →
      let ended (t : State) : Prop := moves .commitEnd s t ∧ t.ann.mode = .off ∧ t.ann.best = false ∧ t.ann.left = BitVec.ofNat 20 s.away
      (a.inRound = false → ∃ t, ended t) ∧
      (a.inRound = true → a.roundMode = .commit → waits .phaseStart s ∧ (∀ c, waits (.pairDecision c) s) ∧
        (s.swapping = false → a.phase < 4 ∨ a.pairs ≠ [] → ∃ t, ended t ∧ t.ann.inRound = false ∧ t.ann.pairs = [] ∧ t.ann.ring = a.ring ∧
          t.ann.tempCurrent = a.tempCurrent)))) ∧
  ∀ (s : State) (c : Coord) (delta : Int) (g h : Group), let a := s.ann; let d := upperOf (a.phase - 1) c
    a.pairs.find? (fun e => e.1 = c) = some (c, delta) → s.groupAt c = some g → s.groupAt d = some h → a.roundMode ≠ .commit →
    let accepted := annealAccepts delta a.tempCurrent.toNat (annealDraw a.seed a.round.toNat (a.phase - 1) c)
    let decided (t : State) : Prop := ∀ e ∈ t.ann.pairs, e.1 ≠ c
    (s.skipped c d g h = true → ∃ t, moves (.pairDecision c) s t ∧ decided t ∧ t.ann.busy = a.busy + 1) ∧
    (s.skipped c d g h = false → accepted = false → ∃ t, moves (.pairDecision c) s t ∧ decided t ∧ t.ann.rejected = a.rejected + 1) ∧
    (s.skipped c d g h = false → accepted = true → a.roundMode = .dryRun → g.name ≠ h.name →
      ∃ t, moves (.pairDecision c) s t ∧ decided t ∧ t.ann.accepted = a.accepted + 1 ∧
        ∀ e ∈ a.shadow, ∃ e' ∈ t.ann.shadow, e'.1 = e.1 ∧ e'.2 = if e.1 = g.name then d else if e.1 = h.name then c else e.2) ∧
    (s.skipped c d g h = false → accepted = true → a.roundMode = .live → s.core.at_ = c → c ≠ d → s.inSwap c d = false →
      (∀ x ∈ s.others, x.at_ ≠ c) → s.core.asleep = none → (∀ x, s.coreAt d = some x → x.asleep = none) →
      ∃ t x y, happens (.pairDecision c) s t ∧ decided t ∧ t.coreAt c = some x ∧ t.coreAt d = some y ∧
        x.swap = some { partner := d, since := s.cycle, stage := .locked } ∧ y.swap = some { partner := c, since := s.cycle, stage := .locked } ∧
        x.grp = s.grp ∧ memory s t)

/-- R217 to R222, R231 and R232: a swap goes from its lock through freeze and drain to the install, where the groups change places,
positions, pointers and caches, and both cores resume with what their ports held; it aborts, with both contexts in place,
when the pair would now be skipped at the freeze, as when a group has left, and when 4,096 cycles have passed before the install. An
evacuation moves one group to a vacant core (R395), and so does, by the model's choice (log 122), a swap whose other group's launch has
ended since the freeze; that a round counts the swaps of an evacuation is its choice too (log 136). -/
def Obligations.SwapsFreezeDrainInstallAndResume : Prop :=
  ∀ (s : State) (w : SwapState) (d : Core), s.core.swap = some w → s.coreAt w.partner = some d → w.partner ≠ s.core.at_ → d.at_ = w.partner →
    (∀ x ∈ s.others, x.at_ ≠ s.core.at_) → s.core.vacant = false → d.swap.isSome = true →
    let a := s.core.at_; let b := d.at_; let g := s.grp; let h := d.grp
    let stage (t : State) (c : Coord) (k : SwapStage) : Prop := ∃ x, t.coreAt c = some x ∧ x.swap.map (·.stage) = some k
    let aborts (i : Instr) : Prop := ∃ t, happens i s t ∧ t.core.swap = none ∧ (∀ x, t.coreAt b = some x → x.swap = none) ∧ t.grp.posn = g.posn ∧
      t.grp.well = g.well ∧ t.core.held = [] ∧ t.ann.aborted = s.ann.aborted + 1
    (w.stage = .locked → s.core.quiet = true → d.quiet = true →
      (d.vacant = w.single → s.skippedIn false true a b g h = false →
        ∃ t, happens .swapFreezeEnd s t ∧ stage t a .frozen ∧ stage t b .frozen ∧ t.grp = g) ∧
      (d.vacant ≠ w.single ∨ s.skippedIn false true a b g h = true → aborts .swapFreezeEnd)) ∧
    (w.stage = .frozen → g.drained = true → h.drained = true → ∃ t, happens .swapDrainEnd s t ∧ stage t a .drained ∧ stage t b .drained ∧ t.grp = g) ∧
    (w.stage = .drained → s.cycle < w.since + 4096 → d.vacant = true →
      ∃ t x y, happens .swapInstall s t ∧ t.coreAt a = some x ∧ t.coreAt b = some y ∧ x.vacant = true ∧ y.vacant = false ∧
        y.grp = g.movedTo b ∧ y.tlb = [] ∧ y.view = [] ∧ x.forwards.getLast? = some { name := g.name, target := b, since := s.cycle } ∧
        t.mem = s.mem) ∧
    (w.stage = .drained → s.cycle < w.since + 4096 → d.vacant = false →
      ∃ t x y, happens .swapInstall s t ∧ t.coreAt a = some x ∧ t.coreAt b = some y ∧ stage t a .installed ∧ stage t b .installed ∧
        x.grp = h.movedTo a ∧ y.grp = g.movedTo b ∧ x.tlb = [] ∧ y.tlb = [] ∧ x.view = [] ∧ y.view = [] ∧ x.frontier = [] ∧ y.frontier = [] ∧
        x.names.head? = some (g.name, s.board.module, b) ∧ y.names.head? = some (h.name, s.board.module, a) ∧
        x.forwards.getLast? = some { name := g.name, target := b, since := s.cycle } ∧
        y.forwards.getLast? = some { name := h.name, target := a, since := s.cycle } ∧ x.forwards.length ≤ 4 ∧ y.forwards.length ≤ 4 ∧
        t.mem = s.mem) ∧
    (w.stage = .installed →
      ∃ t, happens .swapResume s t ∧ t.core.swap = none ∧ t.core.held = [] ∧ t.core.fills = [] ∧
        (∀ x, t.coreAt b = some x → x.swap = none) ∧ (∀ p ∈ s.core.held, { p with place := .core a, released := true } ∈ t.net) ∧
        ∀ j, (t.grp.slot j).latch = true ∧ (t.grp.slot j).wait = 0) ∧
    (w.stage ≠ .installed → w.since + 4096 ≤ s.cycle → aborts .swapAbort) ∧
    ∀ n f, s.core.forwards[n]? = some f → f.since + 4096 ≤ s.cycle →
      ∃ t, moves (.forwardPointerExpiry n) s t ∧ t.core.forwards = listDrop s.core.forwards n

/-! ## Events of the host, the firmware and the launches -/

/-- R384, R385, R389, R391 to R394, R365 and R398: what the host and the hypervisor write, and what boots. The model's own are that memory
survives a module reset and BAR2 moves eight bytes (log 65), that these events act for the focus core's partition (log 66), that a queue
takes the lowest unused notify page of its function (log 123), the roles and number of a new partition (log 83, 84, 97), that the core tests find nothing new (log 96), that the gang which runs
goes on until the next instant of a rewritten schedule (log 116), and when the collective unit's numbers restart (log 117); what verifies
and what is active are free values (log 91). -/
def Obligations.HostWritesAndFirmwareUpdatesTakeEffect : Prop :=
  ∀ (s : State) (id base log2 offset version port fn part origin length gangs : Nat) (index : BitVec 32) (system : Bool) (v : Word) (tail : BitVec 16)
    (dies inactive : List Nat) (image : PatchImage) (z : Int),
    (∀ q, s.queue? id = some q →
      (∃ t, moves (.notifyWrite id index) s t ∧ (∀ x, x ≠ id → t.queue? x = s.queue? x) ∧ t.queue? id = some
        (if q.gated then { q with latched := index, pending := true } else { q with latched := index, announced := index, pending := false })) ∧
      (∃ t, moves (.apertureGate id) s t ∧ t.queue? id = some { q with gated := true } ∧ ∀ x, x ≠ id → t.queue? x = s.queue? x) ∧
      ∃ t, moves (.apertureWake id) s t ∧ (∀ x, x ≠ id → t.queue? x = s.queue? x) ∧ t.queue? id = some
        (if q.pending then { q with gated := false, announced := q.latched, pending := false } else { q with gated := false })) ∧
    (∀ f, s.function? port fn = some f →
      (log2 ≤ 16 → s.queue? id = none → (system = true → fn = 0) → s.board.failed = false → ∀ page, page < 14336 →
        (∀ q ∈ s.queues, q.port = port → q.fn = fn → q.page ≠ page) → (∀ k, k < page → ∃ q ∈ s.queues, q.port = port ∧ q.fn = fn ∧ q.page = k) →
        ∃ t, moves (.launchQueueCreate id base log2 ⟨system, port, fn⟩) s t ∧ t.queue? id = some
          { id := id, part := if fn = 0 then s.part.id else f.part, port := port, fn := fn, page := page, base := base, log2 := log2,
            system := system, readIdx := 0, latched := 0, pending := false, announced := 0, gated := false, stopped := false, pendingRel := [] }) ∧
      (offset < f.base ∨ f.base + f.size < offset + 8 → ∀ w, waits (.hostBar2Access w ⟨port, fn, offset⟩ v) s) ∧
      (f.base ≤ offset → offset + 8 ≤ f.base + f.size → offset + 8 ≤ 2 ^ 39 →
        (∃ t, moves (.hostBar2Access false ⟨port, fn, offset⟩ v) s t ∧ t.core = s.core ∧
          t.hostData = BitVec.ofNat 64 (leNat (s.mem.readN (0x1000000000 + offset) 8))) ∧
        ∃ t, happens (.hostBar2Access true ⟨port, fn, offset⟩ v) s t ∧ t.core = s.core ∧ t.others = s.others ∧
          (∀ j, j < 8 → t.mem.read (0x1000000000 + offset + j) = v.extractLsb' (8 * j) 8) ∧
          ∀ a, a < 0x1000000000 + offset ∨ 0x1000000000 + offset + 8 ≤ a → t.mem.read a = s.mem.read a)) ∧
    (1000000 ≤ length → length ≤ 10000000000 → length % 1000000 = 0 → 1 ≤ gangs → gangs ≤ 64 → s.board.failed = false →
      ∃ t, moves (.gangScheduleWrite origin length gangs) s t ∧
        t.part.gang = { s.part.gang with origin := origin, length := length, gangs := gangs, slice := -1 }) ∧
    (s.board.failed = false → ∃ t, moves (.cntTailWrite tail) s t ∧ t.part.ctr = { s.part.ctr with tail := tail }) ∧
    (counterOffset offset = true → s.board.failed = false → ∃ t, moves (.counterRegisterWrite offset v) s t ∧
      t.part.ctr = { s.part.ctr with pending := s.part.ctr.pending ++ [(offset, v)] }) ∧
    (s.board.failed = false → ∃ t, moves (.ptpMessage z) s t ∧ t.ptpOffset = s.ptpOffset + z ∧ t.core = s.core) ∧
    (s.board.failed = true → ∀ owner : QueueOwner, waits (.launchQueueCreate id base log2 owner) s ∧ waits (.kernelReplacement ⟨version, true⟩) s ∧
      waits (.hotPatch base image inactive) s ∧ waits (.partitionConfig part dies) s ∧ waits (.gangScheduleWrite origin length gangs) s ∧
      waits (.cntTailWrite tail) s ∧ waits (.counterRegisterWrite offset v) s ∧ waits .counterSnapshot s ∧ waits (.ptpMessage z) s ∧
      ∀ c slack, waits (.slackMeasurement c slack) s) ∧
    (s.board.method = .kernel → s.board.failed = false → exec (.kernelReplacement ⟨version, false⟩) s = .next s ∧
      ∃ t p, moves (.kernelReplacement ⟨version, true⟩) s t ∧ t.board.kernel = version ∧ t.board.patches = [] ∧ t.launches = s.launches ∧
        t.core = s.core ∧ t.flash.kernel = version ∧ t.board.preserved = some p ∧ p.queues = s.queues.map (·.id) ∧
        t.board.retired = t.flash.retired ∧ ∀ c, c ∈ t.flash.retired ↔ ∃ x ∈ s.cores, x.at_ = c ∧ x.retired = true) ∧
    (s.board.method = .patch → s.board.failed = false → (base ≠ s.board.kernel ∨ image.signed = false → exec (.hotPatch base image inactive) s = .next s) ∧
      (image.signed = true → (∃ f ∈ inactive, Config.firmwareActive s.ticks f = true) → waits (.hotPatch s.board.kernel image inactive) s) ∧
      (image.signed = true → (∀ f ∈ inactive, Config.firmwareActive s.ticks f = false) → ∃ t, moves (.hotPatch s.board.kernel image inactive) s t ∧
        t.board.kernel = s.board.kernel ∧ (∀ e ∈ image.entries, (image.role, e) ∈ t.board.patches) ∧
        (∀ c, c ∈ t.flash.retired ↔ ∃ x ∈ s.cores, x.at_ = c ∧ x.retired = true) ∧ t.board.retired = t.flash.retired ∧
        ∀ r e, (r = image.role → ∀ x ∈ image.entries, x.1 ≠ e.1) → ((r, e) ∈ t.board.patches ↔ (r, e) ∈ s.board.patches))) ∧
    (dies ≠ [] → (∀ d ∈ dies, d < 64) → noRepeat dies = true → part ≠ s.part0.id → part < 64 → s.board.failed = false →
      (∀ c ∈ s.cores, c.vacant = true ∧ c.swap = none) →
      (∀ d ∈ s.cisternDies ++ s.poolDies, d ∉ dies ∧ ∀ p ∈ s.parts, p.id = part → d ∉ p.dies) →
      ∃ t, moves (.partitionConfig part dies) s t ∧ (∀ c, dieOf c ∈ dies → t.partAt c =
          { Partition.reset part dies with
            cistArea := ((s.board.partitions.find? fun e => e.1 = part).map (·.2.2)).getD 1, ann := { Annealer.reset with instant := s.cycle } }) ∧
        t.unitTail = (if s.colls = [] ∧ s.unitLog = [] then 0 else s.unitTail) ∧ t.unitLog = s.unitLog ∧ (∀ e ∈ s.board.partRoles part, e ∈ t.board.roles) ∧ ∀ o ∈ t.octets, dieOfOctet o.number ∈ dies → o.copyTail = 0) ∧
    ∃ t, let verified := Config.verifies s.ticks; exec .moduleReset s = .next t ∧ t.cycle = 0 ∧ t.mem = s.mem ∧ t.launches = [] ∧ t.queues = [] ∧ t.net = [] ∧
      t.directory = [] ∧ t.frames = [] ∧ t.records = [] ∧ t.octets = [] ∧ (∀ c ∈ t.cores, c.vacant = true ∧ c.grp = Group.reset ∧ c.tlb = []) ∧
      t.part0.ann = Annealer.reset ∧ t.part0.ctr = CounterPage.reset ∧ t.flash = s.flash ∧ t.board.failed = !verified ∧
      (verified = true → (∀ c ∈ s.flash.retired, ∃ x ∈ t.cores, x.at_ = c ∧ x.retired = true) ∧ t.board.locked = true ∧
        t.board.module = s.flash.module ∧ t.board.pod = s.flash.pod ∧ t.board.kernel = s.flash.kernel ∧ t.board.roles = s.flash.roles ∧
        t.board.margins = s.flash.margins ∧ t.board.egress = s.flash.egress ∧ t.board.patches = [] ∧
        ∀ f ∈ t.functions, ∃ w ∈ s.flash.windows, w.port = f.port ∧ w.number = f.number ∧ w.base = f.base ∧ w.size = f.size) ∧
      (verified = false → t.board.roles = [] ∧ t.board.partitions = [] ∧ (∀ f ∈ t.functions, f.number = 0 ∧ f.size = 0) ∧
        t.functions.map (·.port) = [0, 1] ∧ ∀ x ∈ t.ports, x.failed = true)

/-- R29, R155, R160, R161, R164, R386 to R389: a packet completes at once, is refused, or becomes a launch; admission issues names and
places every ordinal or makes it wait; a new group starts main with its launch argument, a message of type 0xF0 from its own name; a waiting group is placed; blocked
groups park; two equal idle sweeps end the launch. The model's own are the size of a save area, 45,056 bytes for every group (log 52),
the ranges mapped for a partition, in which an offset may lie too (log 82), the refusal, at admission, of a launch whose instances the
partition no longer holds (log 54), the entry of an empty argument block as all zero (log 95), and one sweep for all the multiples of
65,536 cycles that have passed (log 56). -/
def Obligations.LaunchesAreTakenAdmittedAndEnded : Prop :=
  (∀ (s : State) (queue : Nat) (q : LaunchQueue) (p : PacketFields), s.packetDue queue = some (q, p) →
    let raised : Interrupt := { port := q.port, fn := q.fn, vector := 0 }
    let completed (t : State) (status : Nat) : Prop :=
      t.interrupts = s.interrupts ++ [raised] ∧ leNat (t.mem.readN (0x1000000000 + p.completion) 4) = status ∧ t.launches = s.launches ∧
        t.queue? queue = some { q with readIdx := q.readIdx + 1 }
    (q.overrun = true → ∃ t, happens (.launchPacket queue) s t ∧ t.queue? queue = some { q with stopped := true } ∧ t.launches = s.launches ∧
      t.interrupts = s.interrupts ++ [raised]) ∧
    (q.overrun = false → p.ok (s.partById q.part).gang.gangs = false ∨ s.offsetsOk q.part p = false ∨ s.saveOk p = false →
      p.completion + 32 ≤ 2 ^ 39 → ∃ t, happens (.launchPacket queue) s t ∧ completed t 1) ∧
    (q.overrun = false → p.ok (s.partById q.part).gang.gangs = true → s.offsetsOk q.part p = true → s.saveOk p = true → q.fenced p = false →
      (p.kind = 0 → s.unstarted queue = false → ∃ t, happens (.launchPacket queue) s t ∧ completed t 0) ∧
      (p.kind = 0 → s.unstarted queue = true → waits (.launchPacket queue) s) ∧
      (p.kind = 1 → s.parseLaunch q p = none → ∃ t, happens (.launchPacket queue) s t ∧ completed t 1) ∧
      (p.kind = 1 → ∀ l, s.parseLaunch q p = some l → ∃ t, moves (.launchPacket queue) s t ∧ t.launches = s.launches ++ [l] ∧ l.id = s.nextLaunch ∧
        l.admitted = false ∧ t.nextLaunch = s.nextLaunch + 1 ∧ (t.queue? queue).map (·.readIdx) = some (q.readIdx + 1)))) ∧
  (∀ (s : State) (l : Launch) (b : Nat) (gen : BitVec 8) (leases : List Lease), s.launches.find? (fun x => x.id = l.id) = some l →
    l.admitted = false → l.ended = false → let gang := (s.partById l.part).gang
    l.gang = (if gang.changing = true then gang.last else gang.current) → gang.changing = true ∨ s.resumesFirst l.part = false →
    (∀ x ∈ s.launches, x.queue = l.queue → x.id < l.id → x.admitted = true ∨ x.ended = true) →
    -- the partition no longer holds the instances that the launch asks for
    (s.instancesFor l.part l.groups l.levels = none → l.completion + 32 ≤ 2 ^ 39 → ∃ t, happens (.admission l.id) s t ∧
      (∀ x ∈ t.launches, x.id = l.id → x.ended = true) ∧ leNat (t.mem.readN (0x1000000000 + l.completion) 4) = 1 ∧ t.directory = s.directory ∧
      ∀ q, s.queue? l.queue = some q → t.interrupts = s.interrupts ++ [{ port := q.port, fn := q.fn, vector := 0 }]) ∧
    ∀ is, s.instancesFor l.part l.groups l.levels = some is → let l1 : Launch := { l with instances := is }
    s.issueNames l.groups = some (b, gen) → s.backLeases l1 (s.poolUsed l1) s.memUsed 0 l.leases = some leases →
    ∃ t l', happens (.admission l.id) s t ∧ t.launches.find? (fun x => x.id = l.id) = some l' ∧ l'.admitted = true ∧ l'.base = b ∧ l'.gen = gen ∧
      t.lastGen = gen ∧ ∀ o, o < l.groups → o ∈ l'.unplaced ∨
        ∃ c, (t.dirEntry (l'.name s.board.module o)).map (·.residence) = some (.resident c)) ∧
  (∀ (l : Launch) (device ord : Nat) (c : Coord) (spillOvf logOvf logLim sent consumed : Nat), ord < 2 ^ 32 → l.mbox ≠ 0 →
    let g := l.newGroup device ord c spillOvf logOvf logLim sent consumed; let main := g.slot 0
    main.active = true ∧ main.pc = ((l.kindOf ord).map (·.entry)).getD 0 ∧ main.get 2 = 0x800 ∧ main.get 3 = (l.name device ord).setWidth 64 ∧
      main.get 4 = BitVec.ofNat 64 ord ∧ (∀ r, r ≠ 2 → r ≠ 3 → r ≠ 4 → main.get r = 0) ∧ (∀ k, k ≠ 0 → (g.slot k).active = false) ∧
      g.name = l.name device ord ∧ g.mbox.length = l.mbox ∧ g.mbox[0]? = some .running ∧
      -- an empty block leaves every byte of the entry zero
      (∀ j b, l.args ≠ [] → (Msg.plain (l.name device ord) (l.name device ord) 0xF0 0 l.args).image[j]? = some b → g.well.read (mboxAddr 0 + j) = b) ∧
      (∀ j, l.args = [] → j < 160 → g.well.read (mboxAddr 0 + j) = 0) ∧ g.sent = sent ∧ g.consumed = consumed ∧ g.logTail = 0 ∧ g.fe = BitVec.allOnes 4096 ∧
      (∀ v, g.row v = 0) ∧ g.hold = 0) ∧
  (∀ (s : State) (l : Launch) (o : Nat), s.launches.find? (fun x => x.id = l.id) = some l → l.ended = false → s.gangRuns l = true →
    (l.admitted = true → s.resumesFirst l.part = false → s.nextPlaced l = some o →
      s.frames.find? (fun x => x.name = l.name s.board.module o) = none → (s.placeNew l o false).isSome = true →
      ∃ t, happens (.placeUnplaced l.id) s t ∧ ∀ x ∈ t.launches, x.id = l.id → o ∉ x.unplaced) ∧
    (s.nextPlaced l = none → (∀ c ∈ s.groupsOf l.id, 4096 ≤ c.grp.blockedFor ∧ (c.grp.sysact = true → c.grp.preempt = some true)) →
      ∀ c, (l.unserved l.unplaced (((s.groupsOf l.id).filter fun c => c.grp.preempt == some true).map (·.at_))).findSome? (s.toPark l) = some c →
        ∃ t x, happens (.oversubscriptionPark l.id) s t ∧ t.coreAt c.at_ = some x ∧ x.grp.preempt = some true)) ∧
  ∀ (s : State), (∀ c ∈ s.others, c.at_ ≠ s.core.at_) →
    (s.lastSweep < s.cycle / 65536 * 65536 → (∀ l ∈ s.launches, l.sample = none) →
      ∃ t, moves .sweepStart s t ∧ t.lastSweep = s.cycle / 65536 * 65536 ∧ t.launches.length = s.launches.length ∧
        ∀ (i : Nat) (l : Launch), s.launches[i]? = some l → t.launches[i]? = some (if l.admitted && !l.ended then { l with sample := some (s.sampleOf l) } else l)) ∧
    ∀ (l : Launch) (x : Bool × Nat × Nat), s.launches.find? (fun y => y.id = l.id) = some l → l.sample = some x →
      ((x.1 = false ∨ x.2.1 ≠ x.2.2 ∨ l.previous ≠ some x) →
        ∃ t, moves (.sweepResult l.id) s t ∧ t.launches.find? (fun y => y.id = l.id) = some { l with previous := some x, sample := none }) ∧
      (x.1 = true → x.2.1 = x.2.2 → l.previous = some x →
        ∃ t, happens (.sweepResult l.id) s t ∧ (∀ y ∈ t.launches, y.id = l.id → y.ended = true) ∧
          t.interrupts = s.interrupts ++ ((s.queue? l.queue).map fun q => { port := q.port, fn := q.fn, vector := 0 }).toList ∧
          (∀ c ∈ t.cores, c.vacant = false → c.grp.launch ≠ l.id) ∧
          ∀ o e, o < l.groups → t.dirEntry (l.name s.board.module o) = some e → e.residence = .released)

/-! ## Events of the supervisor -/

/-- R204, R335, R339, R343 to R349, R353, R354 and R357: slot 3 takes the oldest waiting trap; a kill seals the name, stops the group and
drops its jobs, and without restart ends it; a restart, while the gang of its launch runs (R366), unseals it and starts its activations again; confirmations, barriers
and wakes let a waiting slot go on; twin hashes that agree are counted, and others kill the pair. -/
def Obligations.KillsRestartsAndConfirmationsHappen : Prop :=
  ∀ (s : State) (k : SlotId),
    (∀ j rest, s.grp.trapQueue = j :: rest → s.core.vacant = false → s.grp.stopped = false → (s.grp.slot 3).active = false → s.core.swap = none →
      s.grp.sysact = false → (s.grp.handler 0xF1).testBit 31 = true →
      ∃ t, happens .trapActivationStart s t ∧ t.grp.trapQueue = rest ∧ t.grp.trapSlot = j ∧ t.grp.trapact = true ∧ memory s t ∧
        (∀ i, i ≠ 3 → t.grp.slot i = s.grp.slot i) ∧
        let new := t.grp.slot 3
        new.active = true ∧ new.pc = BitVec.ofNat 24 (s.grp.handler 0xF1) ∧ new.get 2 = (s.grp.slot j).trapCause ∧
          new.get 3 = (s.grp.slot j).trapVal ∧ new.get 4 = j.setWidth 64) ∧
    (s.alive = true → s.grp.twin = none → s.core.swap = none → ∀ cause asked,
      ∃ t r, happens (.groupKill cause asked) s t ∧ t.grp.sealed = true ∧ t.grp.stopped = true ∧ t.core.tags = [] ∧ t.core.misses = [] ∧
        (∀ o ∈ t.octets, ∀ j ∈ o.jobs, j.owner ≠ s.grp.name) ∧ t.part.kills = s.part.kills ++ [r] ∧ r.name = s.grp.name ∧
        r.cause.toNat = killCode cause ∧ r.restarted = killRestarts cause asked ∧ r.oldCore = s.core.at_ ∧ r.logTail = s.grp.logTail ∧
        (∀ e, s.dirEntry s.grp.name = some e → ∃ e', t.dirEntry s.grp.name = some e' ∧ e'.sealed = true ∧ e'.ended = !killRestarts cause asked) ∧
        (killRestarts cause asked = true → t.grp.slots = s.grp.slots ∧ t.grp.ended = false ∧ t.grp.log = s.grp.log ∧ t.grp.mbox = s.grp.mbox) ∧
        (killRestarts cause asked = false → t.grp.ended = true ∧ (∀ j, (t.grp.slot j).active = false) ∧ (∀ e ∈ t.grp.mbox, e = .free) ∧
          t.grp.inj = [] ∧ ∀ q, (t.grp.queue q).words = [])) ∧
    ((s.grp.slot k).progress = .sealing → s.core.vacant = false → s.grp.stopped = false → s.portClear = true →
      ∃ t, happens (.sealConfirmation k) s t ∧ t.grp.slot k = (s.grp.slot k).finish ∧ (∀ j, j ≠ k → t.grp.slot j = s.grp.slot j) ∧ memory s t ∧
        t.grp.instret = s.grp.instret + 1 ∧ t.grp.inFlight = s.grp.inFlight) ∧
    (∀ n, (s.grp.slot k).progress = .arrived n → s.unitArrived (BitVec.ofNat 5 n) = true → (s.grp.slot k).active = true →
      (s.grp.slot k).susp = false → s.portHolds = false →
      ∃ t, happens (.barrierCompletion k) s t ∧ t.grp.slot k = (s.grp.slot k).finish ∧ (∀ j, j ≠ k → t.grp.slot j = s.grp.slot j) ∧
        t.core.view = [] ∧ memory s t ∧ t.grp.instret = s.grp.instret + 1 ∧ t.grp.inFlight = s.grp.inFlight) ∧
    (∀ d b, s.core.asleep = some d → (s.grp.slot k).progress = .sleeping b → (∀ j, j < k → (s.grp.slot j).progress.asleep = false) →
      (d ≠ 0 ∧ d.toNat ≤ s.cycle) ∨ b = true →
      ∃ t, happens .sleepcWake s t ∧ t.core.asleep = none ∧ t.grp.slot k = (s.grp.slot k).finish ∧ (∀ j, j ≠ k → t.grp.slot j = s.grp.slot j) ∧
        memory s t ∧ t.grp.instret = s.grp.instret + 1 ∧ t.grp.inFlight = s.grp.inFlight) ∧
    (∀ name, s.isHere name = true → s.grp.twin = none → (∀ c ∈ s.others, c.vacant = true ∨ c.grp.name ≠ name) → s.mayRestart s.grp.launch = false →
      waits (.killRestart name) s) ∧
    (∀ name e, s.isHere name = true → s.grp.twin = none → s.grp.stopped = true → s.grp.ended = false → s.grp.log = [] → s.dirEntry name = some e →
      s.mayRestart s.grp.launch = true →
      (s.lastKill (s.killPart s.grp) name).bind (·.newCore) = some s.core.at_ →
      ∃ t e', happens (.killRestart name) s t ∧ t.grp.stopped = false ∧ t.grp.sealed = false ∧ (t.grp.slot 3).active = false ∧
        t.dirEntry name = some e' ∧ e'.sealed = false ∧ e'.residence = .resident s.core.at_ ∧
        ((s.grp.slot 0).active = true → (t.grp.slot 0).active = true ∧ (t.grp.slot 0).pc = s.mainEntry ∧ (t.grp.slot 0).get 2 = 0x800 ∧
          (t.grp.slot 0).get 3 = s.grp.self)) ∧
    ∀ tw own since rest, s.grp.twin = some tw → tw.primary = true → tw.hashes = (own, since) :: rest → tw.partner ≠ s.core.at_ → s.core.swap = none →
      (∀ n p h, s.net[n]? = some p → p.body = .twinHash h → p.place = .core s.core.at_ →
        (∀ x ∈ s.net.take n, x.place = p.place → ∀ y, x.body ≠ .twinHash y) →
        (own = h → tw.waiting = [] → ∃ t u, moves (.twinHashArrival n) s t ∧ t.net = listDrop s.net n ∧ t.grp.twin = some u ∧
          u.matched = tw.matched + 1 ∧ u.hashes = rest ∧ u.made = tw.made) ∧
        (own ≠ h → ∃ t, happens (.twinHashArrival n) s t ∧ t.grp.sealed = true ∧ t.grp.stopped = true)) ∧
      (s.alive = true → since + 65536 ≤ s.cycle → ∃ t, happens .twinHashTimeout s t ∧ t.grp.sealed = true ∧ t.grp.stopped = true)

/-- R355, R356 and R395: corrected errors and resent flits are only counted; an uncorrectable error loses what its storage held; a
stomped message is sent again once, and then another way; a die with little slack is slowed, a core below the limit retires
or is evacuated, and a group not moved in time is killed with restart. The model's own are the order of a resent message and what is
rerouted with it (log 59), that nothing retires while 650,000 or fewer cores are placeable (log 60, 87), and the limits and offsets, which
are free values (log 18). -/
def Obligations.ErrorsAndAgeingAreHandled : Prop :=
  ∀ (s : State),
    (let counted (t : State) (code : Nat) : Prop := t.core = { s.core with counters := t.core.counters } ∧
       (s.core.retired = true ∨ s.core.at_.x < 4 * s.board.fwWidth → t.core = s.core) ∧
       (s.core.retired = false → 4 * s.board.fwWidth ≤ s.core.at_.x → ∀ i : Fin 4, let w := s.part.ctr.sel.get i
         t.core.counters.evc.get i = if w.getLsbD 31 = true ∧ (w.extractLsb' 0 10).toNat = code then min (s.core.counters.evc.get i + 1) (2 ^ 48 - 1)
           else s.core.counters.evc.get i)
     (∃ t, moves .correctedError s t ∧ counted t 0x080) ∧ (∃ t, moves .flitCrcRetry s t ∧ counted t 0x081) ∧
     ∀ n p m seen id, s.net[n]? = some p → p.body = .msg m ∨ p.body = .notice m id →
       (headerOk seen = true ∨ seen = m.wire → waits (.headerCheckStomp ⟨n, seen⟩) s) ∧
       (headerOk seen = false → seen ≠ m.wire → p.stomped = false →
         ∃ t, moves (.headerCheckStomp ⟨n, seen⟩) s t ∧ t.net = listSet s.net n { p with stomped := true } ∧ counted t 0x082) ∧
       (headerOk seen = false → seen ≠ m.wire → p.stomped = true →
         ∃ t, moves (.headerCheckStomp ⟨n, seen⟩) s t ∧ t.core.failedLinks = s.core.failedLinks + 1 ∧
           t.net = s.net.map fun x => if x.source = p.source ∧ x.place = p.place then { x with stomped := false, rerouted := true } else x)) ∧
    (∀ a, ∃ t, moves (.uncorrectableError .memory a) s t ∧ (s.norm a / 8) ∈ t.poisoned ∧ ∀ x ∈ s.poisoned, x ∈ t.poisoned) ∧
    (∀ n, ∃ t, moves (.uncorrectableError .caches n) s t ∧ t.core.tlb = listDrop s.core.tlb n ∧ t.core.names = listDrop s.core.names n ∧
      t.core.view = listDrop s.core.view n ∧ t.core.frontier = listDrop s.core.frontier n ∧
      t.core.icache = listDrop s.core.icache n ∧ t.core.fnCopies = Vector.replicate 4 none ∧ t.grp = s.grp) ∧
    (s.alive = true → s.grp.twin = none → s.core.swap = none → ∀ n,
      (∃ t, happens (.uncorrectableError .groupState n) s t ∧ t.grp.ended = true ∧ t.grp.sealed = true) ∧
      (∃ t, happens (.uncorrectableError .registers n) s t ∧ t.grp.ended = false ∧ t.grp.stopped = true ∧ t.grp.sealed = true ∧ t.grp.log = s.grp.log) ∧
      (n < s.grp.log.length → s.killPart s.grp = s.part.id → ∃ t k, happens (.uncorrectableError .log n) s t ∧
        t.grp.log = (listDrop s.grp.log n).dropWhile (·.isMarker) ∧ t.grp.stopped = true ∧
        t.lastKill s.part.id s.grp.name = some k ∧ k.lostWrites = true ∧ k.cause = 0x45) ∧
      ∀ c, s.core.evacuating = some c → c + 2700000000 ≤ s.cycle →
        ∃ t, happens .evacuationTimeout s t ∧ t.grp.ended = false ∧ t.grp.stopped = true ∧ t.grp.sealed = true) ∧
    (s.core.vacant = false → s.grp.stopped = true → s.grp.ended = false → ∀ n,
      ∃ t, happens (.uncorrectableError .groupState n) s t ∧ t.grp.ended = true ∧ t.grp.sealed = true) ∧
    (∀ j n, (s.octet (octetOf s.core.at_)).jobs.find? (fun j => j.running && j.kind.onUnit .matrix) = some j ∨
        ((∀ x ∈ (s.octet (octetOf s.core.at_)).jobs, (x.running && x.kind.onUnit .matrix) = false) ∧
          (s.octet (octetOf s.core.at_)).jobs.find? (·.running) = some j) →
      (s.octet (octetOf s.core.at_)).number = octetOf s.core.at_ →
      ∃ t, happens (.uncorrectableError .engine n) s t ∧
        ∀ y ∈ (t.octet (octetOf s.core.at_)).jobs, y.owner = j.owner → y.serial = j.serial → y.error = 2) ∧
    ∀ c slack, (∀ x ∈ s.others, x.at_ ≠ s.core.at_) → s.board.failed = false →
      ∃ t, happens (.slackMeasurement c slack) s t ∧ (clusterOf c ∈ t.board.slow ↔ slack < Config.clockLimit) ∧
        t.board.margins.head? = some (dieOf c, Config.marginOffsets s.ticks) ∧ (∀ d, d ≠ clusterOf c → (d ∈ t.board.slow ↔ d ∈ s.board.slow)) ∧
        (slack < Config.retirementLimit → 4 * s.board.fwWidth ≤ c.x → c = s.core.at_ → 650000 < s.placeableCount →
          (s.core.vacant = true → s.core.swap = none → t.core.retired = true) ∧
          (s.core.vacant = false → t.core.evacuating = some (s.core.evacuating.getD s.cycle))) ∧
        (s.placeableCount ≤ 650000 → t.core = s.core)

/-- R358 to R367: a request marks the group; its system activation begins once swaps, traps and jobs are over; a quiet, drained group
leaves its core with its image in its save frame, and comes back on a free core with its registers, its tile and its well;
at a slice instant the outgoing gang is to leave, and the change ends when it has. The model's own are what the image holds beside the
spec's fields (log 25, 26), and that the firmware's instructions in the system activation are one event (log 61). -/
def Obligations.GroupsArePreemptedAndResumed : Prop :=
  ∀ (s : State),
    (∀ park, s.alive = true → s.grp.isSecondary = false → s.grp.preempt = none →
      ∃ t, moves (.preemptionRequest park) s t ∧ t.grp.preempt = some park) ∧
    (∀ park, s.grp.preempt = some park → s.alive = true →
      (s.grp.sysact = false → s.core.swap = none → s.grp.trapact = false → s.grp.trapQueue = [] → (s.grp.slot 3).active = false →
        s.jobsTouch s.grp = false → s.core.asleep = none → ∃ t, moves .preemptionStart s t ∧ t.grp.sysact = true) ∧
      (s.grp.sysact = true → s.core.quiet = true → s.grp.drained = true → s.grp.twin = none → ∀ l base, s.launch? = some l →
        s.freeFrame l = some base → s.grp.imageFits = true →
        ∃ t, happens .preemptionStart s t ∧ t.core.vacant = true ∧ t.core.at_ = s.core.at_ ∧
          (∀ e, s.dirEntry s.grp.name = some e → (t.dirEntry s.grp.name).map (·.residence) = some (if park then .parked else .preempted)) ∧
          (s.core.held = [] → s.core.fills = [] → base + 0x8000 ≤ 2 ^ 39 → ∃ f, t.frames = s.frames ++ [f] ∧ f.name = s.grp.name ∧
            f.base = base ∧ f.grp.well = s.grp.well ∧ f.grp.tile = s.grp.tile ∧ f.grp.slots = s.grp.slots ∧
            ∀ i, i < 0x8000 → t.mem.read (0x1000000000 + base + i) = s.grp.well.read i))) ∧
    (∀ x l c, s.frames.find? (fun y => y.name = x.name) = some x → s.launches.find? (fun l => l.id = x.grp.launch) = some l →
      l.isTwin x.grp.ordinal = false → x.grp.stopped = false → s.gangRuns l = true → l.unplaced.contains x.grp.ordinal = false →
      s.hasRoom l x.grp.ordinal false = true → s.isFree l.part c = true → l.mayStand x.grp.ordinal c = true → s.mem.wf = true →
      (∀ q ∈ s.sump, q.1 ≠ x.name) → (∀ p ∈ s.net, p.place = .sump → p.isFor x.name = false) → let g := s.loadFrame x
      g.reorder = [] →
      ∃ t y, happens (.resumption x.name c) s t ∧ (∀ f ∈ t.frames, f.name ≠ x.name) ∧ t.coreAt c = some y ∧ y.vacant = false ∧
        (∀ a, 0x400 ≤ a → a < 0x8000 → y.grp.well.read a = keptByte a (s.mem.read (0x1000000000 + x.base + a))) ∧
        (∀ v, y.grp.row v = rowOfBytes (s.mem.readN (0x1000000000 + x.base + 0x8200 + 128 * v.toNat) 128)) ∧ y.grp.m = g.m ∧ y.tlb = [] ∧ y.view = [] ∧ y.names = [] ∧
        (∀ j, (y.grp.slot j).pc = (g.slot j).pc ∧ (y.grp.slot j).levels = (g.slot j).levels ∧ (y.grp.slot j).latch = true ∧
          (y.grp.slot j).wait = 0 ∧ ∀ r, (y.grp.slot j).get r = (g.slot j).get r) ∧
        ∀ e, s.dirEntry x.name = some e → (t.dirEntry x.name).map (·.residence) = some (.resident c)) ∧
    (let g := s.part.gang
     (g.changing = false → g.slice < s.sliceNow g → ∃ t, moves .sliceInstant s t ∧ t.part.gang = { g with
       changing := true, last := g.current, slice := s.sliceNow g, current := (s.sliceNow g).toNat % g.gangs }) ∧
     (g.changing = true → s.inProcessing = true → waits .sliceChange s) ∧
     (g.changing = true → s.inProcessing = false → (∀ c ∈ s.cores, s.outgoing c = false) →
       ∃ t, moves .sliceChange s t ∧ t.part.gang = { g with changing := false }) ∧
     (g.changing = true → s.inProcessing = false → s.outgoing s.core = true → s.grp.preempt = none → s.grp.stopped = false →
       ∃ t, happens .sliceChange s t ∧ t.grp.preempt = some false ∧ t.part.gang = g))

/-! ## Events of the fabric and the counters -/

/-- R374, R376, R379, R380, R382, R383 and R399: traffic crosses a port in the order of its flow, against credits, and is kept
until it is acknowledged; a failed link sends it another way, and an unreachable module returns it; chunks are acknowledged
and resent; a snapshot clears the counters. The model's own are that an empty flit acknowledges the oldest of each class (log 62), that a
moved flow takes the port of its oldest flit (log 118), the status of a refused descriptor (log 64), and that a page is written at the
cycle of its snapshot (log 20). -/
def Obligations.FabricCollectivesAndCountersHappen : Prop :=
  ∀ (s : State) (port vc module n : Nat),
    (∀ x, s.ports[port]? = some x → x.failed = false → vc < 8 →
      (∀ f, x.incoming.find? (fun f => f.vc = vc) = some f →
        (s.flowTaken f < f.number + f.count → ∃ t y, moves (.fabricFlitArrival port vc) s t ∧ t.ports[port]? = some y ∧
          (f.flow < s.ports.length → t.flowTaken f = f.number + f.count) ∧ y.owes vc = x.owes vc + f.count ∧
          ∀ m, f.packet.body = .msg m → f.packet.place = .fabric s.board.module → t.net = s.net ++
            [{ f.packet with place := (f.packet.far.map Place.core).getD .directory, far := none, away := some f.module }]) ∧
        (f.number + f.count ≤ s.flowTaken f → ∃ t y, moves (.fabricFlitArrival port vc) s t ∧ t.net = s.net ∧
          t.ports[port]? = some y ∧ y.taken = x.taken ∧ y.owes vc = x.owes vc + f.count ∧ y.incoming.length < x.incoming.length)) ∧
      (x.incoming.find? (fun f => f.vc = vc) = none → ∀ i f, x.again.findIdx? (fun f => f.vc == vc) = some i → x.again[i]? = some f →
        (f.count ≤ x.credit vc → ∃ t y z, moves (.fabricFlitArrival port vc) s t ∧ t.net = s.net ∧ t.ports[port]? = some y ∧
          y.again = listDrop x.again i ∧ y.retry = x.retry ++ [z] ∧ z = { f with returns := z.returns } ∧ y.credit vc = x.credit vc - f.count) ∧
        (x.credit vc < f.count → waits (.fabricFlitArrival port vc) s)) ∧
      (x.incoming.find? (fun f => f.vc = vc) = none → x.again.findIdx? (fun f => f.vc == vc) = none → ∀ i p m, s.outbound port vc = some (i, p, m) →
        (s.board.pod.contains m = true → p.fabricFlits ≤ x.credit vc → s.resends vc m = false →
          ∃ t y f, moves (.fabricFlitArrival port vc) s t ∧ t.net = listDrop s.net i ∧ t.ports[port]? = some y ∧
            y.credit vc = x.credit vc - p.fabricFlits ∧ y.retry = x.retry ++ [f] ∧ f.packet.body = p.body ∧ f.packet.id = p.id ∧ f.vc = vc ∧
            f.module = m ∧ f.flow = port ∧ f.number = flowNext x.nextSend vc m ∧ f.count = p.fabricFlits ∧
            flowNext y.nextSend vc m = f.number + f.count ∧ y.owed = Vector.replicate 8 0) ∧
        (s.board.pod.contains m = true → x.credit vc < p.fabricFlits ∨ s.resends vc m = true → waits (.fabricFlitArrival port vc) s) ∧
        (s.board.pod.contains m = false → ∀ msg, p.body = .msg msg → msg.cls ≠ 1 →
          ∃ t, moves (.fabricFlitArrival port vc) s t ∧ t.net = listDrop s.net i ++ [returnedBy p.source p msg 0xFE])) ∧
      (∃ t y, moves (.fabricEmptyFlit port) s t ∧ t.ports[port]? = some y ∧ y.owed = Vector.replicate 8 0 ∧
        ((∀ f ∈ x.retry, 1 ≤ f.count) → ∀ c, c < 8 → y.retry.filter (fun f => f.vc = c) = (x.retry.filter fun f => f.vc = c).tail)) ∧
      ∃ t y, moves (.fabricLinkFailed port) s t ∧ t.ports[port]? = some y ∧ y.failed = true ∧ y.retry = [] ∧ t.net = s.net ∧
        (∀ f ∈ x.retry ++ x.again, let flow := (x.retry ++ x.again).filter fun y => decide (y.flow = f.flow ∧ y.vc = f.vc ∧ y.module = f.module)
          ∃ z, t.ports[((flow.head?.bind fun y => t.portFor y.packet.source y.packet.portKey).getD port)]? = some z ∧ flow <:+: z.again) ∧
        t.chunksOut = s.chunksOut ++ s.colls.flatMap (·.unacked)) ∧
    (∃ t, happens (.fabricUnreachable module) s t ∧
      (∀ p ∈ s.net, ∀ m, p.body = .msg m → p.place = .fabric module → m.cls ≠ 1 → returnedBy p.source p m 0xFE ∈ t.net) ∧
      (∀ x ∈ t.ports, ∀ f ∈ x.retry ++ x.again, f.module ≠ module) ∧
      ∀ c ∈ t.colls, c.parent = some module ∨ (∃ e ∈ c.children, e.2 = module) → c.error ≠ 0) ∧
    (∀ q p, s.packetDue n = some (q, p) → q.overrun = false → p.ok (s.partById q.part).gang.gangs = true → s.offsetsOk q.part p = true → p.kind = 2 →
      q.fenced p = false → (s.unstarted n = true → waits (.podCollectivePacket n) s) ∧
      (s.unstarted n = false → ∃ t, happens (.podCollectivePacket n) s t ∧ (t.queue? n).map (·.readIdx) = some (q.readIdx + 1) ∧
        (s.descOk n (s.descriptor p.record) ((List.range (s.descriptor p.record).nmod).map (s.descEntry p.record)) = false →
          s.unitQuiet = true → (∀ c ∈ s.colls, c.id ≠ 2 ^ 33 * (q.id + 1) + q.readIdx.toNat) →
          leNat (t.mem.readN (0x1000000000 + p.completion) 4) = 3 ∧ leNat (t.mem.readN (0x1000000000 + p.completion + 12) 4) = 3 ∧
          t.colls = s.colls ∧ t.interrupts = s.interrupts ++ [{ port := q.port, fn := q.fn, vector := 0 }]))) ∧
    (∀ k, s.chunks[n]? = some k →
      (k.ack = false → ∀ c, s.colls.find? (fun c => c.id = k.coll) = some c →
        ∃ t, happens (.chunkArrival n) s t ∧ t.chunks = listDrop s.chunks n ∧ { k with data := [], ack := true } ∈ t.chunksOut) ∧
      (k.ack = false → s.colls.find? (fun c => c.id = k.coll) = none → s.collsDone.contains k.coll = true →
        ∃ t, moves (.chunkArrival n) s t ∧ t.chunks = listDrop s.chunks n ∧ t.chunksOut = s.chunksOut ++ [{ k with data := [], ack := true }]) ∧
      (k.ack = true → ∃ t, happens (.chunkAck n) s t ∧ t.chunks = listDrop s.chunks n ∧
        ∀ c ∈ t.colls, c.id = k.coll → ∀ x ∈ c.unacked, x.edge ≠ k.edge ∨ x.number ≠ k.number)) ∧
    (∀ c, s.colls[n]? = some c → c.unacked ≠ [] → ∃ t, moves (.edgeSilenceTimeout n) s t ∧ t.chunksOut = s.chunksOut ++ c.unacked) ∧
    (∀ x rest, s.part.ctr.latched = x :: rest → s.board.failed = false →
      ∃ t, happens .counterSnapshot s t ∧ t.part.ctr.latched = rest ∧ t.core = s.core ∧ t.others = s.others ∧ t.part.ctr.ctl = s.part.ctr.ctl ∧
        t.part.ctr.sel = s.part.ctr.sel) ∧
    (s.part.ctr.latched = [] → s.part.ctr.ctl.toNat % 64 = 0 → s.part.ctr.pending ≠ [] → s.board.failed = false →
      ∃ t, moves .counterSnapshot s t ∧ t.part.ctr.pending = [] ∧ t.core = s.core) ∧
    (∀ (c : CounterPage), c.pending = [] → c.ctl.toNat % 64 ≠ 0 →
      (c.marks s.cycle n).map (·.1) = ((List.range n).map (s.cycle + 1 + ·)).filter fun x => x % 2 ^ (c.ctl.toNat % 64) = 0) ∧
    ∀ (p : Partition), let t := s.passPage n p
      t.ctr.latched.map (·.cycle) = p.ctr.latched.map (·.cycle) ++ (p.ctr.marks s.cycle n).map (·.1) ∧
        (p.ctr.marks s.cycle n ≠ [] → t.ctr.pending = [])

/-! ## Events that always complete -/

/-- R183 to R185, R355, R356 and R395: a message that comes up at its directory home or at the sump leaves the place where it stood,
and a posted position is taken; corrected, uncorrectable and transmission errors and measurements of slack are dealt with in
every state, and an evacuation that has lasted a second ends in every state with a running group there. The model's own is the order of a
resent message, which keeps its place in the net, and that it is rerouted the second time (log 59). -/
def Obligations.DirectoryErrorAndAgeingEventsComplete : Prop :=
  ∀ (s : State) (n : Nat) (p : Packet) (m : Msg),
    (s.net[n]? = some p → p.body = .msg m → s.turnAt n p = true →
      (p.place = .directory → ∃ t rest, exec (.directoryArrival n) s = .next t ∧ t.stalled = s.stalled ∧ t.net = listDrop s.net n ++ rest ∧
        rest.length ≤ 2 ∧ t.grp.slots = s.grp.slots) ∧
      (p.place = .sump → ∃ t rest, exec (.sumpArrival n) s = .next t ∧ t.stalled = s.stalled ∧ t.net = listDrop s.net n ++ rest ∧
        t.grp.slots = s.grp.slots)) ∧
    (∀ name c k, s.net[n]? = some p → p.body = .dirUpdate name c k → s.turnAt n p = true →
      ∃ t rest, exec (.directoryUpdate n) s = .next t ∧ t.stalled = s.stalled ∧ t.net = listDrop s.net n ++ rest ∧ t.core = s.core ∧ t.mem = s.mem) ∧
    (∃ t, exec .correctedError s = .next t ∧ t.stalled = s.stalled ∧ t.grp = s.grp ∧ t.mem = s.mem ∧ t.net = s.net) ∧
    (∃ t, exec .flitCrcRetry s = .next t ∧ t.stalled = s.stalled ∧ t.grp = s.grp ∧ t.mem = s.mem ∧ t.net = s.net) ∧
    (∀ seen, s.net[n]? = some p → p.body = .msg m → headerOk seen = false → seen ≠ m.wire →
      ∃ t, exec (.headerCheckStomp ⟨n, seen⟩) s = .next t ∧ t.stalled = s.stalled ∧ t.grp = s.grp ∧ t.mem = s.mem ∧
        t.net[n]? = some { p with stomped := !p.stomped, rerouted := p.rerouted || p.stomped }) ∧
    (∃ t, exec (.uncorrectableError .memory n) s = .next t ∧ t.stalled = s.stalled ∧ t.core = s.core ∧ t.mem = s.mem ∧ s.norm n / 8 ∈ t.poisoned) ∧
    (∃ t, exec (.uncorrectableError .caches n) s = .next t ∧ t.stalled = s.stalled ∧ t.grp = s.grp ∧ t.mem = s.mem ∧
      t.core.tlb = listDrop s.core.tlb n) ∧
    (s.board.failed = false → ∀ c slack, ∃ t, exec (.slackMeasurement c slack) s = .next t ∧ t.stalled = s.stalled ∧ t.mem = s.mem ∧ t.net = s.net) ∧
    (s.core.vacant = false → s.grp.stopped = false → s.grp.ended = false → s.grp.twin = none → s.core.swap = none →
      (∀ storage, storage = Storage.groupState ∨ storage = Storage.registers →
        ∃ t, exec (.uncorrectableError storage n) s = .next t ∧ t.stalled = s.stalled ∧ t.grp.sealed = true ∧ t.grp.stopped = true) ∧
      ∀ c, s.core.evacuating = some c → c + 2700000000 ≤ s.cycle →
        ∃ t, exec .evacuationTimeout s = .next t ∧ t.stalled = s.stalled ∧ t.grp.sealed = true ∧ t.grp.stopped = true ∧ t.grp.ended = false)

/-! ## The machine -/

/-- R91, R94 and R157: when the agenda gives the focus core its turn and one slot alone can issue, a step is what the meaning of
the instruction in the word at its program counter does at that slot, with the choice counted and noted before it, the word in
the instruction cache, and the turn's end after it; an ANRUN that completes with its commit issued before, and is not chosen again
(R352); an instruction that has to wait leaves the slots and the bytes alone; an event is what
its meaning does. That a step is one turn of an agenda, and what an entry of the agenda says, are the model's choices (log 1, 4). -/
def Obligations.StepRunsTheDecodedInstruction : Prop :=
  let calm (s : State) : Prop := (∀ c ∈ s.others, c.at_ ≠ s.core.at_) ∧ s.colls = [] ∧
    ∀ c ∈ s.cores, c.evacuating = none ∧ ∀ j, (c.grp.slot j).errors = []
  (∀ (s : State) (rest : List Turn) (held bank : BitVec 4), let u : State := { s with agenda := rest }
    (∀ i, s.agenda = ⟨s.core.at_, held, bank, some i⟩ :: rest → isEvent i = true → i.wellFormed = true → step s = afterTurn (exec i u)) ∧
    ∀ (k : SlotId) (w : IWord) (i : Instr), s.agenda = ⟨s.core.at_, held, bank, none⟩ :: rest → s.issues = true →
      let free (j : SlotId) : Prop := (s.grp.slot j).active = true ∧ (s.grp.slot j).susp = false ∧ (s.grp.slot j).yielded = false ∧
        held.getLsbD j.toNat = false ∧ bank.getLsbD j.toNat = false
      free k → (∀ j, j ≠ k → ¬free j) → s.nextWord k = some w → decode w = .ok i → s.hazard i k = false → let v := u.holdSlots held bank
      (∀ x, exec i (v.aim k) = .next x → x.stalled = false → (s.grp.slot k).progress = .committing → step s = afterTurn (exec i (v.aim k))) ∧
      (∀ x, exec i (v.aim k) = .next x → x.stalled = false → (s.grp.slot k).progress ≠ .committing →
        let chosen := (v.mapGrp Group.endYields).countChoice [k] k
        step s = afterTurn (exec i (((chosen.mapCore (Core.fetchWord s.grp.launch (s.grp.slot k).pc)).mapGrp
          (Group.noteChoice [k] k s.ticks)).aim k))) ∧
      (exec i (v.aim k) = .next (v.aim k).stall → calm s →
        ∃ t, step s = .next t ∧ t.grp.slots = s.grp.endYields.slots ∧ t.grp.well = s.grp.well ∧ t.grp.tile = s.grp.tile ∧ t.mem = s.mem)) ∧
  ∀ (t : State), let z := t.endTurn
    afterTurn (.next t) = .next z ∧ z.cycle = t.cycle + Config.elapsed t.ticks ∧ z.ticks = t.ticks + 1 ∧ z.stalled = false ∧ z.agenda = t.agenda ∧
      (calm t → z.mem = t.mem ∧ z.grp.slots = t.grp.slots ∧ z.grp.well = t.grp.well ∧ z.grp.tile = t.grp.tile)

/-- R91 and R94: a word address beyond the code image, and a reserved word, take their traps at that address, with the address or
the word in TRAPVAL. -/
def Obligations.FetchesTrapAtMissingAndReservedWords : Prop :=
  ∀ (s : State) (k : SlotId) (w : IWord),
    traps .instructionAddressTrap s 0x07 (s.slot.pc.setWidth 64) ∧ traps (.reservedInstruction w) s 0x01 (w.setWidth 64) ∧
    (∀ l, s.launch? = some l → (l.code.length ≤ (s.grp.slot k).pc.toNat → s.nextInstr k = .instructionAddressTrap) ∧
      ((s.grp.slot k).pc.toNat < l.code.length → s.nextWord k = l.code[(s.grp.slot k).pc.toNat]?)) ∧
    (s.nextWord k = some w → ∀ r, decode w = .error r → s.nextInstr k = .reservedInstruction w)

/-- R157: of the ready slots one that has waited 256 times issues, the longest waiting first; else the highest level, and at one
level the slot that issued longest ago; equals go to the lower slot. The others' wait counts rise, and its own is cleared. -/
def Obligations.TheChoiceFollowsWaitLevelAndAge : Prop :=
  ∀ (g : Group) (p : SlotId → Bool) (k : SlotId) (tick : Nat), let ready := allSlots.filter p
    let level (j : SlotId) : Nat := if j = 3 then 2 else if j = 2 then 1 else 0
    (g.choose ready = none ↔ ready = []) ∧
    (g.choose ready = some k → k ∈ ready ∧
      if ∃ j ∈ ready, 256 ≤ (g.slot j).wait then
        256 ≤ (g.slot k).wait ∧ ∀ j ∈ ready, (g.slot j).wait ≤ (g.slot k).wait ∧ ((g.slot j).wait = (g.slot k).wait → k.toNat ≤ j.toNat)
      else ∀ j ∈ ready, level j ≤ level k ∧ (level j = level k → (g.slot k).lastIssue ≤ (g.slot j).lastIssue ∧
        ((g.slot j).lastIssue = (g.slot k).lastIssue → k.toNat ≤ j.toNat))) ∧
    let t := Group.noteChoice ready k tick g
    (t.slot k).wait = 0 ∧ (t.slot k).lastIssue = tick + 1 ∧
      (∀ j, j ≠ k → (t.slot j).wait = (if j ∈ ready then (g.slot j).wait + 1 else (g.slot j).wait) ∧ (t.slot j).lastIssue = (g.slot j).lastIssue) ∧
      ∀ j, (t.slot j).pc = (g.slot j).pc ∧ (t.slot j).active = (g.slot j).active ∧ ∀ r, (t.slot j).get r = (g.slot j).get r

/-! ## Encodings -/

/-- R73 to R91: words written out from the encodings of the spec, one of each family, decode to their instructions, and reserved
words are refused. -/
def Obligations.DecodingReadsTheWordsOfTheSpec : Prop :=
  decode 0b000000_00011_00001_00010_00000_000000#32 = .ok (.add 3 1 2) ∧
  decode 0b000001_00101_00110_1111111111111111#32 = .ok (.addi 5 6 0xFFFF) ∧
  decode 0b001100_00010_00001_0000000000001000#32 = .ok (.beq 2 1 8) ∧
  decode 0b010010_00000000000000000000000101#32 = .ok (.jal 5) ∧
  decode 0b010101_000000000001010_00000000011#32 = .ok (.loopi 10 3) ∧
  decode 0b011100_00111_01000_0000000000010000#32 = .ok (.ldd 7 8 16) ∧
  decode 0b100100_00001_00010_00011_00100_010011#32 = .ok (.ffma .f16 1 2 3 4) ∧
  decode 0b100111_00100_00101_00110_00000_000001#32 = .ok (.sendr 4 5 6) ∧
  decode 0b101000_00100_00101_00110_01111_010000#32 = .ok (.atomCas .acq 4 5 6) ∧
  decode 0b11_000000_01_00010_00011_00100_101_1111#32 = .ok (.vaddF .f16 2 3 4 5 15) ∧
  decode 0b101100_00000_00000_00000_00000_000000#32 = .error (.reserved .major) ∧
  decode 0b000000_00011_00001_00010_00001_000000#32 = .error (.reserved .field)

/-- R73 to R91: the encoder and the decoder agree: a well-formed instruction's word decodes to it, with every operand. -/
def Obligations.DecodingAnEncodedInstructionGivesItBack : Prop :=
  ∀ (i : Instr) (w : IWord), encode i = some w → i.wellFormed = true → decode w = .ok i

/-- R73 to R91: a word that decodes is the encoding of one well-formed instruction: no bit of it is dropped. -/
def Obligations.EveryWordHasAtMostOneMeaning : Prop :=
  ∀ (i : Instr) (w : IWord), decode w = .ok i → i.wellFormed = true ∧ encode i = some w

/-! ## Invariants -/

/-- The model's own invariant (log 6): every step answers a next state, and keeps the memories in canonical form and at most one
core at each place. -/
def Obligations.EveryStepKeepsTheInvariant : Prop :=
  ∀ (s : State), Safety.inv s = true → ∃ t, step s = .next t ∧ Safety.inv t = true

/-- R27, R29 and R392: reset leaves no group, no launch and no traffic, CYCLE at zero, and what a group's fields hold at
group reset; the invariant holds there. -/
def Obligations.ResetLeavesTheModuleEmpty : Prop :=
  let s := State.reset; let g := Group.reset
  Safety.inv s = true ∧ s.cycle = 0 ∧ s.launches = [] ∧ s.queues = [] ∧ s.net = [] ∧ s.directory = [] ∧ s.frames = [] ∧ s.sump = [] ∧
    s.interrupts = [] ∧ (∀ c ∈ s.cores, c.vacant = true) ∧
    g.fe = BitVec.allOnes 4096 ∧ g.hold = 0 ∧ g.busy = 0 ∧ (∀ v, g.row v = 0) ∧ (∀ k, (g.slot k).active = false ∧ (g.slot k).susp = false) ∧
    g.tilecfg = .f32 ∧ g.fmta = 0 ∧ g.fflags = 0 ∧ g.satf8 = true ∧ g.rm = 0 ∧ g.logTail = 0 ∧ g.logPub = 0 ∧ g.instret = 0 ∧
    (∀ q, (g.queue q).bound = false) ∧ g.anchored = false ∧ g.classMask = 0
end

