-- ==== Sys2Proof/Laws/State.lean ====
section
/-! SUPPORT. What each update of the state leaves: one lemma for each field and each update, true by rfl, so that no proof
unfolds a record update; and the registers read after they are written. -/

namespace Sys2Proof.Machine

/-! ## The module -/

@[simp] theorem State.mapCore_others (f : Core → Core) (s : State) : (s.mapCore f).others = s.others := rfl
@[simp] theorem State.mapCore_k (f : Core → Core) (s : State) : (s.mapCore f).k = s.k := rfl
@[simp] theorem State.mapCore_ir (f : Core → Core) (s : State) : (s.mapCore f).ir = s.ir := rfl
@[simp] theorem State.mapCore_stalled (f : Core → Core) (s : State) : (s.mapCore f).stalled = s.stalled := rfl
@[simp] theorem State.mapCore_agenda (f : Core → Core) (s : State) : (s.mapCore f).agenda = s.agenda := rfl
@[simp] theorem State.mapCore_ticks (f : Core → Core) (s : State) : (s.mapCore f).ticks = s.ticks := rfl
@[simp] theorem State.mapCore_cycle (f : Core → Core) (s : State) : (s.mapCore f).cycle = s.cycle := rfl
@[simp] theorem State.mapCore_mem (f : Core → Core) (s : State) : (s.mapCore f).mem = s.mem := rfl
@[simp] theorem State.mapCore_poisoned (f : Core → Core) (s : State) : (s.mapCore f).poisoned = s.poisoned := rfl
@[simp] theorem State.mapCore_poolEmpty (f : Core → Core) (s : State) : (s.mapCore f).poolEmpty = s.poolEmpty := rfl
@[simp] theorem State.mapCore_net (f : Core → Core) (s : State) : (s.mapCore f).net = s.net := rfl
@[simp] theorem State.mapCore_records (f : Core → Core) (s : State) : (s.mapCore f).records = s.records := rfl
@[simp] theorem State.mapCore_homeSeq (f : Core → Core) (s : State) : (s.mapCore f).homeSeq = s.homeSeq := rfl
@[simp] theorem State.mapCore_octets (f : Core → Core) (s : State) : (s.mapCore f).octets = s.octets := rfl
@[simp] theorem State.mapCore_collVectors (f : Core → Core) (s : State) : (s.mapCore f).collVectors = s.collVectors := rfl
@[simp] theorem State.mapCore_collFailures (f : Core → Core) (s : State) : (s.mapCore f).collFailures = s.collFailures := rfl
@[simp] theorem State.mapCore_directory (f : Core → Core) (s : State) : (s.mapCore f).directory = s.directory := rfl
@[simp] theorem State.mapCore_sump (f : Core → Core) (s : State) : (s.mapCore f).sump = s.sump := rfl
@[simp] theorem State.mapCore_frames (f : Core → Core) (s : State) : (s.mapCore f).frames = s.frames := rfl
@[simp] theorem State.mapCore_launches (f : Core → Core) (s : State) : (s.mapCore f).launches = s.launches := rfl
@[simp] theorem State.mapCore_lastGen (f : Core → Core) (s : State) : (s.mapCore f).lastGen = s.lastGen := rfl
@[simp] theorem State.mapCore_indexes (f : Core → Core) (s : State) : (s.mapCore f).indexes = s.indexes := rfl
@[simp] theorem State.mapCore_nextLaunch (f : Core → Core) (s : State) : (s.mapCore f).nextLaunch = s.nextLaunch := rfl
@[simp] theorem State.mapCore_queues (f : Core → Core) (s : State) : (s.mapCore f).queues = s.queues := rfl
@[simp] theorem State.mapCore_functions (f : Core → Core) (s : State) : (s.mapCore f).functions = s.functions := rfl
@[simp] theorem State.mapCore_interrupts (f : Core → Core) (s : State) : (s.mapCore f).interrupts = s.interrupts := rfl
@[simp] theorem State.mapCore_hostData (f : Core → Core) (s : State) : (s.mapCore f).hostData = s.hostData := rfl
@[simp] theorem State.mapCore_areas (f : Core → Core) (s : State) : (s.mapCore f).areas = s.areas := rfl
@[simp] theorem State.mapCore_lastSweep (f : Core → Core) (s : State) : (s.mapCore f).lastSweep = s.lastSweep := rfl
@[simp] theorem State.mapCore_part0 (f : Core → Core) (s : State) : (s.mapCore f).part0 = s.part0 := rfl
@[simp] theorem State.mapCore_parts (f : Core → Core) (s : State) : (s.mapCore f).parts = s.parts := rfl
@[simp] theorem State.mapCore_ptpOffset (f : Core → Core) (s : State) : (s.mapCore f).ptpOffset = s.ptpOffset := rfl
@[simp] theorem State.mapCore_ports (f : Core → Core) (s : State) : (s.mapCore f).ports = s.ports := rfl
@[simp] theorem State.mapCore_colls (f : Core → Core) (s : State) : (s.mapCore f).colls = s.colls := rfl
@[simp] theorem State.mapCore_chunks (f : Core → Core) (s : State) : (s.mapCore f).chunks = s.chunks := rfl
@[simp] theorem State.mapCore_chunksOut (f : Core → Core) (s : State) : (s.mapCore f).chunksOut = s.chunksOut := rfl
@[simp] theorem State.mapCore_collsDone (f : Core → Core) (s : State) : (s.mapCore f).collsDone = s.collsDone := rfl
@[simp] theorem State.mapCore_unitTail (f : Core → Core) (s : State) : (s.mapCore f).unitTail = s.unitTail := rfl
@[simp] theorem State.mapCore_unitLog (f : Core → Core) (s : State) : (s.mapCore f).unitLog = s.unitLog := rfl
@[simp] theorem State.mapCore_board (f : Core → Core) (s : State) : (s.mapCore f).board = s.board := rfl
@[simp] theorem State.mapCore_flash (f : Core → Core) (s : State) : (s.mapCore f).flash = s.flash := rfl
@[simp] theorem State.mapGrp_others (f : Group → Group) (s : State) : (s.mapGrp f).others = s.others := rfl
@[simp] theorem State.mapGrp_k (f : Group → Group) (s : State) : (s.mapGrp f).k = s.k := rfl
@[simp] theorem State.mapGrp_ir (f : Group → Group) (s : State) : (s.mapGrp f).ir = s.ir := rfl
@[simp] theorem State.mapGrp_stalled (f : Group → Group) (s : State) : (s.mapGrp f).stalled = s.stalled := rfl
@[simp] theorem State.mapGrp_agenda (f : Group → Group) (s : State) : (s.mapGrp f).agenda = s.agenda := rfl
@[simp] theorem State.mapGrp_ticks (f : Group → Group) (s : State) : (s.mapGrp f).ticks = s.ticks := rfl
@[simp] theorem State.mapGrp_cycle (f : Group → Group) (s : State) : (s.mapGrp f).cycle = s.cycle := rfl
@[simp] theorem State.mapGrp_mem (f : Group → Group) (s : State) : (s.mapGrp f).mem = s.mem := rfl
@[simp] theorem State.mapGrp_poisoned (f : Group → Group) (s : State) : (s.mapGrp f).poisoned = s.poisoned := rfl
@[simp] theorem State.mapGrp_poolEmpty (f : Group → Group) (s : State) : (s.mapGrp f).poolEmpty = s.poolEmpty := rfl
@[simp] theorem State.mapGrp_net (f : Group → Group) (s : State) : (s.mapGrp f).net = s.net := rfl
@[simp] theorem State.mapGrp_records (f : Group → Group) (s : State) : (s.mapGrp f).records = s.records := rfl
@[simp] theorem State.mapGrp_homeSeq (f : Group → Group) (s : State) : (s.mapGrp f).homeSeq = s.homeSeq := rfl
@[simp] theorem State.mapGrp_octets (f : Group → Group) (s : State) : (s.mapGrp f).octets = s.octets := rfl
@[simp] theorem State.mapGrp_collVectors (f : Group → Group) (s : State) : (s.mapGrp f).collVectors = s.collVectors := rfl
@[simp] theorem State.mapGrp_collFailures (f : Group → Group) (s : State) : (s.mapGrp f).collFailures = s.collFailures := rfl
@[simp] theorem State.mapGrp_directory (f : Group → Group) (s : State) : (s.mapGrp f).directory = s.directory := rfl
@[simp] theorem State.mapGrp_sump (f : Group → Group) (s : State) : (s.mapGrp f).sump = s.sump := rfl
@[simp] theorem State.mapGrp_frames (f : Group → Group) (s : State) : (s.mapGrp f).frames = s.frames := rfl
@[simp] theorem State.mapGrp_launches (f : Group → Group) (s : State) : (s.mapGrp f).launches = s.launches := rfl
@[simp] theorem State.mapGrp_lastGen (f : Group → Group) (s : State) : (s.mapGrp f).lastGen = s.lastGen := rfl
@[simp] theorem State.mapGrp_indexes (f : Group → Group) (s : State) : (s.mapGrp f).indexes = s.indexes := rfl
@[simp] theorem State.mapGrp_nextLaunch (f : Group → Group) (s : State) : (s.mapGrp f).nextLaunch = s.nextLaunch := rfl
@[simp] theorem State.mapGrp_queues (f : Group → Group) (s : State) : (s.mapGrp f).queues = s.queues := rfl
@[simp] theorem State.mapGrp_functions (f : Group → Group) (s : State) : (s.mapGrp f).functions = s.functions := rfl
@[simp] theorem State.mapGrp_interrupts (f : Group → Group) (s : State) : (s.mapGrp f).interrupts = s.interrupts := rfl
@[simp] theorem State.mapGrp_hostData (f : Group → Group) (s : State) : (s.mapGrp f).hostData = s.hostData := rfl
@[simp] theorem State.mapGrp_areas (f : Group → Group) (s : State) : (s.mapGrp f).areas = s.areas := rfl
@[simp] theorem State.mapGrp_lastSweep (f : Group → Group) (s : State) : (s.mapGrp f).lastSweep = s.lastSweep := rfl
@[simp] theorem State.mapGrp_part0 (f : Group → Group) (s : State) : (s.mapGrp f).part0 = s.part0 := rfl
@[simp] theorem State.mapGrp_parts (f : Group → Group) (s : State) : (s.mapGrp f).parts = s.parts := rfl
@[simp] theorem State.mapGrp_ptpOffset (f : Group → Group) (s : State) : (s.mapGrp f).ptpOffset = s.ptpOffset := rfl
@[simp] theorem State.mapGrp_ports (f : Group → Group) (s : State) : (s.mapGrp f).ports = s.ports := rfl
@[simp] theorem State.mapGrp_colls (f : Group → Group) (s : State) : (s.mapGrp f).colls = s.colls := rfl
@[simp] theorem State.mapGrp_chunks (f : Group → Group) (s : State) : (s.mapGrp f).chunks = s.chunks := rfl
@[simp] theorem State.mapGrp_chunksOut (f : Group → Group) (s : State) : (s.mapGrp f).chunksOut = s.chunksOut := rfl
@[simp] theorem State.mapGrp_collsDone (f : Group → Group) (s : State) : (s.mapGrp f).collsDone = s.collsDone := rfl
@[simp] theorem State.mapGrp_unitTail (f : Group → Group) (s : State) : (s.mapGrp f).unitTail = s.unitTail := rfl
@[simp] theorem State.mapGrp_unitLog (f : Group → Group) (s : State) : (s.mapGrp f).unitLog = s.unitLog := rfl
@[simp] theorem State.mapGrp_board (f : Group → Group) (s : State) : (s.mapGrp f).board = s.board := rfl
@[simp] theorem State.mapGrp_flash (f : Group → Group) (s : State) : (s.mapGrp f).flash = s.flash := rfl
@[simp] theorem State.mapSlot_others (f : Slot → Slot) (s : State) : (s.mapSlot f).others = s.others := rfl
@[simp] theorem State.mapSlot_k (f : Slot → Slot) (s : State) : (s.mapSlot f).k = s.k := rfl
@[simp] theorem State.mapSlot_ir (f : Slot → Slot) (s : State) : (s.mapSlot f).ir = s.ir := rfl
@[simp] theorem State.mapSlot_stalled (f : Slot → Slot) (s : State) : (s.mapSlot f).stalled = s.stalled := rfl
@[simp] theorem State.mapSlot_agenda (f : Slot → Slot) (s : State) : (s.mapSlot f).agenda = s.agenda := rfl
@[simp] theorem State.mapSlot_ticks (f : Slot → Slot) (s : State) : (s.mapSlot f).ticks = s.ticks := rfl
@[simp] theorem State.mapSlot_cycle (f : Slot → Slot) (s : State) : (s.mapSlot f).cycle = s.cycle := rfl
@[simp] theorem State.mapSlot_mem (f : Slot → Slot) (s : State) : (s.mapSlot f).mem = s.mem := rfl
@[simp] theorem State.mapSlot_poisoned (f : Slot → Slot) (s : State) : (s.mapSlot f).poisoned = s.poisoned := rfl
@[simp] theorem State.mapSlot_poolEmpty (f : Slot → Slot) (s : State) : (s.mapSlot f).poolEmpty = s.poolEmpty := rfl
@[simp] theorem State.mapSlot_net (f : Slot → Slot) (s : State) : (s.mapSlot f).net = s.net := rfl
@[simp] theorem State.mapSlot_records (f : Slot → Slot) (s : State) : (s.mapSlot f).records = s.records := rfl
@[simp] theorem State.mapSlot_homeSeq (f : Slot → Slot) (s : State) : (s.mapSlot f).homeSeq = s.homeSeq := rfl
@[simp] theorem State.mapSlot_octets (f : Slot → Slot) (s : State) : (s.mapSlot f).octets = s.octets := rfl
@[simp] theorem State.mapSlot_collVectors (f : Slot → Slot) (s : State) : (s.mapSlot f).collVectors = s.collVectors := rfl
@[simp] theorem State.mapSlot_collFailures (f : Slot → Slot) (s : State) : (s.mapSlot f).collFailures = s.collFailures := rfl
@[simp] theorem State.mapSlot_directory (f : Slot → Slot) (s : State) : (s.mapSlot f).directory = s.directory := rfl
@[simp] theorem State.mapSlot_sump (f : Slot → Slot) (s : State) : (s.mapSlot f).sump = s.sump := rfl
@[simp] theorem State.mapSlot_frames (f : Slot → Slot) (s : State) : (s.mapSlot f).frames = s.frames := rfl
@[simp] theorem State.mapSlot_launches (f : Slot → Slot) (s : State) : (s.mapSlot f).launches = s.launches := rfl
@[simp] theorem State.mapSlot_lastGen (f : Slot → Slot) (s : State) : (s.mapSlot f).lastGen = s.lastGen := rfl
@[simp] theorem State.mapSlot_indexes (f : Slot → Slot) (s : State) : (s.mapSlot f).indexes = s.indexes := rfl
@[simp] theorem State.mapSlot_nextLaunch (f : Slot → Slot) (s : State) : (s.mapSlot f).nextLaunch = s.nextLaunch := rfl
@[simp] theorem State.mapSlot_queues (f : Slot → Slot) (s : State) : (s.mapSlot f).queues = s.queues := rfl
@[simp] theorem State.mapSlot_functions (f : Slot → Slot) (s : State) : (s.mapSlot f).functions = s.functions := rfl
@[simp] theorem State.mapSlot_interrupts (f : Slot → Slot) (s : State) : (s.mapSlot f).interrupts = s.interrupts := rfl
@[simp] theorem State.mapSlot_hostData (f : Slot → Slot) (s : State) : (s.mapSlot f).hostData = s.hostData := rfl
@[simp] theorem State.mapSlot_areas (f : Slot → Slot) (s : State) : (s.mapSlot f).areas = s.areas := rfl
@[simp] theorem State.mapSlot_lastSweep (f : Slot → Slot) (s : State) : (s.mapSlot f).lastSweep = s.lastSweep := rfl
@[simp] theorem State.mapSlot_part0 (f : Slot → Slot) (s : State) : (s.mapSlot f).part0 = s.part0 := rfl
@[simp] theorem State.mapSlot_parts (f : Slot → Slot) (s : State) : (s.mapSlot f).parts = s.parts := rfl
@[simp] theorem State.mapSlot_ptpOffset (f : Slot → Slot) (s : State) : (s.mapSlot f).ptpOffset = s.ptpOffset := rfl
@[simp] theorem State.mapSlot_ports (f : Slot → Slot) (s : State) : (s.mapSlot f).ports = s.ports := rfl
@[simp] theorem State.mapSlot_colls (f : Slot → Slot) (s : State) : (s.mapSlot f).colls = s.colls := rfl
@[simp] theorem State.mapSlot_chunks (f : Slot → Slot) (s : State) : (s.mapSlot f).chunks = s.chunks := rfl
@[simp] theorem State.mapSlot_chunksOut (f : Slot → Slot) (s : State) : (s.mapSlot f).chunksOut = s.chunksOut := rfl
@[simp] theorem State.mapSlot_collsDone (f : Slot → Slot) (s : State) : (s.mapSlot f).collsDone = s.collsDone := rfl
@[simp] theorem State.mapSlot_unitTail (f : Slot → Slot) (s : State) : (s.mapSlot f).unitTail = s.unitTail := rfl
@[simp] theorem State.mapSlot_unitLog (f : Slot → Slot) (s : State) : (s.mapSlot f).unitLog = s.unitLog := rfl
@[simp] theorem State.mapSlot_board (f : Slot → Slot) (s : State) : (s.mapSlot f).board = s.board := rfl
@[simp] theorem State.mapSlot_flash (f : Slot → Slot) (s : State) : (s.mapSlot f).flash = s.flash := rfl
@[simp] theorem State.mapSlotOf_others (j : SlotId) (f : Slot → Slot) (s : State) : (s.mapSlotOf j f).others = s.others := rfl
@[simp] theorem State.mapSlotOf_k (j : SlotId) (f : Slot → Slot) (s : State) : (s.mapSlotOf j f).k = s.k := rfl
@[simp] theorem State.mapSlotOf_ir (j : SlotId) (f : Slot → Slot) (s : State) : (s.mapSlotOf j f).ir = s.ir := rfl
@[simp] theorem State.mapSlotOf_stalled (j : SlotId) (f : Slot → Slot) (s : State) : (s.mapSlotOf j f).stalled = s.stalled := rfl
@[simp] theorem State.mapSlotOf_agenda (j : SlotId) (f : Slot → Slot) (s : State) : (s.mapSlotOf j f).agenda = s.agenda := rfl
@[simp] theorem State.mapSlotOf_ticks (j : SlotId) (f : Slot → Slot) (s : State) : (s.mapSlotOf j f).ticks = s.ticks := rfl
@[simp] theorem State.mapSlotOf_cycle (j : SlotId) (f : Slot → Slot) (s : State) : (s.mapSlotOf j f).cycle = s.cycle := rfl
@[simp] theorem State.mapSlotOf_mem (j : SlotId) (f : Slot → Slot) (s : State) : (s.mapSlotOf j f).mem = s.mem := rfl
@[simp] theorem State.mapSlotOf_poisoned (j : SlotId) (f : Slot → Slot) (s : State) : (s.mapSlotOf j f).poisoned = s.poisoned := rfl
@[simp] theorem State.mapSlotOf_poolEmpty (j : SlotId) (f : Slot → Slot) (s : State) : (s.mapSlotOf j f).poolEmpty = s.poolEmpty := rfl
@[simp] theorem State.mapSlotOf_net (j : SlotId) (f : Slot → Slot) (s : State) : (s.mapSlotOf j f).net = s.net := rfl
@[simp] theorem State.mapSlotOf_records (j : SlotId) (f : Slot → Slot) (s : State) : (s.mapSlotOf j f).records = s.records := rfl
@[simp] theorem State.mapSlotOf_homeSeq (j : SlotId) (f : Slot → Slot) (s : State) : (s.mapSlotOf j f).homeSeq = s.homeSeq := rfl
@[simp] theorem State.mapSlotOf_octets (j : SlotId) (f : Slot → Slot) (s : State) : (s.mapSlotOf j f).octets = s.octets := rfl
@[simp] theorem State.mapSlotOf_collVectors (j : SlotId) (f : Slot → Slot) (s : State) : (s.mapSlotOf j f).collVectors = s.collVectors := rfl
@[simp] theorem State.mapSlotOf_collFailures (j : SlotId) (f : Slot → Slot) (s : State) : (s.mapSlotOf j f).collFailures = s.collFailures := rfl
@[simp] theorem State.mapSlotOf_directory (j : SlotId) (f : Slot → Slot) (s : State) : (s.mapSlotOf j f).directory = s.directory := rfl
@[simp] theorem State.mapSlotOf_sump (j : SlotId) (f : Slot → Slot) (s : State) : (s.mapSlotOf j f).sump = s.sump := rfl
@[simp] theorem State.mapSlotOf_frames (j : SlotId) (f : Slot → Slot) (s : State) : (s.mapSlotOf j f).frames = s.frames := rfl
@[simp] theorem State.mapSlotOf_launches (j : SlotId) (f : Slot → Slot) (s : State) : (s.mapSlotOf j f).launches = s.launches := rfl
@[simp] theorem State.mapSlotOf_lastGen (j : SlotId) (f : Slot → Slot) (s : State) : (s.mapSlotOf j f).lastGen = s.lastGen := rfl
@[simp] theorem State.mapSlotOf_indexes (j : SlotId) (f : Slot → Slot) (s : State) : (s.mapSlotOf j f).indexes = s.indexes := rfl
@[simp] theorem State.mapSlotOf_nextLaunch (j : SlotId) (f : Slot → Slot) (s : State) : (s.mapSlotOf j f).nextLaunch = s.nextLaunch := rfl
@[simp] theorem State.mapSlotOf_queues (j : SlotId) (f : Slot → Slot) (s : State) : (s.mapSlotOf j f).queues = s.queues := rfl
@[simp] theorem State.mapSlotOf_functions (j : SlotId) (f : Slot → Slot) (s : State) : (s.mapSlotOf j f).functions = s.functions := rfl
@[simp] theorem State.mapSlotOf_interrupts (j : SlotId) (f : Slot → Slot) (s : State) : (s.mapSlotOf j f).interrupts = s.interrupts := rfl
@[simp] theorem State.mapSlotOf_hostData (j : SlotId) (f : Slot → Slot) (s : State) : (s.mapSlotOf j f).hostData = s.hostData := rfl
@[simp] theorem State.mapSlotOf_areas (j : SlotId) (f : Slot → Slot) (s : State) : (s.mapSlotOf j f).areas = s.areas := rfl
@[simp] theorem State.mapSlotOf_lastSweep (j : SlotId) (f : Slot → Slot) (s : State) : (s.mapSlotOf j f).lastSweep = s.lastSweep := rfl
@[simp] theorem State.mapSlotOf_part0 (j : SlotId) (f : Slot → Slot) (s : State) : (s.mapSlotOf j f).part0 = s.part0 := rfl
@[simp] theorem State.mapSlotOf_parts (j : SlotId) (f : Slot → Slot) (s : State) : (s.mapSlotOf j f).parts = s.parts := rfl
@[simp] theorem State.mapSlotOf_ptpOffset (j : SlotId) (f : Slot → Slot) (s : State) : (s.mapSlotOf j f).ptpOffset = s.ptpOffset := rfl
@[simp] theorem State.mapSlotOf_ports (j : SlotId) (f : Slot → Slot) (s : State) : (s.mapSlotOf j f).ports = s.ports := rfl
@[simp] theorem State.mapSlotOf_colls (j : SlotId) (f : Slot → Slot) (s : State) : (s.mapSlotOf j f).colls = s.colls := rfl
@[simp] theorem State.mapSlotOf_chunks (j : SlotId) (f : Slot → Slot) (s : State) : (s.mapSlotOf j f).chunks = s.chunks := rfl
@[simp] theorem State.mapSlotOf_chunksOut (j : SlotId) (f : Slot → Slot) (s : State) : (s.mapSlotOf j f).chunksOut = s.chunksOut := rfl
@[simp] theorem State.mapSlotOf_collsDone (j : SlotId) (f : Slot → Slot) (s : State) : (s.mapSlotOf j f).collsDone = s.collsDone := rfl
@[simp] theorem State.mapSlotOf_unitTail (j : SlotId) (f : Slot → Slot) (s : State) : (s.mapSlotOf j f).unitTail = s.unitTail := rfl
@[simp] theorem State.mapSlotOf_unitLog (j : SlotId) (f : Slot → Slot) (s : State) : (s.mapSlotOf j f).unitLog = s.unitLog := rfl
@[simp] theorem State.mapSlotOf_board (j : SlotId) (f : Slot → Slot) (s : State) : (s.mapSlotOf j f).board = s.board := rfl
@[simp] theorem State.mapSlotOf_flash (j : SlotId) (f : Slot → Slot) (s : State) : (s.mapSlotOf j f).flash = s.flash := rfl
@[simp] theorem State.setG_others (r : GReg) (v : Word) (s : State) : (s.setG r v).others = s.others := rfl
@[simp] theorem State.setG_k (r : GReg) (v : Word) (s : State) : (s.setG r v).k = s.k := rfl
@[simp] theorem State.setG_ir (r : GReg) (v : Word) (s : State) : (s.setG r v).ir = s.ir := rfl
@[simp] theorem State.setG_stalled (r : GReg) (v : Word) (s : State) : (s.setG r v).stalled = s.stalled := rfl
@[simp] theorem State.setG_agenda (r : GReg) (v : Word) (s : State) : (s.setG r v).agenda = s.agenda := rfl
@[simp] theorem State.setG_ticks (r : GReg) (v : Word) (s : State) : (s.setG r v).ticks = s.ticks := rfl
@[simp] theorem State.setG_cycle (r : GReg) (v : Word) (s : State) : (s.setG r v).cycle = s.cycle := rfl
@[simp] theorem State.setG_mem (r : GReg) (v : Word) (s : State) : (s.setG r v).mem = s.mem := rfl
@[simp] theorem State.setG_poisoned (r : GReg) (v : Word) (s : State) : (s.setG r v).poisoned = s.poisoned := rfl
@[simp] theorem State.setG_poolEmpty (r : GReg) (v : Word) (s : State) : (s.setG r v).poolEmpty = s.poolEmpty := rfl
@[simp] theorem State.setG_net (r : GReg) (v : Word) (s : State) : (s.setG r v).net = s.net := rfl
@[simp] theorem State.setG_records (r : GReg) (v : Word) (s : State) : (s.setG r v).records = s.records := rfl
@[simp] theorem State.setG_homeSeq (r : GReg) (v : Word) (s : State) : (s.setG r v).homeSeq = s.homeSeq := rfl
@[simp] theorem State.setG_octets (r : GReg) (v : Word) (s : State) : (s.setG r v).octets = s.octets := rfl
@[simp] theorem State.setG_collVectors (r : GReg) (v : Word) (s : State) : (s.setG r v).collVectors = s.collVectors := rfl
@[simp] theorem State.setG_collFailures (r : GReg) (v : Word) (s : State) : (s.setG r v).collFailures = s.collFailures := rfl
@[simp] theorem State.setG_directory (r : GReg) (v : Word) (s : State) : (s.setG r v).directory = s.directory := rfl
@[simp] theorem State.setG_sump (r : GReg) (v : Word) (s : State) : (s.setG r v).sump = s.sump := rfl
@[simp] theorem State.setG_frames (r : GReg) (v : Word) (s : State) : (s.setG r v).frames = s.frames := rfl
@[simp] theorem State.setG_launches (r : GReg) (v : Word) (s : State) : (s.setG r v).launches = s.launches := rfl
@[simp] theorem State.setG_lastGen (r : GReg) (v : Word) (s : State) : (s.setG r v).lastGen = s.lastGen := rfl
@[simp] theorem State.setG_indexes (r : GReg) (v : Word) (s : State) : (s.setG r v).indexes = s.indexes := rfl
@[simp] theorem State.setG_nextLaunch (r : GReg) (v : Word) (s : State) : (s.setG r v).nextLaunch = s.nextLaunch := rfl
@[simp] theorem State.setG_queues (r : GReg) (v : Word) (s : State) : (s.setG r v).queues = s.queues := rfl
@[simp] theorem State.setG_functions (r : GReg) (v : Word) (s : State) : (s.setG r v).functions = s.functions := rfl
@[simp] theorem State.setG_interrupts (r : GReg) (v : Word) (s : State) : (s.setG r v).interrupts = s.interrupts := rfl
@[simp] theorem State.setG_hostData (r : GReg) (v : Word) (s : State) : (s.setG r v).hostData = s.hostData := rfl
@[simp] theorem State.setG_areas (r : GReg) (v : Word) (s : State) : (s.setG r v).areas = s.areas := rfl
@[simp] theorem State.setG_lastSweep (r : GReg) (v : Word) (s : State) : (s.setG r v).lastSweep = s.lastSweep := rfl
@[simp] theorem State.setG_part0 (r : GReg) (v : Word) (s : State) : (s.setG r v).part0 = s.part0 := rfl
@[simp] theorem State.setG_parts (r : GReg) (v : Word) (s : State) : (s.setG r v).parts = s.parts := rfl
@[simp] theorem State.setG_ptpOffset (r : GReg) (v : Word) (s : State) : (s.setG r v).ptpOffset = s.ptpOffset := rfl
@[simp] theorem State.setG_ports (r : GReg) (v : Word) (s : State) : (s.setG r v).ports = s.ports := rfl
@[simp] theorem State.setG_colls (r : GReg) (v : Word) (s : State) : (s.setG r v).colls = s.colls := rfl
@[simp] theorem State.setG_chunks (r : GReg) (v : Word) (s : State) : (s.setG r v).chunks = s.chunks := rfl
@[simp] theorem State.setG_chunksOut (r : GReg) (v : Word) (s : State) : (s.setG r v).chunksOut = s.chunksOut := rfl
@[simp] theorem State.setG_collsDone (r : GReg) (v : Word) (s : State) : (s.setG r v).collsDone = s.collsDone := rfl
@[simp] theorem State.setG_unitTail (r : GReg) (v : Word) (s : State) : (s.setG r v).unitTail = s.unitTail := rfl
@[simp] theorem State.setG_unitLog (r : GReg) (v : Word) (s : State) : (s.setG r v).unitLog = s.unitLog := rfl
@[simp] theorem State.setG_board (r : GReg) (v : Word) (s : State) : (s.setG r v).board = s.board := rfl
@[simp] theorem State.setG_flash (r : GReg) (v : Word) (s : State) : (s.setG r v).flash = s.flash := rfl
@[simp] theorem State.retire_others (s : State) : (s.retire).others = s.others := rfl
@[simp] theorem State.retire_k (s : State) : (s.retire).k = s.k := rfl
@[simp] theorem State.retire_ir (s : State) : (s.retire).ir = s.ir := rfl
@[simp] theorem State.retire_stalled (s : State) : (s.retire).stalled = s.stalled := rfl
@[simp] theorem State.retire_agenda (s : State) : (s.retire).agenda = s.agenda := rfl
@[simp] theorem State.retire_ticks (s : State) : (s.retire).ticks = s.ticks := rfl
@[simp] theorem State.retire_cycle (s : State) : (s.retire).cycle = s.cycle := rfl
@[simp] theorem State.retire_mem (s : State) : (s.retire).mem = s.mem := rfl
@[simp] theorem State.retire_poisoned (s : State) : (s.retire).poisoned = s.poisoned := rfl
@[simp] theorem State.retire_poolEmpty (s : State) : (s.retire).poolEmpty = s.poolEmpty := rfl
@[simp] theorem State.retire_net (s : State) : (s.retire).net = s.net := rfl
@[simp] theorem State.retire_records (s : State) : (s.retire).records = s.records := rfl
@[simp] theorem State.retire_homeSeq (s : State) : (s.retire).homeSeq = s.homeSeq := rfl
@[simp] theorem State.retire_octets (s : State) : (s.retire).octets = s.octets := rfl
@[simp] theorem State.retire_collVectors (s : State) : (s.retire).collVectors = s.collVectors := rfl
@[simp] theorem State.retire_collFailures (s : State) : (s.retire).collFailures = s.collFailures := rfl
@[simp] theorem State.retire_directory (s : State) : (s.retire).directory = s.directory := rfl
@[simp] theorem State.retire_sump (s : State) : (s.retire).sump = s.sump := rfl
@[simp] theorem State.retire_frames (s : State) : (s.retire).frames = s.frames := rfl
@[simp] theorem State.retire_launches (s : State) : (s.retire).launches = s.launches := rfl
@[simp] theorem State.retire_lastGen (s : State) : (s.retire).lastGen = s.lastGen := rfl
@[simp] theorem State.retire_indexes (s : State) : (s.retire).indexes = s.indexes := rfl
@[simp] theorem State.retire_nextLaunch (s : State) : (s.retire).nextLaunch = s.nextLaunch := rfl
@[simp] theorem State.retire_queues (s : State) : (s.retire).queues = s.queues := rfl
@[simp] theorem State.retire_functions (s : State) : (s.retire).functions = s.functions := rfl
@[simp] theorem State.retire_interrupts (s : State) : (s.retire).interrupts = s.interrupts := rfl
@[simp] theorem State.retire_hostData (s : State) : (s.retire).hostData = s.hostData := rfl
@[simp] theorem State.retire_areas (s : State) : (s.retire).areas = s.areas := rfl
@[simp] theorem State.retire_lastSweep (s : State) : (s.retire).lastSweep = s.lastSweep := rfl
@[simp] theorem State.retire_part0 (s : State) : (s.retire).part0 = s.part0 := rfl
@[simp] theorem State.retire_parts (s : State) : (s.retire).parts = s.parts := rfl
@[simp] theorem State.retire_ptpOffset (s : State) : (s.retire).ptpOffset = s.ptpOffset := rfl
@[simp] theorem State.retire_ports (s : State) : (s.retire).ports = s.ports := rfl
@[simp] theorem State.retire_colls (s : State) : (s.retire).colls = s.colls := rfl
@[simp] theorem State.retire_chunks (s : State) : (s.retire).chunks = s.chunks := rfl
@[simp] theorem State.retire_chunksOut (s : State) : (s.retire).chunksOut = s.chunksOut := rfl
@[simp] theorem State.retire_collsDone (s : State) : (s.retire).collsDone = s.collsDone := rfl
@[simp] theorem State.retire_unitTail (s : State) : (s.retire).unitTail = s.unitTail := rfl
@[simp] theorem State.retire_unitLog (s : State) : (s.retire).unitLog = s.unitLog := rfl
@[simp] theorem State.retire_board (s : State) : (s.retire).board = s.board := rfl
@[simp] theorem State.retire_flash (s : State) : (s.retire).flash = s.flash := rfl
@[simp] theorem State.retireNow_others (s : State) : (s.retireNow).others = s.others := rfl
@[simp] theorem State.retireNow_k (s : State) : (s.retireNow).k = s.k := rfl
@[simp] theorem State.retireNow_ir (s : State) : (s.retireNow).ir = s.ir := rfl
@[simp] theorem State.retireNow_stalled (s : State) : (s.retireNow).stalled = s.stalled := rfl
@[simp] theorem State.retireNow_agenda (s : State) : (s.retireNow).agenda = s.agenda := rfl
@[simp] theorem State.retireNow_ticks (s : State) : (s.retireNow).ticks = s.ticks := rfl
@[simp] theorem State.retireNow_cycle (s : State) : (s.retireNow).cycle = s.cycle := rfl
@[simp] theorem State.retireNow_mem (s : State) : (s.retireNow).mem = s.mem := rfl
@[simp] theorem State.retireNow_poisoned (s : State) : (s.retireNow).poisoned = s.poisoned := rfl
@[simp] theorem State.retireNow_poolEmpty (s : State) : (s.retireNow).poolEmpty = s.poolEmpty := rfl
@[simp] theorem State.retireNow_net (s : State) : (s.retireNow).net = s.net := rfl
@[simp] theorem State.retireNow_records (s : State) : (s.retireNow).records = s.records := rfl
@[simp] theorem State.retireNow_homeSeq (s : State) : (s.retireNow).homeSeq = s.homeSeq := rfl
@[simp] theorem State.retireNow_octets (s : State) : (s.retireNow).octets = s.octets := rfl
@[simp] theorem State.retireNow_collVectors (s : State) : (s.retireNow).collVectors = s.collVectors := rfl
@[simp] theorem State.retireNow_collFailures (s : State) : (s.retireNow).collFailures = s.collFailures := rfl
@[simp] theorem State.retireNow_directory (s : State) : (s.retireNow).directory = s.directory := rfl
@[simp] theorem State.retireNow_sump (s : State) : (s.retireNow).sump = s.sump := rfl
@[simp] theorem State.retireNow_frames (s : State) : (s.retireNow).frames = s.frames := rfl
@[simp] theorem State.retireNow_launches (s : State) : (s.retireNow).launches = s.launches := rfl
@[simp] theorem State.retireNow_lastGen (s : State) : (s.retireNow).lastGen = s.lastGen := rfl
@[simp] theorem State.retireNow_indexes (s : State) : (s.retireNow).indexes = s.indexes := rfl
@[simp] theorem State.retireNow_nextLaunch (s : State) : (s.retireNow).nextLaunch = s.nextLaunch := rfl
@[simp] theorem State.retireNow_queues (s : State) : (s.retireNow).queues = s.queues := rfl
@[simp] theorem State.retireNow_functions (s : State) : (s.retireNow).functions = s.functions := rfl
@[simp] theorem State.retireNow_interrupts (s : State) : (s.retireNow).interrupts = s.interrupts := rfl
@[simp] theorem State.retireNow_hostData (s : State) : (s.retireNow).hostData = s.hostData := rfl
@[simp] theorem State.retireNow_areas (s : State) : (s.retireNow).areas = s.areas := rfl
@[simp] theorem State.retireNow_lastSweep (s : State) : (s.retireNow).lastSweep = s.lastSweep := rfl
@[simp] theorem State.retireNow_part0 (s : State) : (s.retireNow).part0 = s.part0 := rfl
@[simp] theorem State.retireNow_parts (s : State) : (s.retireNow).parts = s.parts := rfl
@[simp] theorem State.retireNow_ptpOffset (s : State) : (s.retireNow).ptpOffset = s.ptpOffset := rfl
@[simp] theorem State.retireNow_ports (s : State) : (s.retireNow).ports = s.ports := rfl
@[simp] theorem State.retireNow_colls (s : State) : (s.retireNow).colls = s.colls := rfl
@[simp] theorem State.retireNow_chunks (s : State) : (s.retireNow).chunks = s.chunks := rfl
@[simp] theorem State.retireNow_chunksOut (s : State) : (s.retireNow).chunksOut = s.chunksOut := rfl
@[simp] theorem State.retireNow_collsDone (s : State) : (s.retireNow).collsDone = s.collsDone := rfl
@[simp] theorem State.retireNow_unitTail (s : State) : (s.retireNow).unitTail = s.unitTail := rfl
@[simp] theorem State.retireNow_unitLog (s : State) : (s.retireNow).unitLog = s.unitLog := rfl
@[simp] theorem State.retireNow_board (s : State) : (s.retireNow).board = s.board := rfl
@[simp] theorem State.retireNow_flash (s : State) : (s.retireNow).flash = s.flash := rfl
@[simp] theorem State.raiseFlags_others (x : Flags) (s : State) : (s.raiseFlags x).others = s.others := rfl
@[simp] theorem State.raiseFlags_k (x : Flags) (s : State) : (s.raiseFlags x).k = s.k := rfl
@[simp] theorem State.raiseFlags_ir (x : Flags) (s : State) : (s.raiseFlags x).ir = s.ir := rfl
@[simp] theorem State.raiseFlags_stalled (x : Flags) (s : State) : (s.raiseFlags x).stalled = s.stalled := rfl
@[simp] theorem State.raiseFlags_agenda (x : Flags) (s : State) : (s.raiseFlags x).agenda = s.agenda := rfl
@[simp] theorem State.raiseFlags_ticks (x : Flags) (s : State) : (s.raiseFlags x).ticks = s.ticks := rfl
@[simp] theorem State.raiseFlags_cycle (x : Flags) (s : State) : (s.raiseFlags x).cycle = s.cycle := rfl
@[simp] theorem State.raiseFlags_mem (x : Flags) (s : State) : (s.raiseFlags x).mem = s.mem := rfl
@[simp] theorem State.raiseFlags_poisoned (x : Flags) (s : State) : (s.raiseFlags x).poisoned = s.poisoned := rfl
@[simp] theorem State.raiseFlags_poolEmpty (x : Flags) (s : State) : (s.raiseFlags x).poolEmpty = s.poolEmpty := rfl
@[simp] theorem State.raiseFlags_net (x : Flags) (s : State) : (s.raiseFlags x).net = s.net := rfl
@[simp] theorem State.raiseFlags_records (x : Flags) (s : State) : (s.raiseFlags x).records = s.records := rfl
@[simp] theorem State.raiseFlags_homeSeq (x : Flags) (s : State) : (s.raiseFlags x).homeSeq = s.homeSeq := rfl
@[simp] theorem State.raiseFlags_octets (x : Flags) (s : State) : (s.raiseFlags x).octets = s.octets := rfl
@[simp] theorem State.raiseFlags_collVectors (x : Flags) (s : State) : (s.raiseFlags x).collVectors = s.collVectors := rfl
@[simp] theorem State.raiseFlags_collFailures (x : Flags) (s : State) : (s.raiseFlags x).collFailures = s.collFailures := rfl
@[simp] theorem State.raiseFlags_directory (x : Flags) (s : State) : (s.raiseFlags x).directory = s.directory := rfl
@[simp] theorem State.raiseFlags_sump (x : Flags) (s : State) : (s.raiseFlags x).sump = s.sump := rfl
@[simp] theorem State.raiseFlags_frames (x : Flags) (s : State) : (s.raiseFlags x).frames = s.frames := rfl
@[simp] theorem State.raiseFlags_launches (x : Flags) (s : State) : (s.raiseFlags x).launches = s.launches := rfl
@[simp] theorem State.raiseFlags_lastGen (x : Flags) (s : State) : (s.raiseFlags x).lastGen = s.lastGen := rfl
@[simp] theorem State.raiseFlags_indexes (x : Flags) (s : State) : (s.raiseFlags x).indexes = s.indexes := rfl
@[simp] theorem State.raiseFlags_nextLaunch (x : Flags) (s : State) : (s.raiseFlags x).nextLaunch = s.nextLaunch := rfl
@[simp] theorem State.raiseFlags_queues (x : Flags) (s : State) : (s.raiseFlags x).queues = s.queues := rfl
@[simp] theorem State.raiseFlags_functions (x : Flags) (s : State) : (s.raiseFlags x).functions = s.functions := rfl
@[simp] theorem State.raiseFlags_interrupts (x : Flags) (s : State) : (s.raiseFlags x).interrupts = s.interrupts := rfl
@[simp] theorem State.raiseFlags_hostData (x : Flags) (s : State) : (s.raiseFlags x).hostData = s.hostData := rfl
@[simp] theorem State.raiseFlags_areas (x : Flags) (s : State) : (s.raiseFlags x).areas = s.areas := rfl
@[simp] theorem State.raiseFlags_lastSweep (x : Flags) (s : State) : (s.raiseFlags x).lastSweep = s.lastSweep := rfl
@[simp] theorem State.raiseFlags_part0 (x : Flags) (s : State) : (s.raiseFlags x).part0 = s.part0 := rfl
@[simp] theorem State.raiseFlags_parts (x : Flags) (s : State) : (s.raiseFlags x).parts = s.parts := rfl
@[simp] theorem State.raiseFlags_ptpOffset (x : Flags) (s : State) : (s.raiseFlags x).ptpOffset = s.ptpOffset := rfl
@[simp] theorem State.raiseFlags_ports (x : Flags) (s : State) : (s.raiseFlags x).ports = s.ports := rfl
@[simp] theorem State.raiseFlags_colls (x : Flags) (s : State) : (s.raiseFlags x).colls = s.colls := rfl
@[simp] theorem State.raiseFlags_chunks (x : Flags) (s : State) : (s.raiseFlags x).chunks = s.chunks := rfl
@[simp] theorem State.raiseFlags_chunksOut (x : Flags) (s : State) : (s.raiseFlags x).chunksOut = s.chunksOut := rfl
@[simp] theorem State.raiseFlags_collsDone (x : Flags) (s : State) : (s.raiseFlags x).collsDone = s.collsDone := rfl
@[simp] theorem State.raiseFlags_unitTail (x : Flags) (s : State) : (s.raiseFlags x).unitTail = s.unitTail := rfl
@[simp] theorem State.raiseFlags_unitLog (x : Flags) (s : State) : (s.raiseFlags x).unitLog = s.unitLog := rfl
@[simp] theorem State.raiseFlags_board (x : Flags) (s : State) : (s.raiseFlags x).board = s.board := rfl
@[simp] theorem State.raiseFlags_flash (x : Flags) (s : State) : (s.raiseFlags x).flash = s.flash := rfl
@[simp] theorem State.stall_core (s : State) : (s.stall).core = s.core := rfl
@[simp] theorem State.stall_others (s : State) : (s.stall).others = s.others := rfl
@[simp] theorem State.stall_k (s : State) : (s.stall).k = s.k := rfl
@[simp] theorem State.stall_ir (s : State) : (s.stall).ir = s.ir := rfl
@[simp] theorem State.stall_agenda (s : State) : (s.stall).agenda = s.agenda := rfl
@[simp] theorem State.stall_ticks (s : State) : (s.stall).ticks = s.ticks := rfl
@[simp] theorem State.stall_cycle (s : State) : (s.stall).cycle = s.cycle := rfl
@[simp] theorem State.stall_mem (s : State) : (s.stall).mem = s.mem := rfl
@[simp] theorem State.stall_poisoned (s : State) : (s.stall).poisoned = s.poisoned := rfl
@[simp] theorem State.stall_poolEmpty (s : State) : (s.stall).poolEmpty = s.poolEmpty := rfl
@[simp] theorem State.stall_net (s : State) : (s.stall).net = s.net := rfl
@[simp] theorem State.stall_records (s : State) : (s.stall).records = s.records := rfl
@[simp] theorem State.stall_homeSeq (s : State) : (s.stall).homeSeq = s.homeSeq := rfl
@[simp] theorem State.stall_octets (s : State) : (s.stall).octets = s.octets := rfl
@[simp] theorem State.stall_collVectors (s : State) : (s.stall).collVectors = s.collVectors := rfl
@[simp] theorem State.stall_collFailures (s : State) : (s.stall).collFailures = s.collFailures := rfl
@[simp] theorem State.stall_directory (s : State) : (s.stall).directory = s.directory := rfl
@[simp] theorem State.stall_sump (s : State) : (s.stall).sump = s.sump := rfl
@[simp] theorem State.stall_frames (s : State) : (s.stall).frames = s.frames := rfl
@[simp] theorem State.stall_launches (s : State) : (s.stall).launches = s.launches := rfl
@[simp] theorem State.stall_lastGen (s : State) : (s.stall).lastGen = s.lastGen := rfl
@[simp] theorem State.stall_indexes (s : State) : (s.stall).indexes = s.indexes := rfl
@[simp] theorem State.stall_nextLaunch (s : State) : (s.stall).nextLaunch = s.nextLaunch := rfl
@[simp] theorem State.stall_queues (s : State) : (s.stall).queues = s.queues := rfl
@[simp] theorem State.stall_functions (s : State) : (s.stall).functions = s.functions := rfl
@[simp] theorem State.stall_interrupts (s : State) : (s.stall).interrupts = s.interrupts := rfl
@[simp] theorem State.stall_hostData (s : State) : (s.stall).hostData = s.hostData := rfl
@[simp] theorem State.stall_areas (s : State) : (s.stall).areas = s.areas := rfl
@[simp] theorem State.stall_lastSweep (s : State) : (s.stall).lastSweep = s.lastSweep := rfl
@[simp] theorem State.stall_part0 (s : State) : (s.stall).part0 = s.part0 := rfl
@[simp] theorem State.stall_parts (s : State) : (s.stall).parts = s.parts := rfl
@[simp] theorem State.stall_ptpOffset (s : State) : (s.stall).ptpOffset = s.ptpOffset := rfl
@[simp] theorem State.stall_ports (s : State) : (s.stall).ports = s.ports := rfl
@[simp] theorem State.stall_colls (s : State) : (s.stall).colls = s.colls := rfl
@[simp] theorem State.stall_chunks (s : State) : (s.stall).chunks = s.chunks := rfl
@[simp] theorem State.stall_chunksOut (s : State) : (s.stall).chunksOut = s.chunksOut := rfl
@[simp] theorem State.stall_collsDone (s : State) : (s.stall).collsDone = s.collsDone := rfl
@[simp] theorem State.stall_unitTail (s : State) : (s.stall).unitTail = s.unitTail := rfl
@[simp] theorem State.stall_unitLog (s : State) : (s.stall).unitLog = s.unitLog := rfl
@[simp] theorem State.stall_board (s : State) : (s.stall).board = s.board := rfl
@[simp] theorem State.stall_flash (s : State) : (s.stall).flash = s.flash := rfl
@[simp] theorem State.stall_stalled (s : State) : s.stall.stalled = true := rfl
@[simp] theorem State.mapCore_core (f : Core → Core) (s : State) : (s.mapCore f).core = f s.core := rfl
@[simp] theorem State.stall_grp (s : State) : s.stall.grp = s.grp := rfl
@[simp] theorem State.mapGrp_grp (f : Group → Group) (s : State) : (s.mapGrp f).grp = f s.grp := rfl
@[simp] theorem State.mapSlot_grp (f : Slot → Slot) (s : State) : (s.mapSlot f).grp = s.grp.mapSlot s.k f := rfl
@[simp] theorem State.mapSlotOf_grp (j : SlotId) (f : Slot → Slot) (s : State) : (s.mapSlotOf j f).grp = s.grp.mapSlot j f := rfl
@[simp] theorem State.setG_grp (r : GReg) (v : Word) (s : State) : (s.setG r v).grp = s.grp.mapSlot s.k (·.set r v) := rfl
@[simp] theorem State.retire_grp (s : State) : s.retire.grp = { s.grp with instret := s.grp.instret + 1, inFlight := s.grp.inFlight + 1 } := rfl
@[simp] theorem State.retireNow_grp (s : State) : s.retireNow.grp = { s.grp with instret := s.grp.instret + 1 } := rfl
@[simp] theorem State.raiseFlags_grp (x : Flags) (s : State) : (s.raiseFlags x).grp = { s.grp with fflags := s.grp.fflags ||| x } := rfl

/-! ## The focus core -/

@[simp] theorem State.mapGrp_core_at_ (f : Group → Group) (s : State) : (s.mapGrp f).core.at_ = s.core.at_ := rfl
@[simp] theorem State.mapGrp_core_vacant (f : Group → Group) (s : State) : (s.mapGrp f).core.vacant = s.core.vacant := rfl
@[simp] theorem State.mapGrp_core_retired (f : Group → Group) (s : State) : (s.mapGrp f).core.retired = s.core.retired := rfl
@[simp] theorem State.mapGrp_core_tlb (f : Group → Group) (s : State) : (s.mapGrp f).core.tlb = s.core.tlb := rfl
@[simp] theorem State.mapGrp_core_names (f : Group → Group) (s : State) : (s.mapGrp f).core.names = s.core.names := rfl
@[simp] theorem State.mapGrp_core_view (f : Group → Group) (s : State) : (s.mapGrp f).core.view = s.core.view := rfl
@[simp] theorem State.mapGrp_core_frontier (f : Group → Group) (s : State) : (s.mapGrp f).core.frontier = s.core.frontier := rfl
@[simp] theorem State.mapGrp_core_tags (f : Group → Group) (s : State) : (s.mapGrp f).core.tags = s.core.tags := rfl
@[simp] theorem State.mapGrp_core_fnCopies (f : Group → Group) (s : State) : (s.mapGrp f).core.fnCopies = s.core.fnCopies := rfl
@[simp] theorem State.mapGrp_core_icache (f : Group → Group) (s : State) : (s.mapGrp f).core.icache = s.core.icache := rfl
@[simp] theorem State.mapGrp_core_latency (f : Group → Group) (s : State) : (s.mapGrp f).core.latency = s.core.latency := rfl
@[simp] theorem State.mapGrp_core_banks (f : Group → Group) (s : State) : (s.mapGrp f).core.banks = s.core.banks := rfl
@[simp] theorem State.mapGrp_core_forwards (f : Group → Group) (s : State) : (s.mapGrp f).core.forwards = s.core.forwards := rfl
@[simp] theorem State.mapGrp_core_counters (f : Group → Group) (s : State) : (s.mapGrp f).core.counters = s.core.counters := rfl
@[simp] theorem State.mapGrp_core_held (f : Group → Group) (s : State) : (s.mapGrp f).core.held = s.core.held := rfl
@[simp] theorem State.mapGrp_core_fills (f : Group → Group) (s : State) : (s.mapGrp f).core.fills = s.core.fills := rfl
@[simp] theorem State.mapGrp_core_swap (f : Group → Group) (s : State) : (s.mapGrp f).core.swap = s.core.swap := rfl
@[simp] theorem State.mapGrp_core_asleep (f : Group → Group) (s : State) : (s.mapGrp f).core.asleep = s.core.asleep := rfl
@[simp] theorem State.mapGrp_core_misses (f : Group → Group) (s : State) : (s.mapGrp f).core.misses = s.core.misses := rfl
@[simp] theorem State.mapGrp_core_discarded (f : Group → Group) (s : State) : (s.mapGrp f).core.discarded = s.core.discarded := rfl
@[simp] theorem State.mapGrp_core_refusedOrder (f : Group → Group) (s : State) : (s.mapGrp f).core.refusedOrder = s.core.refusedOrder := rfl
@[simp] theorem State.mapGrp_core_evacuating (f : Group → Group) (s : State) : (s.mapGrp f).core.evacuating = s.core.evacuating := rfl
@[simp] theorem State.mapGrp_core_failedLinks (f : Group → Group) (s : State) : (s.mapGrp f).core.failedLinks = s.core.failedLinks := rfl
@[simp] theorem State.mapSlot_core_at_ (f : Slot → Slot) (s : State) : (s.mapSlot f).core.at_ = s.core.at_ := rfl
@[simp] theorem State.mapSlot_core_vacant (f : Slot → Slot) (s : State) : (s.mapSlot f).core.vacant = s.core.vacant := rfl
@[simp] theorem State.mapSlot_core_retired (f : Slot → Slot) (s : State) : (s.mapSlot f).core.retired = s.core.retired := rfl
@[simp] theorem State.mapSlot_core_tlb (f : Slot → Slot) (s : State) : (s.mapSlot f).core.tlb = s.core.tlb := rfl
@[simp] theorem State.mapSlot_core_names (f : Slot → Slot) (s : State) : (s.mapSlot f).core.names = s.core.names := rfl
@[simp] theorem State.mapSlot_core_view (f : Slot → Slot) (s : State) : (s.mapSlot f).core.view = s.core.view := rfl
@[simp] theorem State.mapSlot_core_frontier (f : Slot → Slot) (s : State) : (s.mapSlot f).core.frontier = s.core.frontier := rfl
@[simp] theorem State.mapSlot_core_tags (f : Slot → Slot) (s : State) : (s.mapSlot f).core.tags = s.core.tags := rfl
@[simp] theorem State.mapSlot_core_fnCopies (f : Slot → Slot) (s : State) : (s.mapSlot f).core.fnCopies = s.core.fnCopies := rfl
@[simp] theorem State.mapSlot_core_icache (f : Slot → Slot) (s : State) : (s.mapSlot f).core.icache = s.core.icache := rfl
@[simp] theorem State.mapSlot_core_latency (f : Slot → Slot) (s : State) : (s.mapSlot f).core.latency = s.core.latency := rfl
@[simp] theorem State.mapSlot_core_banks (f : Slot → Slot) (s : State) : (s.mapSlot f).core.banks = s.core.banks := rfl
@[simp] theorem State.mapSlot_core_forwards (f : Slot → Slot) (s : State) : (s.mapSlot f).core.forwards = s.core.forwards := rfl
@[simp] theorem State.mapSlot_core_counters (f : Slot → Slot) (s : State) : (s.mapSlot f).core.counters = s.core.counters := rfl
@[simp] theorem State.mapSlot_core_held (f : Slot → Slot) (s : State) : (s.mapSlot f).core.held = s.core.held := rfl
@[simp] theorem State.mapSlot_core_fills (f : Slot → Slot) (s : State) : (s.mapSlot f).core.fills = s.core.fills := rfl
@[simp] theorem State.mapSlot_core_swap (f : Slot → Slot) (s : State) : (s.mapSlot f).core.swap = s.core.swap := rfl
@[simp] theorem State.mapSlot_core_asleep (f : Slot → Slot) (s : State) : (s.mapSlot f).core.asleep = s.core.asleep := rfl
@[simp] theorem State.mapSlot_core_misses (f : Slot → Slot) (s : State) : (s.mapSlot f).core.misses = s.core.misses := rfl
@[simp] theorem State.mapSlot_core_discarded (f : Slot → Slot) (s : State) : (s.mapSlot f).core.discarded = s.core.discarded := rfl
@[simp] theorem State.mapSlot_core_refusedOrder (f : Slot → Slot) (s : State) : (s.mapSlot f).core.refusedOrder = s.core.refusedOrder := rfl
@[simp] theorem State.mapSlot_core_evacuating (f : Slot → Slot) (s : State) : (s.mapSlot f).core.evacuating = s.core.evacuating := rfl
@[simp] theorem State.mapSlot_core_failedLinks (f : Slot → Slot) (s : State) : (s.mapSlot f).core.failedLinks = s.core.failedLinks := rfl
@[simp] theorem State.mapSlotOf_core_at_ (j : SlotId) (f : Slot → Slot) (s : State) : (s.mapSlotOf j f).core.at_ = s.core.at_ := rfl
@[simp] theorem State.mapSlotOf_core_vacant (j : SlotId) (f : Slot → Slot) (s : State) : (s.mapSlotOf j f).core.vacant = s.core.vacant := rfl
@[simp] theorem State.mapSlotOf_core_retired (j : SlotId) (f : Slot → Slot) (s : State) : (s.mapSlotOf j f).core.retired = s.core.retired := rfl
@[simp] theorem State.mapSlotOf_core_tlb (j : SlotId) (f : Slot → Slot) (s : State) : (s.mapSlotOf j f).core.tlb = s.core.tlb := rfl
@[simp] theorem State.mapSlotOf_core_names (j : SlotId) (f : Slot → Slot) (s : State) : (s.mapSlotOf j f).core.names = s.core.names := rfl
@[simp] theorem State.mapSlotOf_core_view (j : SlotId) (f : Slot → Slot) (s : State) : (s.mapSlotOf j f).core.view = s.core.view := rfl
@[simp] theorem State.mapSlotOf_core_frontier (j : SlotId) (f : Slot → Slot) (s : State) : (s.mapSlotOf j f).core.frontier = s.core.frontier := rfl
@[simp] theorem State.mapSlotOf_core_tags (j : SlotId) (f : Slot → Slot) (s : State) : (s.mapSlotOf j f).core.tags = s.core.tags := rfl
@[simp] theorem State.mapSlotOf_core_fnCopies (j : SlotId) (f : Slot → Slot) (s : State) : (s.mapSlotOf j f).core.fnCopies = s.core.fnCopies := rfl
@[simp] theorem State.mapSlotOf_core_icache (j : SlotId) (f : Slot → Slot) (s : State) : (s.mapSlotOf j f).core.icache = s.core.icache := rfl
@[simp] theorem State.mapSlotOf_core_latency (j : SlotId) (f : Slot → Slot) (s : State) : (s.mapSlotOf j f).core.latency = s.core.latency := rfl
@[simp] theorem State.mapSlotOf_core_banks (j : SlotId) (f : Slot → Slot) (s : State) : (s.mapSlotOf j f).core.banks = s.core.banks := rfl
@[simp] theorem State.mapSlotOf_core_forwards (j : SlotId) (f : Slot → Slot) (s : State) : (s.mapSlotOf j f).core.forwards = s.core.forwards := rfl
@[simp] theorem State.mapSlotOf_core_counters (j : SlotId) (f : Slot → Slot) (s : State) : (s.mapSlotOf j f).core.counters = s.core.counters := rfl
@[simp] theorem State.mapSlotOf_core_held (j : SlotId) (f : Slot → Slot) (s : State) : (s.mapSlotOf j f).core.held = s.core.held := rfl
@[simp] theorem State.mapSlotOf_core_fills (j : SlotId) (f : Slot → Slot) (s : State) : (s.mapSlotOf j f).core.fills = s.core.fills := rfl
@[simp] theorem State.mapSlotOf_core_swap (j : SlotId) (f : Slot → Slot) (s : State) : (s.mapSlotOf j f).core.swap = s.core.swap := rfl
@[simp] theorem State.mapSlotOf_core_asleep (j : SlotId) (f : Slot → Slot) (s : State) : (s.mapSlotOf j f).core.asleep = s.core.asleep := rfl
@[simp] theorem State.mapSlotOf_core_misses (j : SlotId) (f : Slot → Slot) (s : State) : (s.mapSlotOf j f).core.misses = s.core.misses := rfl
@[simp] theorem State.mapSlotOf_core_discarded (j : SlotId) (f : Slot → Slot) (s : State) : (s.mapSlotOf j f).core.discarded = s.core.discarded := rfl
@[simp] theorem State.mapSlotOf_core_refusedOrder (j : SlotId) (f : Slot → Slot) (s : State) : (s.mapSlotOf j f).core.refusedOrder = s.core.refusedOrder := rfl
@[simp] theorem State.mapSlotOf_core_evacuating (j : SlotId) (f : Slot → Slot) (s : State) : (s.mapSlotOf j f).core.evacuating = s.core.evacuating := rfl
@[simp] theorem State.mapSlotOf_core_failedLinks (j : SlotId) (f : Slot → Slot) (s : State) : (s.mapSlotOf j f).core.failedLinks = s.core.failedLinks := rfl
@[simp] theorem State.setG_core_at_ (r : GReg) (v : Word) (s : State) : (s.setG r v).core.at_ = s.core.at_ := rfl
@[simp] theorem State.setG_core_vacant (r : GReg) (v : Word) (s : State) : (s.setG r v).core.vacant = s.core.vacant := rfl
@[simp] theorem State.setG_core_retired (r : GReg) (v : Word) (s : State) : (s.setG r v).core.retired = s.core.retired := rfl
@[simp] theorem State.setG_core_tlb (r : GReg) (v : Word) (s : State) : (s.setG r v).core.tlb = s.core.tlb := rfl
@[simp] theorem State.setG_core_names (r : GReg) (v : Word) (s : State) : (s.setG r v).core.names = s.core.names := rfl
@[simp] theorem State.setG_core_view (r : GReg) (v : Word) (s : State) : (s.setG r v).core.view = s.core.view := rfl
@[simp] theorem State.setG_core_frontier (r : GReg) (v : Word) (s : State) : (s.setG r v).core.frontier = s.core.frontier := rfl
@[simp] theorem State.setG_core_tags (r : GReg) (v : Word) (s : State) : (s.setG r v).core.tags = s.core.tags := rfl
@[simp] theorem State.setG_core_fnCopies (r : GReg) (v : Word) (s : State) : (s.setG r v).core.fnCopies = s.core.fnCopies := rfl
@[simp] theorem State.setG_core_icache (r : GReg) (v : Word) (s : State) : (s.setG r v).core.icache = s.core.icache := rfl
@[simp] theorem State.setG_core_latency (r : GReg) (v : Word) (s : State) : (s.setG r v).core.latency = s.core.latency := rfl
@[simp] theorem State.setG_core_banks (r : GReg) (v : Word) (s : State) : (s.setG r v).core.banks = s.core.banks := rfl
@[simp] theorem State.setG_core_forwards (r : GReg) (v : Word) (s : State) : (s.setG r v).core.forwards = s.core.forwards := rfl
@[simp] theorem State.setG_core_counters (r : GReg) (v : Word) (s : State) : (s.setG r v).core.counters = s.core.counters := rfl
@[simp] theorem State.setG_core_held (r : GReg) (v : Word) (s : State) : (s.setG r v).core.held = s.core.held := rfl
@[simp] theorem State.setG_core_fills (r : GReg) (v : Word) (s : State) : (s.setG r v).core.fills = s.core.fills := rfl
@[simp] theorem State.setG_core_swap (r : GReg) (v : Word) (s : State) : (s.setG r v).core.swap = s.core.swap := rfl
@[simp] theorem State.setG_core_asleep (r : GReg) (v : Word) (s : State) : (s.setG r v).core.asleep = s.core.asleep := rfl
@[simp] theorem State.setG_core_misses (r : GReg) (v : Word) (s : State) : (s.setG r v).core.misses = s.core.misses := rfl
@[simp] theorem State.setG_core_discarded (r : GReg) (v : Word) (s : State) : (s.setG r v).core.discarded = s.core.discarded := rfl
@[simp] theorem State.setG_core_refusedOrder (r : GReg) (v : Word) (s : State) : (s.setG r v).core.refusedOrder = s.core.refusedOrder := rfl
@[simp] theorem State.setG_core_evacuating (r : GReg) (v : Word) (s : State) : (s.setG r v).core.evacuating = s.core.evacuating := rfl
@[simp] theorem State.setG_core_failedLinks (r : GReg) (v : Word) (s : State) : (s.setG r v).core.failedLinks = s.core.failedLinks := rfl
@[simp] theorem State.retire_core_at_ (s : State) : (s.retire).core.at_ = s.core.at_ := rfl
@[simp] theorem State.retire_core_vacant (s : State) : (s.retire).core.vacant = s.core.vacant := rfl
@[simp] theorem State.retire_core_retired (s : State) : (s.retire).core.retired = s.core.retired := rfl
@[simp] theorem State.retire_core_tlb (s : State) : (s.retire).core.tlb = s.core.tlb := rfl
@[simp] theorem State.retire_core_names (s : State) : (s.retire).core.names = s.core.names := rfl
@[simp] theorem State.retire_core_view (s : State) : (s.retire).core.view = s.core.view := rfl
@[simp] theorem State.retire_core_frontier (s : State) : (s.retire).core.frontier = s.core.frontier := rfl
@[simp] theorem State.retire_core_tags (s : State) : (s.retire).core.tags = s.core.tags := rfl
@[simp] theorem State.retire_core_fnCopies (s : State) : (s.retire).core.fnCopies = s.core.fnCopies := rfl
@[simp] theorem State.retire_core_icache (s : State) : (s.retire).core.icache = s.core.icache := rfl
@[simp] theorem State.retire_core_latency (s : State) : (s.retire).core.latency = s.core.latency := rfl
@[simp] theorem State.retire_core_banks (s : State) : (s.retire).core.banks = s.core.banks := rfl
@[simp] theorem State.retire_core_forwards (s : State) : (s.retire).core.forwards = s.core.forwards := rfl
@[simp] theorem State.retire_core_held (s : State) : (s.retire).core.held = s.core.held := rfl
@[simp] theorem State.retire_core_fills (s : State) : (s.retire).core.fills = s.core.fills := rfl
@[simp] theorem State.retire_core_swap (s : State) : (s.retire).core.swap = s.core.swap := rfl
@[simp] theorem State.retire_core_asleep (s : State) : (s.retire).core.asleep = s.core.asleep := rfl
@[simp] theorem State.retire_core_misses (s : State) : (s.retire).core.misses = s.core.misses := rfl
@[simp] theorem State.retire_core_discarded (s : State) : (s.retire).core.discarded = s.core.discarded := rfl
@[simp] theorem State.retire_core_refusedOrder (s : State) : (s.retire).core.refusedOrder = s.core.refusedOrder := rfl
@[simp] theorem State.retire_core_evacuating (s : State) : (s.retire).core.evacuating = s.core.evacuating := rfl
@[simp] theorem State.retire_core_failedLinks (s : State) : (s.retire).core.failedLinks = s.core.failedLinks := rfl
@[simp] theorem State.retireNow_core_at_ (s : State) : (s.retireNow).core.at_ = s.core.at_ := rfl
@[simp] theorem State.retireNow_core_vacant (s : State) : (s.retireNow).core.vacant = s.core.vacant := rfl
@[simp] theorem State.retireNow_core_retired (s : State) : (s.retireNow).core.retired = s.core.retired := rfl
@[simp] theorem State.retireNow_core_tlb (s : State) : (s.retireNow).core.tlb = s.core.tlb := rfl
@[simp] theorem State.retireNow_core_names (s : State) : (s.retireNow).core.names = s.core.names := rfl
@[simp] theorem State.retireNow_core_view (s : State) : (s.retireNow).core.view = s.core.view := rfl
@[simp] theorem State.retireNow_core_frontier (s : State) : (s.retireNow).core.frontier = s.core.frontier := rfl
@[simp] theorem State.retireNow_core_tags (s : State) : (s.retireNow).core.tags = s.core.tags := rfl
@[simp] theorem State.retireNow_core_fnCopies (s : State) : (s.retireNow).core.fnCopies = s.core.fnCopies := rfl
@[simp] theorem State.retireNow_core_icache (s : State) : (s.retireNow).core.icache = s.core.icache := rfl
@[simp] theorem State.retireNow_core_latency (s : State) : (s.retireNow).core.latency = s.core.latency := rfl
@[simp] theorem State.retireNow_core_banks (s : State) : (s.retireNow).core.banks = s.core.banks := rfl
@[simp] theorem State.retireNow_core_forwards (s : State) : (s.retireNow).core.forwards = s.core.forwards := rfl
@[simp] theorem State.retireNow_core_held (s : State) : (s.retireNow).core.held = s.core.held := rfl
@[simp] theorem State.retireNow_core_fills (s : State) : (s.retireNow).core.fills = s.core.fills := rfl
@[simp] theorem State.retireNow_core_swap (s : State) : (s.retireNow).core.swap = s.core.swap := rfl
@[simp] theorem State.retireNow_core_asleep (s : State) : (s.retireNow).core.asleep = s.core.asleep := rfl
@[simp] theorem State.retireNow_core_misses (s : State) : (s.retireNow).core.misses = s.core.misses := rfl
@[simp] theorem State.retireNow_core_discarded (s : State) : (s.retireNow).core.discarded = s.core.discarded := rfl
@[simp] theorem State.retireNow_core_refusedOrder (s : State) : (s.retireNow).core.refusedOrder = s.core.refusedOrder := rfl
@[simp] theorem State.retireNow_core_evacuating (s : State) : (s.retireNow).core.evacuating = s.core.evacuating := rfl
@[simp] theorem State.retireNow_core_failedLinks (s : State) : (s.retireNow).core.failedLinks = s.core.failedLinks := rfl
@[simp] theorem State.raiseFlags_core_at_ (x : Flags) (s : State) : (s.raiseFlags x).core.at_ = s.core.at_ := rfl
@[simp] theorem State.raiseFlags_core_vacant (x : Flags) (s : State) : (s.raiseFlags x).core.vacant = s.core.vacant := rfl
@[simp] theorem State.raiseFlags_core_retired (x : Flags) (s : State) : (s.raiseFlags x).core.retired = s.core.retired := rfl
@[simp] theorem State.raiseFlags_core_tlb (x : Flags) (s : State) : (s.raiseFlags x).core.tlb = s.core.tlb := rfl
@[simp] theorem State.raiseFlags_core_names (x : Flags) (s : State) : (s.raiseFlags x).core.names = s.core.names := rfl
@[simp] theorem State.raiseFlags_core_view (x : Flags) (s : State) : (s.raiseFlags x).core.view = s.core.view := rfl
@[simp] theorem State.raiseFlags_core_frontier (x : Flags) (s : State) : (s.raiseFlags x).core.frontier = s.core.frontier := rfl
@[simp] theorem State.raiseFlags_core_tags (x : Flags) (s : State) : (s.raiseFlags x).core.tags = s.core.tags := rfl
@[simp] theorem State.raiseFlags_core_fnCopies (x : Flags) (s : State) : (s.raiseFlags x).core.fnCopies = s.core.fnCopies := rfl
@[simp] theorem State.raiseFlags_core_icache (x : Flags) (s : State) : (s.raiseFlags x).core.icache = s.core.icache := rfl
@[simp] theorem State.raiseFlags_core_latency (x : Flags) (s : State) : (s.raiseFlags x).core.latency = s.core.latency := rfl
@[simp] theorem State.raiseFlags_core_banks (x : Flags) (s : State) : (s.raiseFlags x).core.banks = s.core.banks := rfl
@[simp] theorem State.raiseFlags_core_forwards (x : Flags) (s : State) : (s.raiseFlags x).core.forwards = s.core.forwards := rfl
@[simp] theorem State.raiseFlags_core_counters (x : Flags) (s : State) : (s.raiseFlags x).core.counters = s.core.counters := rfl
@[simp] theorem State.raiseFlags_core_held (x : Flags) (s : State) : (s.raiseFlags x).core.held = s.core.held := rfl
@[simp] theorem State.raiseFlags_core_fills (x : Flags) (s : State) : (s.raiseFlags x).core.fills = s.core.fills := rfl
@[simp] theorem State.raiseFlags_core_swap (x : Flags) (s : State) : (s.raiseFlags x).core.swap = s.core.swap := rfl
@[simp] theorem State.raiseFlags_core_asleep (x : Flags) (s : State) : (s.raiseFlags x).core.asleep = s.core.asleep := rfl
@[simp] theorem State.raiseFlags_core_misses (x : Flags) (s : State) : (s.raiseFlags x).core.misses = s.core.misses := rfl
@[simp] theorem State.raiseFlags_core_discarded (x : Flags) (s : State) : (s.raiseFlags x).core.discarded = s.core.discarded := rfl
@[simp] theorem State.raiseFlags_core_refusedOrder (x : Flags) (s : State) : (s.raiseFlags x).core.refusedOrder = s.core.refusedOrder := rfl
@[simp] theorem State.raiseFlags_core_evacuating (x : Flags) (s : State) : (s.raiseFlags x).core.evacuating = s.core.evacuating := rfl
@[simp] theorem State.raiseFlags_core_failedLinks (x : Flags) (s : State) : (s.raiseFlags x).core.failedLinks = s.core.failedLinks := rfl

/-! ## The group -/

@[simp] theorem Group.mapSlot_well (j : SlotId) (f : Slot → Slot) (g : Group) : (g.mapSlot j f).well = g.well := rfl
@[simp] theorem Group.mapSlot_fe (j : SlotId) (f : Slot → Slot) (g : Group) : (g.mapSlot j f).fe = g.fe := rfl
@[simp] theorem Group.mapSlot_ticket (j : SlotId) (f : Slot → Slot) (g : Group) : (g.mapSlot j f).ticket = g.ticket := rfl
@[simp] theorem Group.mapSlot_tile (j : SlotId) (f : Slot → Slot) (g : Group) : (g.mapSlot j f).tile = g.tile := rfl
@[simp] theorem Group.mapSlot_hold (j : SlotId) (f : Slot → Slot) (g : Group) : (g.mapSlot j f).hold = g.hold := rfl
@[simp] theorem Group.mapSlot_busy (j : SlotId) (f : Slot → Slot) (g : Group) : (g.mapSlot j f).busy = g.busy := rfl
@[simp] theorem Group.mapSlot_m (j : SlotId) (f : Slot → Slot) (g : Group) : (g.mapSlot j f).m = g.m := rfl
@[simp] theorem Group.mapSlot_q (j : SlotId) (f : Slot → Slot) (g : Group) : (g.mapSlot j f).q = g.q := rfl
@[simp] theorem Group.mapSlot_instret (j : SlotId) (f : Slot → Slot) (g : Group) : (g.mapSlot j f).instret = g.instret := rfl
@[simp] theorem Group.mapSlot_inFlight (j : SlotId) (f : Slot → Slot) (g : Group) : (g.mapSlot j f).inFlight = g.inFlight := rfl
@[simp] theorem Group.mapSlot_self (j : SlotId) (f : Slot → Slot) (g : Group) : (g.mapSlot j f).self = g.self := rfl
@[simp] theorem Group.mapSlot_posn (j : SlotId) (f : Slot → Slot) (g : Group) : (g.mapSlot j f).posn = g.posn := rfl
@[simp] theorem Group.mapSlot_launchReg (j : SlotId) (f : Slot → Slot) (g : Group) : (g.mapSlot j f).launchReg = g.launchReg := rfl
@[simp] theorem Group.mapSlot_logTail (j : SlotId) (f : Slot → Slot) (g : Group) : (g.mapSlot j f).logTail = g.logTail := rfl
@[simp] theorem Group.mapSlot_logPub (j : SlotId) (f : Slot → Slot) (g : Group) : (g.mapSlot j f).logPub = g.logPub := rfl
@[simp] theorem Group.mapSlot_lpat (j : SlotId) (f : Slot → Slot) (g : Group) : (g.mapSlot j f).lpat = g.lpat := rfl
@[simp] theorem Group.mapSlot_tilecfg (j : SlotId) (f : Slot → Slot) (g : Group) : (g.mapSlot j f).tilecfg = g.tilecfg := rfl
@[simp] theorem Group.mapSlot_fmta (j : SlotId) (f : Slot → Slot) (g : Group) : (g.mapSlot j f).fmta = g.fmta := rfl
@[simp] theorem Group.mapSlot_fmtb (j : SlotId) (f : Slot → Slot) (g : Group) : (g.mapSlot j f).fmtb = g.fmtb := rfl
@[simp] theorem Group.mapSlot_scla (j : SlotId) (f : Slot → Slot) (g : Group) : (g.mapSlot j f).scla = g.scla := rfl
@[simp] theorem Group.mapSlot_sclb (j : SlotId) (f : Slot → Slot) (g : Group) : (g.mapSlot j f).sclb = g.sclb := rfl
@[simp] theorem Group.mapSlot_astride (j : SlotId) (f : Slot → Slot) (g : Group) : (g.mapSlot j f).astride = g.astride := rfl
@[simp] theorem Group.mapSlot_bstride (j : SlotId) (f : Slot → Slot) (g : Group) : (g.mapSlot j f).bstride = g.bstride := rfl
@[simp] theorem Group.mapSlot_fflags (j : SlotId) (f : Slot → Slot) (g : Group) : (g.mapSlot j f).fflags = g.fflags := rfl
@[simp] theorem Group.mapSlot_satf8 (j : SlotId) (f : Slot → Slot) (g : Group) : (g.mapSlot j f).satf8 = g.satf8 := rfl
@[simp] theorem Group.mapSlot_rm (j : SlotId) (f : Slot → Slot) (g : Group) : (g.mapSlot j f).rm = g.rm := rfl
@[simp] theorem Group.mapSlot_jobQueued (j : SlotId) (f : Slot → Slot) (g : Group) : (g.mapSlot j f).jobQueued = g.jobQueued := rfl
@[simp] theorem Group.mapSlot_jobLast (j : SlotId) (f : Slot → Slot) (g : Group) : (g.mapSlot j f).jobLast = g.jobLast := rfl
@[simp] theorem Group.mapSlot_jobOpen (j : SlotId) (f : Slot → Slot) (g : Group) : (g.mapSlot j f).jobOpen = g.jobOpen := rfl
@[simp] theorem Group.mapSlot_mbox (j : SlotId) (f : Slot → Slot) (g : Group) : (g.mapSlot j f).mbox = g.mbox := rfl
@[simp] theorem Group.mapSlot_arrivals (j : SlotId) (f : Slot → Slot) (g : Group) : (g.mapSlot j f).arrivals = g.arrivals := rfl
@[simp] theorem Group.mapSlot_argument (j : SlotId) (f : Slot → Slot) (g : Group) : (g.mapSlot j f).argument = g.argument := rfl
@[simp] theorem Group.mapSlot_reorder (j : SlotId) (f : Slot → Slot) (g : Group) : (g.mapSlot j f).reorder = g.reorder := rfl
@[simp] theorem Group.mapSlot_dtable (j : SlotId) (f : Slot → Slot) (g : Group) : (g.mapSlot j f).dtable = g.dtable := rfl
@[simp] theorem Group.mapSlot_amax (j : SlotId) (f : Slot → Slot) (g : Group) : (g.mapSlot j f).amax = g.amax := rfl
@[simp] theorem Group.mapSlot_rings (j : SlotId) (f : Slot → Slot) (g : Group) : (g.mapSlot j f).rings = g.rings := rfl
@[simp] theorem Group.mapSlot_classMask (j : SlotId) (f : Slot → Slot) (g : Group) : (g.mapSlot j f).classMask = g.classMask := rfl
@[simp] theorem Group.mapSlot_anchored (j : SlotId) (f : Slot → Slot) (g : Group) : (g.mapSlot j f).anchored = g.anchored := rfl
@[simp] theorem Group.mapSlot_ann (j : SlotId) (f : Slot → Slot) (g : Group) : (g.mapSlot j f).ann = g.ann := rfl
@[simp] theorem Group.mapSlot_arrive (j : SlotId) (f : Slot → Slot) (g : Group) : (g.mapSlot j f).arrive = g.arrive := rfl
@[simp] theorem Group.mapSlot_sent (j : SlotId) (f : Slot → Slot) (g : Group) : (g.mapSlot j f).sent = g.sent := rfl
@[simp] theorem Group.mapSlot_consumed (j : SlotId) (f : Slot → Slot) (g : Group) : (g.mapSlot j f).consumed = g.consumed := rfl
@[simp] theorem Group.mapSlot_locked (j : SlotId) (f : Slot → Slot) (g : Group) : (g.mapSlot j f).locked = g.locked := rfl
@[simp] theorem Group.mapSlot_logArea (j : SlotId) (f : Slot → Slot) (g : Group) : (g.mapSlot j f).logArea = g.logArea := rfl
@[simp] theorem Group.mapSlot_logOvf (j : SlotId) (f : Slot → Slot) (g : Group) : (g.mapSlot j f).logOvf = g.logOvf := rfl
@[simp] theorem Group.mapSlot_logLim (j : SlotId) (f : Slot → Slot) (g : Group) : (g.mapSlot j f).logLim = g.logLim := rfl
@[simp] theorem Group.mapSlot_spillOvf (j : SlotId) (f : Slot → Slot) (g : Group) : (g.mapSlot j f).spillOvf = g.spillOvf := rfl
@[simp] theorem Group.mapSlot_log (j : SlotId) (f : Slot → Slot) (g : Group) : (g.mapSlot j f).log = g.log := rfl
@[simp] theorem Group.mapSlot_openJobs (j : SlotId) (f : Slot → Slot) (g : Group) : (g.mapSlot j f).openJobs = g.openJobs := rfl
@[simp] theorem Group.mapSlot_records (j : SlotId) (f : Slot → Slot) (g : Group) : (g.mapSlot j f).records = g.records := rfl
@[simp] theorem Group.mapSlot_nextJob (j : SlotId) (f : Slot → Slot) (g : Group) : (g.mapSlot j f).nextJob = g.nextJob := rfl
@[simp] theorem Group.mapSlot_jobSerial (j : SlotId) (f : Slot → Slot) (g : Group) : (g.mapSlot j f).jobSerial = g.jobSerial := rfl
@[simp] theorem Group.mapSlot_collNo (j : SlotId) (f : Slot → Slot) (g : Group) : (g.mapSlot j f).collNo = g.collNo := rfl
@[simp] theorem Group.mapSlot_lent (j : SlotId) (f : Slot → Slot) (g : Group) : (g.mapSlot j f).lent = g.lent := rfl
@[simp] theorem Group.mapSlot_sealed (j : SlotId) (f : Slot → Slot) (g : Group) : (g.mapSlot j f).sealed = g.sealed := rfl
@[simp] theorem Group.mapSlot_sysact (j : SlotId) (f : Slot → Slot) (g : Group) : (g.mapSlot j f).sysact = g.sysact := rfl
@[simp] theorem Group.mapSlot_trapact (j : SlotId) (f : Slot → Slot) (g : Group) : (g.mapSlot j f).trapact = g.trapact := rfl
@[simp] theorem Group.mapSlot_sys (j : SlotId) (f : Slot → Slot) (g : Group) : (g.mapSlot j f).sys = g.sys := rfl
@[simp] theorem Group.mapSlot_trapSlot (j : SlotId) (f : Slot → Slot) (g : Group) : (g.mapSlot j f).trapSlot = g.trapSlot := rfl
@[simp] theorem Group.mapSlot_trapQueue (j : SlotId) (f : Slot → Slot) (g : Group) : (g.mapSlot j f).trapQueue = g.trapQueue := rfl
@[simp] theorem Group.mapSlot_inj (j : SlotId) (f : Slot → Slot) (g : Group) : (g.mapSlot j f).inj = g.inj := rfl
@[simp] theorem Group.mapSlot_nextInj (j : SlotId) (f : Slot → Slot) (g : Group) : (g.mapSlot j f).nextInj = g.nextInj := rfl
@[simp] theorem Group.mapSlot_spill (j : SlotId) (f : Slot → Slot) (g : Group) : (g.mapSlot j f).spill = g.spill := rfl
@[simp] theorem Group.mapSlot_launch (j : SlotId) (f : Slot → Slot) (g : Group) : (g.mapSlot j f).launch = g.launch := rfl
@[simp] theorem Group.mapSlot_ended (j : SlotId) (f : Slot → Slot) (g : Group) : (g.mapSlot j f).ended = g.ended := rfl
@[simp] theorem Group.mapSlot_stopped (j : SlotId) (f : Slot → Slot) (g : Group) : (g.mapSlot j f).stopped = g.stopped := rfl
@[simp] theorem Group.mapSlot_preempt (j : SlotId) (f : Slot → Slot) (g : Group) : (g.mapSlot j f).preempt = g.preempt := rfl
@[simp] theorem Group.mapSlot_blockedFor (j : SlotId) (f : Slot → Slot) (g : Group) : (g.mapSlot j f).blockedFor = g.blockedFor := rfl
@[simp] theorem Group.mapSlot_twin (j : SlotId) (f : Slot → Slot) (g : Group) : (g.mapSlot j f).twin = g.twin := rfl
@[simp] theorem Group.setRow_well (r : VReg) (v : Row) (g : Group) : (g.setRow r v).well = g.well := rfl
@[simp] theorem Group.setRow_fe (r : VReg) (v : Row) (g : Group) : (g.setRow r v).fe = g.fe := rfl
@[simp] theorem Group.setRow_ticket (r : VReg) (v : Row) (g : Group) : (g.setRow r v).ticket = g.ticket := rfl
@[simp] theorem Group.setRow_hold (r : VReg) (v : Row) (g : Group) : (g.setRow r v).hold = g.hold := rfl
@[simp] theorem Group.setRow_busy (r : VReg) (v : Row) (g : Group) : (g.setRow r v).busy = g.busy := rfl
@[simp] theorem Group.setRow_m (r : VReg) (v : Row) (g : Group) : (g.setRow r v).m = g.m := rfl
@[simp] theorem Group.setRow_slots (r : VReg) (v : Row) (g : Group) : (g.setRow r v).slots = g.slots := rfl
@[simp] theorem Group.setRow_q (r : VReg) (v : Row) (g : Group) : (g.setRow r v).q = g.q := rfl
@[simp] theorem Group.setRow_instret (r : VReg) (v : Row) (g : Group) : (g.setRow r v).instret = g.instret := rfl
@[simp] theorem Group.setRow_inFlight (r : VReg) (v : Row) (g : Group) : (g.setRow r v).inFlight = g.inFlight := rfl
@[simp] theorem Group.setRow_self (r : VReg) (v : Row) (g : Group) : (g.setRow r v).self = g.self := rfl
@[simp] theorem Group.setRow_posn (r : VReg) (v : Row) (g : Group) : (g.setRow r v).posn = g.posn := rfl
@[simp] theorem Group.setRow_launchReg (r : VReg) (v : Row) (g : Group) : (g.setRow r v).launchReg = g.launchReg := rfl
@[simp] theorem Group.setRow_logTail (r : VReg) (v : Row) (g : Group) : (g.setRow r v).logTail = g.logTail := rfl
@[simp] theorem Group.setRow_logPub (r : VReg) (v : Row) (g : Group) : (g.setRow r v).logPub = g.logPub := rfl
@[simp] theorem Group.setRow_lpat (r : VReg) (v : Row) (g : Group) : (g.setRow r v).lpat = g.lpat := rfl
@[simp] theorem Group.setRow_tilecfg (r : VReg) (v : Row) (g : Group) : (g.setRow r v).tilecfg = g.tilecfg := rfl
@[simp] theorem Group.setRow_fmta (r : VReg) (v : Row) (g : Group) : (g.setRow r v).fmta = g.fmta := rfl
@[simp] theorem Group.setRow_fmtb (r : VReg) (v : Row) (g : Group) : (g.setRow r v).fmtb = g.fmtb := rfl
@[simp] theorem Group.setRow_scla (r : VReg) (v : Row) (g : Group) : (g.setRow r v).scla = g.scla := rfl
@[simp] theorem Group.setRow_sclb (r : VReg) (v : Row) (g : Group) : (g.setRow r v).sclb = g.sclb := rfl
@[simp] theorem Group.setRow_astride (r : VReg) (v : Row) (g : Group) : (g.setRow r v).astride = g.astride := rfl
@[simp] theorem Group.setRow_bstride (r : VReg) (v : Row) (g : Group) : (g.setRow r v).bstride = g.bstride := rfl
@[simp] theorem Group.setRow_fflags (r : VReg) (v : Row) (g : Group) : (g.setRow r v).fflags = g.fflags := rfl
@[simp] theorem Group.setRow_satf8 (r : VReg) (v : Row) (g : Group) : (g.setRow r v).satf8 = g.satf8 := rfl
@[simp] theorem Group.setRow_rm (r : VReg) (v : Row) (g : Group) : (g.setRow r v).rm = g.rm := rfl
@[simp] theorem Group.setRow_jobQueued (r : VReg) (v : Row) (g : Group) : (g.setRow r v).jobQueued = g.jobQueued := rfl
@[simp] theorem Group.setRow_jobLast (r : VReg) (v : Row) (g : Group) : (g.setRow r v).jobLast = g.jobLast := rfl
@[simp] theorem Group.setRow_jobOpen (r : VReg) (v : Row) (g : Group) : (g.setRow r v).jobOpen = g.jobOpen := rfl
@[simp] theorem Group.setRow_mbox (r : VReg) (v : Row) (g : Group) : (g.setRow r v).mbox = g.mbox := rfl
@[simp] theorem Group.setRow_arrivals (r : VReg) (v : Row) (g : Group) : (g.setRow r v).arrivals = g.arrivals := rfl
@[simp] theorem Group.setRow_argument (r : VReg) (v : Row) (g : Group) : (g.setRow r v).argument = g.argument := rfl
@[simp] theorem Group.setRow_reorder (r : VReg) (v : Row) (g : Group) : (g.setRow r v).reorder = g.reorder := rfl
@[simp] theorem Group.setRow_dtable (r : VReg) (v : Row) (g : Group) : (g.setRow r v).dtable = g.dtable := rfl
@[simp] theorem Group.setRow_amax (r : VReg) (v : Row) (g : Group) : (g.setRow r v).amax = g.amax := rfl
@[simp] theorem Group.setRow_rings (r : VReg) (v : Row) (g : Group) : (g.setRow r v).rings = g.rings := rfl
@[simp] theorem Group.setRow_classMask (r : VReg) (v : Row) (g : Group) : (g.setRow r v).classMask = g.classMask := rfl
@[simp] theorem Group.setRow_anchored (r : VReg) (v : Row) (g : Group) : (g.setRow r v).anchored = g.anchored := rfl
@[simp] theorem Group.setRow_ann (r : VReg) (v : Row) (g : Group) : (g.setRow r v).ann = g.ann := rfl
@[simp] theorem Group.setRow_arrive (r : VReg) (v : Row) (g : Group) : (g.setRow r v).arrive = g.arrive := rfl
@[simp] theorem Group.setRow_sent (r : VReg) (v : Row) (g : Group) : (g.setRow r v).sent = g.sent := rfl
@[simp] theorem Group.setRow_consumed (r : VReg) (v : Row) (g : Group) : (g.setRow r v).consumed = g.consumed := rfl
@[simp] theorem Group.setRow_locked (r : VReg) (v : Row) (g : Group) : (g.setRow r v).locked = g.locked := rfl
@[simp] theorem Group.setRow_logArea (r : VReg) (v : Row) (g : Group) : (g.setRow r v).logArea = g.logArea := rfl
@[simp] theorem Group.setRow_logOvf (r : VReg) (v : Row) (g : Group) : (g.setRow r v).logOvf = g.logOvf := rfl
@[simp] theorem Group.setRow_logLim (r : VReg) (v : Row) (g : Group) : (g.setRow r v).logLim = g.logLim := rfl
@[simp] theorem Group.setRow_spillOvf (r : VReg) (v : Row) (g : Group) : (g.setRow r v).spillOvf = g.spillOvf := rfl
@[simp] theorem Group.setRow_log (r : VReg) (v : Row) (g : Group) : (g.setRow r v).log = g.log := rfl
@[simp] theorem Group.setRow_openJobs (r : VReg) (v : Row) (g : Group) : (g.setRow r v).openJobs = g.openJobs := rfl
@[simp] theorem Group.setRow_records (r : VReg) (v : Row) (g : Group) : (g.setRow r v).records = g.records := rfl
@[simp] theorem Group.setRow_nextJob (r : VReg) (v : Row) (g : Group) : (g.setRow r v).nextJob = g.nextJob := rfl
@[simp] theorem Group.setRow_jobSerial (r : VReg) (v : Row) (g : Group) : (g.setRow r v).jobSerial = g.jobSerial := rfl
@[simp] theorem Group.setRow_collNo (r : VReg) (v : Row) (g : Group) : (g.setRow r v).collNo = g.collNo := rfl
@[simp] theorem Group.setRow_lent (r : VReg) (v : Row) (g : Group) : (g.setRow r v).lent = g.lent := rfl
@[simp] theorem Group.setRow_sealed (r : VReg) (v : Row) (g : Group) : (g.setRow r v).sealed = g.sealed := rfl
@[simp] theorem Group.setRow_sysact (r : VReg) (v : Row) (g : Group) : (g.setRow r v).sysact = g.sysact := rfl
@[simp] theorem Group.setRow_trapact (r : VReg) (v : Row) (g : Group) : (g.setRow r v).trapact = g.trapact := rfl
@[simp] theorem Group.setRow_sys (r : VReg) (v : Row) (g : Group) : (g.setRow r v).sys = g.sys := rfl
@[simp] theorem Group.setRow_trapSlot (r : VReg) (v : Row) (g : Group) : (g.setRow r v).trapSlot = g.trapSlot := rfl
@[simp] theorem Group.setRow_trapQueue (r : VReg) (v : Row) (g : Group) : (g.setRow r v).trapQueue = g.trapQueue := rfl
@[simp] theorem Group.setRow_inj (r : VReg) (v : Row) (g : Group) : (g.setRow r v).inj = g.inj := rfl
@[simp] theorem Group.setRow_nextInj (r : VReg) (v : Row) (g : Group) : (g.setRow r v).nextInj = g.nextInj := rfl
@[simp] theorem Group.setRow_spill (r : VReg) (v : Row) (g : Group) : (g.setRow r v).spill = g.spill := rfl
@[simp] theorem Group.setRow_launch (r : VReg) (v : Row) (g : Group) : (g.setRow r v).launch = g.launch := rfl
@[simp] theorem Group.setRow_ended (r : VReg) (v : Row) (g : Group) : (g.setRow r v).ended = g.ended := rfl
@[simp] theorem Group.setRow_stopped (r : VReg) (v : Row) (g : Group) : (g.setRow r v).stopped = g.stopped := rfl
@[simp] theorem Group.setRow_preempt (r : VReg) (v : Row) (g : Group) : (g.setRow r v).preempt = g.preempt := rfl
@[simp] theorem Group.setRow_blockedFor (r : VReg) (v : Row) (g : Group) : (g.setRow r v).blockedFor = g.blockedFor := rfl
@[simp] theorem Group.setRow_twin (r : VReg) (v : Row) (g : Group) : (g.setRow r v).twin = g.twin := rfl
@[simp] theorem Group.setQueue_well (q : BitVec 3) (v : Queue) (g : Group) : (g.setQueue q v).well = g.well := rfl
@[simp] theorem Group.setQueue_fe (q : BitVec 3) (v : Queue) (g : Group) : (g.setQueue q v).fe = g.fe := rfl
@[simp] theorem Group.setQueue_ticket (q : BitVec 3) (v : Queue) (g : Group) : (g.setQueue q v).ticket = g.ticket := rfl
@[simp] theorem Group.setQueue_tile (q : BitVec 3) (v : Queue) (g : Group) : (g.setQueue q v).tile = g.tile := rfl
@[simp] theorem Group.setQueue_hold (q : BitVec 3) (v : Queue) (g : Group) : (g.setQueue q v).hold = g.hold := rfl
@[simp] theorem Group.setQueue_busy (q : BitVec 3) (v : Queue) (g : Group) : (g.setQueue q v).busy = g.busy := rfl
@[simp] theorem Group.setQueue_m (q : BitVec 3) (v : Queue) (g : Group) : (g.setQueue q v).m = g.m := rfl
@[simp] theorem Group.setQueue_slots (q : BitVec 3) (v : Queue) (g : Group) : (g.setQueue q v).slots = g.slots := rfl
@[simp] theorem Group.setQueue_instret (q : BitVec 3) (v : Queue) (g : Group) : (g.setQueue q v).instret = g.instret := rfl
@[simp] theorem Group.setQueue_inFlight (q : BitVec 3) (v : Queue) (g : Group) : (g.setQueue q v).inFlight = g.inFlight := rfl
@[simp] theorem Group.setQueue_self (q : BitVec 3) (v : Queue) (g : Group) : (g.setQueue q v).self = g.self := rfl
@[simp] theorem Group.setQueue_posn (q : BitVec 3) (v : Queue) (g : Group) : (g.setQueue q v).posn = g.posn := rfl
@[simp] theorem Group.setQueue_launchReg (q : BitVec 3) (v : Queue) (g : Group) : (g.setQueue q v).launchReg = g.launchReg := rfl
@[simp] theorem Group.setQueue_logTail (q : BitVec 3) (v : Queue) (g : Group) : (g.setQueue q v).logTail = g.logTail := rfl
@[simp] theorem Group.setQueue_logPub (q : BitVec 3) (v : Queue) (g : Group) : (g.setQueue q v).logPub = g.logPub := rfl
@[simp] theorem Group.setQueue_lpat (q : BitVec 3) (v : Queue) (g : Group) : (g.setQueue q v).lpat = g.lpat := rfl
@[simp] theorem Group.setQueue_tilecfg (q : BitVec 3) (v : Queue) (g : Group) : (g.setQueue q v).tilecfg = g.tilecfg := rfl
@[simp] theorem Group.setQueue_fmta (q : BitVec 3) (v : Queue) (g : Group) : (g.setQueue q v).fmta = g.fmta := rfl
@[simp] theorem Group.setQueue_fmtb (q : BitVec 3) (v : Queue) (g : Group) : (g.setQueue q v).fmtb = g.fmtb := rfl
@[simp] theorem Group.setQueue_scla (q : BitVec 3) (v : Queue) (g : Group) : (g.setQueue q v).scla = g.scla := rfl
@[simp] theorem Group.setQueue_sclb (q : BitVec 3) (v : Queue) (g : Group) : (g.setQueue q v).sclb = g.sclb := rfl
@[simp] theorem Group.setQueue_astride (q : BitVec 3) (v : Queue) (g : Group) : (g.setQueue q v).astride = g.astride := rfl
@[simp] theorem Group.setQueue_bstride (q : BitVec 3) (v : Queue) (g : Group) : (g.setQueue q v).bstride = g.bstride := rfl
@[simp] theorem Group.setQueue_fflags (q : BitVec 3) (v : Queue) (g : Group) : (g.setQueue q v).fflags = g.fflags := rfl
@[simp] theorem Group.setQueue_satf8 (q : BitVec 3) (v : Queue) (g : Group) : (g.setQueue q v).satf8 = g.satf8 := rfl
@[simp] theorem Group.setQueue_rm (q : BitVec 3) (v : Queue) (g : Group) : (g.setQueue q v).rm = g.rm := rfl
@[simp] theorem Group.setQueue_jobQueued (q : BitVec 3) (v : Queue) (g : Group) : (g.setQueue q v).jobQueued = g.jobQueued := rfl
@[simp] theorem Group.setQueue_jobLast (q : BitVec 3) (v : Queue) (g : Group) : (g.setQueue q v).jobLast = g.jobLast := rfl
@[simp] theorem Group.setQueue_jobOpen (q : BitVec 3) (v : Queue) (g : Group) : (g.setQueue q v).jobOpen = g.jobOpen := rfl
@[simp] theorem Group.setQueue_mbox (q : BitVec 3) (v : Queue) (g : Group) : (g.setQueue q v).mbox = g.mbox := rfl
@[simp] theorem Group.setQueue_arrivals (q : BitVec 3) (v : Queue) (g : Group) : (g.setQueue q v).arrivals = g.arrivals := rfl
@[simp] theorem Group.setQueue_argument (q : BitVec 3) (v : Queue) (g : Group) : (g.setQueue q v).argument = g.argument := rfl
@[simp] theorem Group.setQueue_reorder (q : BitVec 3) (v : Queue) (g : Group) : (g.setQueue q v).reorder = g.reorder := rfl
@[simp] theorem Group.setQueue_dtable (q : BitVec 3) (v : Queue) (g : Group) : (g.setQueue q v).dtable = g.dtable := rfl
@[simp] theorem Group.setQueue_amax (q : BitVec 3) (v : Queue) (g : Group) : (g.setQueue q v).amax = g.amax := rfl
@[simp] theorem Group.setQueue_rings (q : BitVec 3) (v : Queue) (g : Group) : (g.setQueue q v).rings = g.rings := rfl
@[simp] theorem Group.setQueue_classMask (q : BitVec 3) (v : Queue) (g : Group) : (g.setQueue q v).classMask = g.classMask := rfl
@[simp] theorem Group.setQueue_anchored (q : BitVec 3) (v : Queue) (g : Group) : (g.setQueue q v).anchored = g.anchored := rfl
@[simp] theorem Group.setQueue_ann (q : BitVec 3) (v : Queue) (g : Group) : (g.setQueue q v).ann = g.ann := rfl
@[simp] theorem Group.setQueue_arrive (q : BitVec 3) (v : Queue) (g : Group) : (g.setQueue q v).arrive = g.arrive := rfl
@[simp] theorem Group.setQueue_sent (q : BitVec 3) (v : Queue) (g : Group) : (g.setQueue q v).sent = g.sent := rfl
@[simp] theorem Group.setQueue_consumed (q : BitVec 3) (v : Queue) (g : Group) : (g.setQueue q v).consumed = g.consumed := rfl
@[simp] theorem Group.setQueue_locked (q : BitVec 3) (v : Queue) (g : Group) : (g.setQueue q v).locked = g.locked := rfl
@[simp] theorem Group.setQueue_logArea (q : BitVec 3) (v : Queue) (g : Group) : (g.setQueue q v).logArea = g.logArea := rfl
@[simp] theorem Group.setQueue_logOvf (q : BitVec 3) (v : Queue) (g : Group) : (g.setQueue q v).logOvf = g.logOvf := rfl
@[simp] theorem Group.setQueue_logLim (q : BitVec 3) (v : Queue) (g : Group) : (g.setQueue q v).logLim = g.logLim := rfl
@[simp] theorem Group.setQueue_spillOvf (q : BitVec 3) (v : Queue) (g : Group) : (g.setQueue q v).spillOvf = g.spillOvf := rfl
@[simp] theorem Group.setQueue_log (q : BitVec 3) (v : Queue) (g : Group) : (g.setQueue q v).log = g.log := rfl
@[simp] theorem Group.setQueue_openJobs (q : BitVec 3) (v : Queue) (g : Group) : (g.setQueue q v).openJobs = g.openJobs := rfl
@[simp] theorem Group.setQueue_records (q : BitVec 3) (v : Queue) (g : Group) : (g.setQueue q v).records = g.records := rfl
@[simp] theorem Group.setQueue_nextJob (q : BitVec 3) (v : Queue) (g : Group) : (g.setQueue q v).nextJob = g.nextJob := rfl
@[simp] theorem Group.setQueue_jobSerial (q : BitVec 3) (v : Queue) (g : Group) : (g.setQueue q v).jobSerial = g.jobSerial := rfl
@[simp] theorem Group.setQueue_collNo (q : BitVec 3) (v : Queue) (g : Group) : (g.setQueue q v).collNo = g.collNo := rfl
@[simp] theorem Group.setQueue_lent (q : BitVec 3) (v : Queue) (g : Group) : (g.setQueue q v).lent = g.lent := rfl
@[simp] theorem Group.setQueue_sealed (q : BitVec 3) (v : Queue) (g : Group) : (g.setQueue q v).sealed = g.sealed := rfl
@[simp] theorem Group.setQueue_sysact (q : BitVec 3) (v : Queue) (g : Group) : (g.setQueue q v).sysact = g.sysact := rfl
@[simp] theorem Group.setQueue_trapact (q : BitVec 3) (v : Queue) (g : Group) : (g.setQueue q v).trapact = g.trapact := rfl
@[simp] theorem Group.setQueue_sys (q : BitVec 3) (v : Queue) (g : Group) : (g.setQueue q v).sys = g.sys := rfl
@[simp] theorem Group.setQueue_trapSlot (q : BitVec 3) (v : Queue) (g : Group) : (g.setQueue q v).trapSlot = g.trapSlot := rfl
@[simp] theorem Group.setQueue_trapQueue (q : BitVec 3) (v : Queue) (g : Group) : (g.setQueue q v).trapQueue = g.trapQueue := rfl
@[simp] theorem Group.setQueue_inj (q : BitVec 3) (v : Queue) (g : Group) : (g.setQueue q v).inj = g.inj := rfl
@[simp] theorem Group.setQueue_nextInj (q : BitVec 3) (v : Queue) (g : Group) : (g.setQueue q v).nextInj = g.nextInj := rfl
@[simp] theorem Group.setQueue_spill (q : BitVec 3) (v : Queue) (g : Group) : (g.setQueue q v).spill = g.spill := rfl
@[simp] theorem Group.setQueue_launch (q : BitVec 3) (v : Queue) (g : Group) : (g.setQueue q v).launch = g.launch := rfl
@[simp] theorem Group.setQueue_ended (q : BitVec 3) (v : Queue) (g : Group) : (g.setQueue q v).ended = g.ended := rfl
@[simp] theorem Group.setQueue_stopped (q : BitVec 3) (v : Queue) (g : Group) : (g.setQueue q v).stopped = g.stopped := rfl
@[simp] theorem Group.setQueue_preempt (q : BitVec 3) (v : Queue) (g : Group) : (g.setQueue q v).preempt = g.preempt := rfl
@[simp] theorem Group.setQueue_blockedFor (q : BitVec 3) (v : Queue) (g : Group) : (g.setQueue q v).blockedFor = g.blockedFor := rfl
@[simp] theorem Group.setQueue_twin (q : BitVec 3) (v : Queue) (g : Group) : (g.setQueue q v).twin = g.twin := rfl
@[simp] theorem Group.setFull_well (w : Nat) (b : Bool) (g : Group) : (g.setFull w b).well = g.well := rfl
@[simp] theorem Group.setFull_ticket (w : Nat) (b : Bool) (g : Group) : (g.setFull w b).ticket = g.ticket := rfl
@[simp] theorem Group.setFull_tile (w : Nat) (b : Bool) (g : Group) : (g.setFull w b).tile = g.tile := rfl
@[simp] theorem Group.setFull_hold (w : Nat) (b : Bool) (g : Group) : (g.setFull w b).hold = g.hold := rfl
@[simp] theorem Group.setFull_busy (w : Nat) (b : Bool) (g : Group) : (g.setFull w b).busy = g.busy := rfl
@[simp] theorem Group.setFull_m (w : Nat) (b : Bool) (g : Group) : (g.setFull w b).m = g.m := rfl
@[simp] theorem Group.setFull_slots (w : Nat) (b : Bool) (g : Group) : (g.setFull w b).slots = g.slots := rfl
@[simp] theorem Group.setFull_q (w : Nat) (b : Bool) (g : Group) : (g.setFull w b).q = g.q := rfl
@[simp] theorem Group.setFull_instret (w : Nat) (b : Bool) (g : Group) : (g.setFull w b).instret = g.instret := rfl
@[simp] theorem Group.setFull_inFlight (w : Nat) (b : Bool) (g : Group) : (g.setFull w b).inFlight = g.inFlight := rfl
@[simp] theorem Group.setFull_self (w : Nat) (b : Bool) (g : Group) : (g.setFull w b).self = g.self := rfl
@[simp] theorem Group.setFull_posn (w : Nat) (b : Bool) (g : Group) : (g.setFull w b).posn = g.posn := rfl
@[simp] theorem Group.setFull_launchReg (w : Nat) (b : Bool) (g : Group) : (g.setFull w b).launchReg = g.launchReg := rfl
@[simp] theorem Group.setFull_logTail (w : Nat) (b : Bool) (g : Group) : (g.setFull w b).logTail = g.logTail := rfl
@[simp] theorem Group.setFull_logPub (w : Nat) (b : Bool) (g : Group) : (g.setFull w b).logPub = g.logPub := rfl
@[simp] theorem Group.setFull_lpat (w : Nat) (b : Bool) (g : Group) : (g.setFull w b).lpat = g.lpat := rfl
@[simp] theorem Group.setFull_tilecfg (w : Nat) (b : Bool) (g : Group) : (g.setFull w b).tilecfg = g.tilecfg := rfl
@[simp] theorem Group.setFull_fmta (w : Nat) (b : Bool) (g : Group) : (g.setFull w b).fmta = g.fmta := rfl
@[simp] theorem Group.setFull_fmtb (w : Nat) (b : Bool) (g : Group) : (g.setFull w b).fmtb = g.fmtb := rfl
@[simp] theorem Group.setFull_scla (w : Nat) (b : Bool) (g : Group) : (g.setFull w b).scla = g.scla := rfl
@[simp] theorem Group.setFull_sclb (w : Nat) (b : Bool) (g : Group) : (g.setFull w b).sclb = g.sclb := rfl
@[simp] theorem Group.setFull_astride (w : Nat) (b : Bool) (g : Group) : (g.setFull w b).astride = g.astride := rfl
@[simp] theorem Group.setFull_bstride (w : Nat) (b : Bool) (g : Group) : (g.setFull w b).bstride = g.bstride := rfl
@[simp] theorem Group.setFull_fflags (w : Nat) (b : Bool) (g : Group) : (g.setFull w b).fflags = g.fflags := rfl
@[simp] theorem Group.setFull_satf8 (w : Nat) (b : Bool) (g : Group) : (g.setFull w b).satf8 = g.satf8 := rfl
@[simp] theorem Group.setFull_rm (w : Nat) (b : Bool) (g : Group) : (g.setFull w b).rm = g.rm := rfl
@[simp] theorem Group.setFull_jobQueued (w : Nat) (b : Bool) (g : Group) : (g.setFull w b).jobQueued = g.jobQueued := rfl
@[simp] theorem Group.setFull_jobLast (w : Nat) (b : Bool) (g : Group) : (g.setFull w b).jobLast = g.jobLast := rfl
@[simp] theorem Group.setFull_jobOpen (w : Nat) (b : Bool) (g : Group) : (g.setFull w b).jobOpen = g.jobOpen := rfl
@[simp] theorem Group.setFull_mbox (w : Nat) (b : Bool) (g : Group) : (g.setFull w b).mbox = g.mbox := rfl
@[simp] theorem Group.setFull_arrivals (w : Nat) (b : Bool) (g : Group) : (g.setFull w b).arrivals = g.arrivals := rfl
@[simp] theorem Group.setFull_argument (w : Nat) (b : Bool) (g : Group) : (g.setFull w b).argument = g.argument := rfl
@[simp] theorem Group.setFull_reorder (w : Nat) (b : Bool) (g : Group) : (g.setFull w b).reorder = g.reorder := rfl
@[simp] theorem Group.setFull_dtable (w : Nat) (b : Bool) (g : Group) : (g.setFull w b).dtable = g.dtable := rfl
@[simp] theorem Group.setFull_amax (w : Nat) (b : Bool) (g : Group) : (g.setFull w b).amax = g.amax := rfl
@[simp] theorem Group.setFull_rings (w : Nat) (b : Bool) (g : Group) : (g.setFull w b).rings = g.rings := rfl
@[simp] theorem Group.setFull_classMask (w : Nat) (b : Bool) (g : Group) : (g.setFull w b).classMask = g.classMask := rfl
@[simp] theorem Group.setFull_anchored (w : Nat) (b : Bool) (g : Group) : (g.setFull w b).anchored = g.anchored := rfl
@[simp] theorem Group.setFull_ann (w : Nat) (b : Bool) (g : Group) : (g.setFull w b).ann = g.ann := rfl
@[simp] theorem Group.setFull_arrive (w : Nat) (b : Bool) (g : Group) : (g.setFull w b).arrive = g.arrive := rfl
@[simp] theorem Group.setFull_sent (w : Nat) (b : Bool) (g : Group) : (g.setFull w b).sent = g.sent := rfl
@[simp] theorem Group.setFull_consumed (w : Nat) (b : Bool) (g : Group) : (g.setFull w b).consumed = g.consumed := rfl
@[simp] theorem Group.setFull_locked (w : Nat) (b : Bool) (g : Group) : (g.setFull w b).locked = g.locked := rfl
@[simp] theorem Group.setFull_logArea (w : Nat) (b : Bool) (g : Group) : (g.setFull w b).logArea = g.logArea := rfl
@[simp] theorem Group.setFull_logOvf (w : Nat) (b : Bool) (g : Group) : (g.setFull w b).logOvf = g.logOvf := rfl
@[simp] theorem Group.setFull_logLim (w : Nat) (b : Bool) (g : Group) : (g.setFull w b).logLim = g.logLim := rfl
@[simp] theorem Group.setFull_spillOvf (w : Nat) (b : Bool) (g : Group) : (g.setFull w b).spillOvf = g.spillOvf := rfl
@[simp] theorem Group.setFull_log (w : Nat) (b : Bool) (g : Group) : (g.setFull w b).log = g.log := rfl
@[simp] theorem Group.setFull_openJobs (w : Nat) (b : Bool) (g : Group) : (g.setFull w b).openJobs = g.openJobs := rfl
@[simp] theorem Group.setFull_records (w : Nat) (b : Bool) (g : Group) : (g.setFull w b).records = g.records := rfl
@[simp] theorem Group.setFull_nextJob (w : Nat) (b : Bool) (g : Group) : (g.setFull w b).nextJob = g.nextJob := rfl
@[simp] theorem Group.setFull_jobSerial (w : Nat) (b : Bool) (g : Group) : (g.setFull w b).jobSerial = g.jobSerial := rfl
@[simp] theorem Group.setFull_collNo (w : Nat) (b : Bool) (g : Group) : (g.setFull w b).collNo = g.collNo := rfl
@[simp] theorem Group.setFull_lent (w : Nat) (b : Bool) (g : Group) : (g.setFull w b).lent = g.lent := rfl
@[simp] theorem Group.setFull_sealed (w : Nat) (b : Bool) (g : Group) : (g.setFull w b).sealed = g.sealed := rfl
@[simp] theorem Group.setFull_sysact (w : Nat) (b : Bool) (g : Group) : (g.setFull w b).sysact = g.sysact := rfl
@[simp] theorem Group.setFull_trapact (w : Nat) (b : Bool) (g : Group) : (g.setFull w b).trapact = g.trapact := rfl
@[simp] theorem Group.setFull_sys (w : Nat) (b : Bool) (g : Group) : (g.setFull w b).sys = g.sys := rfl
@[simp] theorem Group.setFull_trapSlot (w : Nat) (b : Bool) (g : Group) : (g.setFull w b).trapSlot = g.trapSlot := rfl
@[simp] theorem Group.setFull_trapQueue (w : Nat) (b : Bool) (g : Group) : (g.setFull w b).trapQueue = g.trapQueue := rfl
@[simp] theorem Group.setFull_inj (w : Nat) (b : Bool) (g : Group) : (g.setFull w b).inj = g.inj := rfl
@[simp] theorem Group.setFull_nextInj (w : Nat) (b : Bool) (g : Group) : (g.setFull w b).nextInj = g.nextInj := rfl
@[simp] theorem Group.setFull_spill (w : Nat) (b : Bool) (g : Group) : (g.setFull w b).spill = g.spill := rfl
@[simp] theorem Group.setFull_launch (w : Nat) (b : Bool) (g : Group) : (g.setFull w b).launch = g.launch := rfl
@[simp] theorem Group.setFull_ended (w : Nat) (b : Bool) (g : Group) : (g.setFull w b).ended = g.ended := rfl
@[simp] theorem Group.setFull_stopped (w : Nat) (b : Bool) (g : Group) : (g.setFull w b).stopped = g.stopped := rfl
@[simp] theorem Group.setFull_preempt (w : Nat) (b : Bool) (g : Group) : (g.setFull w b).preempt = g.preempt := rfl
@[simp] theorem Group.setFull_blockedFor (w : Nat) (b : Bool) (g : Group) : (g.setFull w b).blockedFor = g.blockedFor := rfl
@[simp] theorem Group.setFull_twin (w : Nat) (b : Bool) (g : Group) : (g.setFull w b).twin = g.twin := rfl
@[simp] theorem Group.setMask_well (r : MReg) (v : Word) (g : Group) : (g.setMask r v).well = g.well := by unfold Group.setMask; split <;> rfl
@[simp] theorem Group.setMask_fe (r : MReg) (v : Word) (g : Group) : (g.setMask r v).fe = g.fe := by unfold Group.setMask; split <;> rfl
@[simp] theorem Group.setMask_ticket (r : MReg) (v : Word) (g : Group) : (g.setMask r v).ticket = g.ticket := by unfold Group.setMask; split <;> rfl
@[simp] theorem Group.setMask_tile (r : MReg) (v : Word) (g : Group) : (g.setMask r v).tile = g.tile := by unfold Group.setMask; split <;> rfl
@[simp] theorem Group.setMask_hold (r : MReg) (v : Word) (g : Group) : (g.setMask r v).hold = g.hold := by unfold Group.setMask; split <;> rfl
@[simp] theorem Group.setMask_busy (r : MReg) (v : Word) (g : Group) : (g.setMask r v).busy = g.busy := by unfold Group.setMask; split <;> rfl
@[simp] theorem Group.setMask_slots (r : MReg) (v : Word) (g : Group) : (g.setMask r v).slots = g.slots := by unfold Group.setMask; split <;> rfl
@[simp] theorem Group.setMask_q (r : MReg) (v : Word) (g : Group) : (g.setMask r v).q = g.q := by unfold Group.setMask; split <;> rfl
@[simp] theorem Group.setMask_instret (r : MReg) (v : Word) (g : Group) : (g.setMask r v).instret = g.instret := by unfold Group.setMask; split <;> rfl
@[simp] theorem Group.setMask_inFlight (r : MReg) (v : Word) (g : Group) : (g.setMask r v).inFlight = g.inFlight := by unfold Group.setMask; split <;> rfl
@[simp] theorem Group.setMask_self (r : MReg) (v : Word) (g : Group) : (g.setMask r v).self = g.self := by unfold Group.setMask; split <;> rfl
@[simp] theorem Group.setMask_posn (r : MReg) (v : Word) (g : Group) : (g.setMask r v).posn = g.posn := by unfold Group.setMask; split <;> rfl
@[simp] theorem Group.setMask_launchReg (r : MReg) (v : Word) (g : Group) : (g.setMask r v).launchReg = g.launchReg := by unfold Group.setMask; split <;> rfl
@[simp] theorem Group.setMask_logTail (r : MReg) (v : Word) (g : Group) : (g.setMask r v).logTail = g.logTail := by unfold Group.setMask; split <;> rfl
@[simp] theorem Group.setMask_logPub (r : MReg) (v : Word) (g : Group) : (g.setMask r v).logPub = g.logPub := by unfold Group.setMask; split <;> rfl
@[simp] theorem Group.setMask_lpat (r : MReg) (v : Word) (g : Group) : (g.setMask r v).lpat = g.lpat := by unfold Group.setMask; split <;> rfl
@[simp] theorem Group.setMask_tilecfg (r : MReg) (v : Word) (g : Group) : (g.setMask r v).tilecfg = g.tilecfg := by unfold Group.setMask; split <;> rfl
@[simp] theorem Group.setMask_fmta (r : MReg) (v : Word) (g : Group) : (g.setMask r v).fmta = g.fmta := by unfold Group.setMask; split <;> rfl
@[simp] theorem Group.setMask_fmtb (r : MReg) (v : Word) (g : Group) : (g.setMask r v).fmtb = g.fmtb := by unfold Group.setMask; split <;> rfl
@[simp] theorem Group.setMask_scla (r : MReg) (v : Word) (g : Group) : (g.setMask r v).scla = g.scla := by unfold Group.setMask; split <;> rfl
@[simp] theorem Group.setMask_sclb (r : MReg) (v : Word) (g : Group) : (g.setMask r v).sclb = g.sclb := by unfold Group.setMask; split <;> rfl
@[simp] theorem Group.setMask_astride (r : MReg) (v : Word) (g : Group) : (g.setMask r v).astride = g.astride := by unfold Group.setMask; split <;> rfl
@[simp] theorem Group.setMask_bstride (r : MReg) (v : Word) (g : Group) : (g.setMask r v).bstride = g.bstride := by unfold Group.setMask; split <;> rfl
@[simp] theorem Group.setMask_fflags (r : MReg) (v : Word) (g : Group) : (g.setMask r v).fflags = g.fflags := by unfold Group.setMask; split <;> rfl
@[simp] theorem Group.setMask_satf8 (r : MReg) (v : Word) (g : Group) : (g.setMask r v).satf8 = g.satf8 := by unfold Group.setMask; split <;> rfl
@[simp] theorem Group.setMask_rm (r : MReg) (v : Word) (g : Group) : (g.setMask r v).rm = g.rm := by unfold Group.setMask; split <;> rfl
@[simp] theorem Group.setMask_jobQueued (r : MReg) (v : Word) (g : Group) : (g.setMask r v).jobQueued = g.jobQueued := by unfold Group.setMask; split <;> rfl
@[simp] theorem Group.setMask_jobLast (r : MReg) (v : Word) (g : Group) : (g.setMask r v).jobLast = g.jobLast := by unfold Group.setMask; split <;> rfl
@[simp] theorem Group.setMask_jobOpen (r : MReg) (v : Word) (g : Group) : (g.setMask r v).jobOpen = g.jobOpen := by unfold Group.setMask; split <;> rfl
@[simp] theorem Group.setMask_mbox (r : MReg) (v : Word) (g : Group) : (g.setMask r v).mbox = g.mbox := by unfold Group.setMask; split <;> rfl
@[simp] theorem Group.setMask_arrivals (r : MReg) (v : Word) (g : Group) : (g.setMask r v).arrivals = g.arrivals := by unfold Group.setMask; split <;> rfl
@[simp] theorem Group.setMask_argument (r : MReg) (v : Word) (g : Group) : (g.setMask r v).argument = g.argument := by unfold Group.setMask; split <;> rfl
@[simp] theorem Group.setMask_reorder (r : MReg) (v : Word) (g : Group) : (g.setMask r v).reorder = g.reorder := by unfold Group.setMask; split <;> rfl
@[simp] theorem Group.setMask_dtable (r : MReg) (v : Word) (g : Group) : (g.setMask r v).dtable = g.dtable := by unfold Group.setMask; split <;> rfl
@[simp] theorem Group.setMask_amax (r : MReg) (v : Word) (g : Group) : (g.setMask r v).amax = g.amax := by unfold Group.setMask; split <;> rfl
@[simp] theorem Group.setMask_rings (r : MReg) (v : Word) (g : Group) : (g.setMask r v).rings = g.rings := by unfold Group.setMask; split <;> rfl
@[simp] theorem Group.setMask_classMask (r : MReg) (v : Word) (g : Group) : (g.setMask r v).classMask = g.classMask := by unfold Group.setMask; split <;> rfl
@[simp] theorem Group.setMask_anchored (r : MReg) (v : Word) (g : Group) : (g.setMask r v).anchored = g.anchored := by unfold Group.setMask; split <;> rfl
@[simp] theorem Group.setMask_ann (r : MReg) (v : Word) (g : Group) : (g.setMask r v).ann = g.ann := by unfold Group.setMask; split <;> rfl
@[simp] theorem Group.setMask_arrive (r : MReg) (v : Word) (g : Group) : (g.setMask r v).arrive = g.arrive := by unfold Group.setMask; split <;> rfl
@[simp] theorem Group.setMask_sent (r : MReg) (v : Word) (g : Group) : (g.setMask r v).sent = g.sent := by unfold Group.setMask; split <;> rfl
@[simp] theorem Group.setMask_consumed (r : MReg) (v : Word) (g : Group) : (g.setMask r v).consumed = g.consumed := by unfold Group.setMask; split <;> rfl
@[simp] theorem Group.setMask_locked (r : MReg) (v : Word) (g : Group) : (g.setMask r v).locked = g.locked := by unfold Group.setMask; split <;> rfl
@[simp] theorem Group.setMask_logArea (r : MReg) (v : Word) (g : Group) : (g.setMask r v).logArea = g.logArea := by unfold Group.setMask; split <;> rfl
@[simp] theorem Group.setMask_logOvf (r : MReg) (v : Word) (g : Group) : (g.setMask r v).logOvf = g.logOvf := by unfold Group.setMask; split <;> rfl
@[simp] theorem Group.setMask_logLim (r : MReg) (v : Word) (g : Group) : (g.setMask r v).logLim = g.logLim := by unfold Group.setMask; split <;> rfl
@[simp] theorem Group.setMask_spillOvf (r : MReg) (v : Word) (g : Group) : (g.setMask r v).spillOvf = g.spillOvf := by unfold Group.setMask; split <;> rfl
@[simp] theorem Group.setMask_log (r : MReg) (v : Word) (g : Group) : (g.setMask r v).log = g.log := by unfold Group.setMask; split <;> rfl
@[simp] theorem Group.setMask_openJobs (r : MReg) (v : Word) (g : Group) : (g.setMask r v).openJobs = g.openJobs := by unfold Group.setMask; split <;> rfl
@[simp] theorem Group.setMask_records (r : MReg) (v : Word) (g : Group) : (g.setMask r v).records = g.records := by unfold Group.setMask; split <;> rfl
@[simp] theorem Group.setMask_nextJob (r : MReg) (v : Word) (g : Group) : (g.setMask r v).nextJob = g.nextJob := by unfold Group.setMask; split <;> rfl
@[simp] theorem Group.setMask_jobSerial (r : MReg) (v : Word) (g : Group) : (g.setMask r v).jobSerial = g.jobSerial := by unfold Group.setMask; split <;> rfl
@[simp] theorem Group.setMask_collNo (r : MReg) (v : Word) (g : Group) : (g.setMask r v).collNo = g.collNo := by unfold Group.setMask; split <;> rfl
@[simp] theorem Group.setMask_lent (r : MReg) (v : Word) (g : Group) : (g.setMask r v).lent = g.lent := by unfold Group.setMask; split <;> rfl
@[simp] theorem Group.setMask_sealed (r : MReg) (v : Word) (g : Group) : (g.setMask r v).sealed = g.sealed := by unfold Group.setMask; split <;> rfl
@[simp] theorem Group.setMask_sysact (r : MReg) (v : Word) (g : Group) : (g.setMask r v).sysact = g.sysact := by unfold Group.setMask; split <;> rfl
@[simp] theorem Group.setMask_trapact (r : MReg) (v : Word) (g : Group) : (g.setMask r v).trapact = g.trapact := by unfold Group.setMask; split <;> rfl
@[simp] theorem Group.setMask_sys (r : MReg) (v : Word) (g : Group) : (g.setMask r v).sys = g.sys := by unfold Group.setMask; split <;> rfl
@[simp] theorem Group.setMask_trapSlot (r : MReg) (v : Word) (g : Group) : (g.setMask r v).trapSlot = g.trapSlot := by unfold Group.setMask; split <;> rfl
@[simp] theorem Group.setMask_trapQueue (r : MReg) (v : Word) (g : Group) : (g.setMask r v).trapQueue = g.trapQueue := by unfold Group.setMask; split <;> rfl
@[simp] theorem Group.setMask_inj (r : MReg) (v : Word) (g : Group) : (g.setMask r v).inj = g.inj := by unfold Group.setMask; split <;> rfl
@[simp] theorem Group.setMask_nextInj (r : MReg) (v : Word) (g : Group) : (g.setMask r v).nextInj = g.nextInj := by unfold Group.setMask; split <;> rfl
@[simp] theorem Group.setMask_spill (r : MReg) (v : Word) (g : Group) : (g.setMask r v).spill = g.spill := by unfold Group.setMask; split <;> rfl
@[simp] theorem Group.setMask_launch (r : MReg) (v : Word) (g : Group) : (g.setMask r v).launch = g.launch := by unfold Group.setMask; split <;> rfl
@[simp] theorem Group.setMask_ended (r : MReg) (v : Word) (g : Group) : (g.setMask r v).ended = g.ended := by unfold Group.setMask; split <;> rfl
@[simp] theorem Group.setMask_stopped (r : MReg) (v : Word) (g : Group) : (g.setMask r v).stopped = g.stopped := by unfold Group.setMask; split <;> rfl
@[simp] theorem Group.setMask_preempt (r : MReg) (v : Word) (g : Group) : (g.setMask r v).preempt = g.preempt := by unfold Group.setMask; split <;> rfl
@[simp] theorem Group.setMask_blockedFor (r : MReg) (v : Word) (g : Group) : (g.setMask r v).blockedFor = g.blockedFor := by unfold Group.setMask; split <;> rfl
@[simp] theorem Group.setMask_twin (r : MReg) (v : Word) (g : Group) : (g.setMask r v).twin = g.twin := by unfold Group.setMask; split <;> rfl

/-! ## The slot -/

@[simp] theorem Slot.set_active (r : GReg) (v : Word) (sl : Slot) : (sl.set r v).active = sl.active := by unfold Slot.set; split <;> rfl
@[simp] theorem Slot.set_pc (r : GReg) (v : Word) (sl : Slot) : (sl.set r v).pc = sl.pc := by unfold Slot.set; split <;> rfl
@[simp] theorem Slot.set_levels (r : GReg) (v : Word) (sl : Slot) : (sl.set r v).levels = sl.levels := by unfold Slot.set; split <;> rfl
@[simp] theorem Slot.set_latch (r : GReg) (v : Word) (sl : Slot) : (sl.set r v).latch = sl.latch := by unfold Slot.set; split <;> rfl
@[simp] theorem Slot.set_wait (r : GReg) (v : Word) (sl : Slot) : (sl.set r v).wait = sl.wait := by unfold Slot.set; split <;> rfl
@[simp] theorem Slot.set_lastIssue (r : GReg) (v : Word) (sl : Slot) : (sl.set r v).lastIssue = sl.lastIssue := by unfold Slot.set; split <;> rfl
@[simp] theorem Slot.set_yielded (r : GReg) (v : Word) (sl : Slot) : (sl.set r v).yielded = sl.yielded := by unfold Slot.set; split <;> rfl
@[simp] theorem Slot.set_susp (r : GReg) (v : Word) (sl : Slot) : (sl.set r v).susp = sl.susp := by unfold Slot.set; split <;> rfl
@[simp] theorem Slot.set_trapPc (r : GReg) (v : Word) (sl : Slot) : (sl.set r v).trapPc = sl.trapPc := by unfold Slot.set; split <;> rfl
@[simp] theorem Slot.set_trapCause (r : GReg) (v : Word) (sl : Slot) : (sl.set r v).trapCause = sl.trapCause := by unfold Slot.set; split <;> rfl
@[simp] theorem Slot.set_trapVal (r : GReg) (v : Word) (sl : Slot) : (sl.set r v).trapVal = sl.trapVal := by unfold Slot.set; split <;> rfl
@[simp] theorem Slot.set_errors (r : GReg) (v : Word) (sl : Slot) : (sl.set r v).errors = sl.errors := by unfold Slot.set; split <;> rfl
@[simp] theorem Slot.set_entry (r : GReg) (v : Word) (sl : Slot) : (sl.set r v).entry = sl.entry := by unfold Slot.set; split <;> rfl
@[simp] theorem Slot.set_progress (r : GReg) (v : Word) (sl : Slot) : (sl.set r v).progress = sl.progress := by unfold Slot.set; split <;> rfl
@[simp] theorem Slot.finish_active (sl : Slot) : sl.finish.active = sl.active := rfl
@[simp] theorem Slot.finish_g (sl : Slot) : sl.finish.g = sl.g := rfl
@[simp] theorem Slot.finish_latch (sl : Slot) : sl.finish.latch = sl.latch := rfl
@[simp] theorem Slot.finish_wait (sl : Slot) : sl.finish.wait = sl.wait := rfl
@[simp] theorem Slot.finish_lastIssue (sl : Slot) : sl.finish.lastIssue = sl.lastIssue := rfl
@[simp] theorem Slot.finish_yielded (sl : Slot) : sl.finish.yielded = sl.yielded := rfl
@[simp] theorem Slot.finish_susp (sl : Slot) : sl.finish.susp = sl.susp := rfl
@[simp] theorem Slot.finish_trapPc (sl : Slot) : sl.finish.trapPc = sl.trapPc := rfl
@[simp] theorem Slot.finish_trapCause (sl : Slot) : sl.finish.trapCause = sl.trapCause := rfl
@[simp] theorem Slot.finish_trapVal (sl : Slot) : sl.finish.trapVal = sl.trapVal := rfl
@[simp] theorem Slot.finish_errors (sl : Slot) : sl.finish.errors = sl.errors := rfl
@[simp] theorem Slot.finish_entry (sl : Slot) : sl.finish.entry = sl.entry := rfl
@[simp] theorem Slot.jump_active (x : CodeAddr) (sl : Slot) : (sl.jump x).active = sl.active := rfl
@[simp] theorem Slot.jump_g (x : CodeAddr) (sl : Slot) : (sl.jump x).g = sl.g := rfl
@[simp] theorem Slot.jump_latch (x : CodeAddr) (sl : Slot) : (sl.jump x).latch = sl.latch := rfl
@[simp] theorem Slot.jump_wait (x : CodeAddr) (sl : Slot) : (sl.jump x).wait = sl.wait := rfl
@[simp] theorem Slot.jump_lastIssue (x : CodeAddr) (sl : Slot) : (sl.jump x).lastIssue = sl.lastIssue := rfl
@[simp] theorem Slot.jump_yielded (x : CodeAddr) (sl : Slot) : (sl.jump x).yielded = sl.yielded := rfl
@[simp] theorem Slot.jump_susp (x : CodeAddr) (sl : Slot) : (sl.jump x).susp = sl.susp := rfl
@[simp] theorem Slot.jump_trapPc (x : CodeAddr) (sl : Slot) : (sl.jump x).trapPc = sl.trapPc := rfl
@[simp] theorem Slot.jump_trapCause (x : CodeAddr) (sl : Slot) : (sl.jump x).trapCause = sl.trapCause := rfl
@[simp] theorem Slot.jump_trapVal (x : CodeAddr) (sl : Slot) : (sl.jump x).trapVal = sl.trapVal := rfl
@[simp] theorem Slot.jump_errors (x : CodeAddr) (sl : Slot) : (sl.jump x).errors = sl.errors := rfl
@[simp] theorem Slot.jump_entry (x : CodeAddr) (sl : Slot) : (sl.jump x).entry = sl.entry := rfl

/-! ## Registers read after they are written -/

/-- An entry of a vector after one is set. -/
theorem vector_get_set {α : Type} {n : Nat} (v : Vector α n) (i : Nat) (hi : i < n) (j : Fin n) (x : α) :
    (v.set i x hi).get j = if j.val = i then x else v.get j := by
  rcases v with ⟨a, ha⟩
  simp [Vector.get, Vector.set, Array.getElem_set]
  simp only [eq_comm (a := i)]
  rfl
theorem bitvec_toNat_eq {n : Nat} (x r : BitVec n) : x.toNat = r.toNat ↔ x = r := ⟨BitVec.eq_of_toNat_eq, fun h => h ▸ rfl⟩
/-- Slot j after slot i is changed. -/
theorem Group.slot_mapSlot (g : Group) (i j : SlotId) (f : Slot → Slot) : (g.mapSlot i f).slot j = if j = i then f (g.slot i) else g.slot j := by
  simp only [Group.slot, Group.mapSlot]
  rw [vector_get_set]
  simp only [BitVec.val_toFin, bitvec_toNat_eq]
@[simp] theorem Group.slot_mapSlot_self (g : Group) (i : SlotId) (f : Slot → Slot) : (g.mapSlot i f).slot i = f (g.slot i) := by
  simp [Group.slot_mapSlot]
theorem Group.slot_mapSlot_ne (g : Group) {i j : SlotId} (h : j ≠ i) (f : Slot → Slot) : (g.mapSlot i f).slot j = g.slot j := by
  simp [Group.slot_mapSlot, h]
/-- A general register after one is written: g0 reads as zero, and a write to it is discarded (R13). -/
theorem Slot.get_set (sl : Slot) (r x : GReg) (v : Word) : (sl.set r v).get x = if x = r ∧ r ≠ 0 then v else sl.get x := by
  by_cases hr : r = 0
  · simp [Slot.set, hr]
  · have e : sl.set r v = { sl with g := sl.g.set r.toNat v r.isLt } := if_neg hr
    rw [e]
    by_cases hx : x = 0
    · have : ¬(x = r ∧ r ≠ 0) := fun h => hr (h.1 ▸ hx)
      rw [if_neg this]; simp [Slot.get, hx]
    · have gx : ∀ s : Slot, s.get x = s.g.get x.toFin := fun s => if_neg hx
      rw [gx, gx]
      show (sl.g.set r.toNat v r.isLt).get x.toFin = _
      rw [vector_get_set]
      simp only [BitVec.val_toFin, bitvec_toNat_eq, ne_eq, hr, not_false_eq_true, and_true]
@[simp] theorem Slot.get_zero (sl : Slot) : sl.get 0#5 = 0 := if_pos rfl
@[simp] theorem Slot.get_finish (sl : Slot) (r : GReg) : sl.finish.get r = sl.get r := rfl
@[simp] theorem Slot.get_jump (sl : Slot) (x : CodeAddr) (r : GReg) : (sl.jump x).get r = sl.get r := rfl
/-- A mask register after one is written: m0 reads as all ones, and a write to it is discarded (R18). -/
theorem Group.mask_setMask (g : Group) (r x : MReg) (v : Word) : (g.setMask r v).mask x = if x = r ∧ r ≠ 0 then v else g.mask x := by
  by_cases hr : r = 0
  · simp [Group.setMask, hr]
  · have e : g.setMask r v = { g with m := g.m.set r.toNat v r.isLt } := if_neg hr
    rw [e]
    by_cases hx : x = 0
    · have : ¬(x = r ∧ r ≠ 0) := fun h => hr (h.1 ▸ hx)
      rw [if_neg this]; simp [Group.mask, hx]
    · have gx : ∀ s : Group, s.mask x = s.m.get x.toFin := fun s => if_neg hx
      rw [gx, gx]
      show (g.m.set r.toNat v r.isLt).get x.toFin = _
      rw [vector_get_set]
      simp only [BitVec.val_toFin, bitvec_toNat_eq, ne_eq, hr, not_false_eq_true, and_true]
/-- A tile row after one is written. -/
theorem Group.row_setRow (g : Group) (r x : VReg) (v : Row) : (g.setRow r v).row x = if x = r then v else g.row x := by
  simp only [Group.row, Group.setRow]
  rw [vector_get_set]
  simp only [BitVec.val_toFin, bitvec_toNat_eq]
/-- A queue after one is written. -/
theorem Group.queue_setQueue (g : Group) (q x : BitVec 3) (v : Queue) : (g.setQueue q v).queue x = if x = q then v else g.queue x := by
  simp only [Group.queue, Group.setQueue]
  rw [vector_get_set]
  simp only [BitVec.val_toFin, bitvec_toNat_eq]

end Sys2Proof.Machine
end

