-- ==== Sys2Proof/Laws/Memory.lean ====
section
/-! SUPPORT. Memory: a read after a write, and the canonical form that every memory operation keeps (log 6). -/

namespace Sys2Proof.Machine

/-! ## Reading after writing -/

theorem Memory.read_without (m : Memory) (x y : Nat) : Memory.read (Memory.without m x) y = if y = x then 0 else m.read y := by
  induction m with
  | nil => simp [Memory.without, Memory.read]
  | cons e rest ih =>
    obtain ⟨a, b⟩ := e
    by_cases hx : x = a
    · simp only [Memory.without, hx, if_true, Memory.read]
      rw [hx] at ih
      rw [ih]
      split <;> rfl
    · simp only [Memory.without, hx, if_false, Memory.read]
      rw [ih]
      by_cases hy : y = a
      · simp [hy, Ne.symm hx]
      · simp [hy]

theorem Memory.read_insert (m : Memory) (x y : Nat) (v : Byte) :
    Memory.read (Memory.insert (Memory.without m x) x v) y = if y = x then v else m.read y := by
  induction m with
  | nil => simp [Memory.without, Memory.insert, Memory.read]
  | cons e rest ih =>
    obtain ⟨a, b⟩ := e
    by_cases hx : x = a
    · have := ih
      simp only [Memory.without, hx, if_true, Memory.read]
      rw [hx] at this
      rw [this]
      split <;> rfl
    · have := ih
      simp only [Memory.without, hx, if_false, Memory.insert]
      split
      · simp only [Memory.read]
        rw [Memory.read_without]
        split <;> simp_all
      · simp only [Memory.read]
        rw [this]
        by_cases hy : y = a
        · simp [hy, Ne.symm hx]
        · simp [hy]

/-- A read after a write: the address written reads as the value, and every other as before. -/
theorem Memory.read_write (m : Memory) (x y : Nat) (v : Byte) : (m.write x v).read y = if y = x then v else m.read y := by
  unfold Memory.write
  split
  · rw [Memory.read_without]
    split <;> simp_all
  · exact Memory.read_insert m x y v

/-- A read outside the bytes written. -/
theorem Memory.read_writeN_of_lt (m : Memory) (a y : Nat) (bs : List Byte) (h : y < a) : (Memory.writeN m a bs).read y = m.read y := by
  induction bs generalizing m a with
  | nil => rfl
  | cons b rest ih =>
    simp only [Memory.writeN]
    rw [ih _ _ (by omega), Memory.read_write]
    simp [Nat.ne_of_lt h]

/-- A read after bytes are stored: byte j of them at a + j, and everywhere else what was there. -/
theorem Memory.read_writeN (m : Memory) (a y : Nat) (bs : List Byte) :
    (Memory.writeN m a bs).read y = if a ≤ y ∧ y < a + bs.length then bs[y - a]?.getD 0 else m.read y := by
  induction bs generalizing m a with
  | nil => simp [Memory.writeN]
  | cons b rest ih =>
    simp only [Memory.writeN, List.length_cons]
    by_cases hy : y = a
    · subst hy
      rw [Memory.read_writeN_of_lt _ _ _ _ (by omega), Memory.read_write]
      simp
    · rw [ih, Memory.read_write]
      simp only [hy, if_false]
      by_cases h : a + 1 ≤ y ∧ y < a + 1 + rest.length
      · rw [if_pos h, if_pos (by omega)]
        have : y - a = (y - (a + 1)) + 1 := by omega
        rw [this, List.getElem?_cons_succ]
      · rw [if_neg h, if_neg (by omega)]

@[simp] theorem Memory.length_readN (m : Memory) (a n : Nat) : (m.readN a n).length = n := by
  induction n generalizing a with
  | zero => rfl
  | succ n ih => simp [Memory.readN, ih]
theorem Memory.getElem?_readN (m : Memory) (a n i : Nat) (h : i < n) : (m.readN a n)[i]? = some (m.read (a + i)) := by
  induction n generalizing a i with
  | zero => omega
  | succ n ih =>
    cases i with
    | zero => simp [Memory.readN]
    | succ i =>
      rw [Memory.readN, List.getElem?_cons_succ, ih _ _ (by omega)]
      congr 2; omega
theorem length_leBytes (n v : Nat) : (leBytes n v).length = n := by
  induction n generalizing v with
  | zero => rfl
  | succ n ih => simp [leBytes, ih]
/-- Reading the number that was stored gives it back, modulo the width (R1). -/
theorem leNat_leBytes (n v : Nat) : leNat (leBytes n v) = v % 256 ^ n := by
  induction n generalizing v with
  | zero => simp [leBytes, leNat, Nat.mod_one]
  | succ n ih =>
    simp only [leBytes, leNat, ih, BitVec.toNat_ofNat]
    rw [show (2 : Nat) ^ 8 = 256 from rfl, Nat.pow_succ, Nat.mul_comm (256 ^ n), Nat.mod_mul]

/-! ## The canonical form -/

theorem Memory.wfFrom_mono {m : Memory} {lo hi : Nat} (h : m.wfFrom hi = true) (hle : lo ≤ hi) : m.wfFrom lo = true := by
  cases m with
  | nil => rfl
  | cons e rest =>
    simp only [Memory.wfFrom, Bool.and_eq_true, decide_eq_true_eq] at h ⊢
    exact ⟨⟨by omega, h.1.2⟩, h.2⟩
theorem Memory.wfFrom_without {m : Memory} {lo : Nat} (x : Nat) (h : m.wfFrom lo = true) : (Memory.without m x).wfFrom lo = true := by
  induction m generalizing lo with
  | nil => rfl
  | cons e rest ih =>
    simp only [Memory.wfFrom, Bool.and_eq_true, decide_eq_true_eq] at h
    simp only [Memory.without]
    split
    · exact Memory.wfFrom_mono (ih h.2) (by omega)
    · simp only [Memory.wfFrom, Bool.and_eq_true, decide_eq_true_eq]
      exact ⟨h.1, ih h.2⟩
theorem Memory.wfFrom_insert {m : Memory} {lo x : Nat} {v : Byte} (h : m.wfFrom lo = true) (hlo : lo ≤ x) (hv : v ≠ 0) :
    (Memory.insert (Memory.without m x) x v).wfFrom lo = true := by
  induction m generalizing lo with
  | nil => simpa [Memory.without, Memory.insert, Memory.wfFrom, hlo] using hv
  | cons e rest ih =>
    obtain ⟨a, b⟩ := e
    simp only [Memory.wfFrom, Bool.and_eq_true, decide_eq_true_eq] at h
    by_cases hx : x = a
    · simp only [Memory.without, hx, if_true]
      rw [hx] at ih
      exact ih (Memory.wfFrom_mono h.2 (by omega)) h.1.1
    · simp only [Memory.without, hx, if_false, Memory.insert]
      split
      · simp only [Memory.wfFrom, Bool.and_eq_true, decide_eq_true_eq]
        exact ⟨⟨hlo, hv⟩, ⟨by omega, h.1.2⟩, Memory.wfFrom_without x h.2⟩
      · simp only [Memory.wfFrom, Bool.and_eq_true, decide_eq_true_eq]
        exact ⟨h.1, ih h.2 (by omega)⟩
theorem Memory.wf_write {m : Memory} (x : Nat) (v : Byte) (h : m.wf = true) : (m.write x v).wf = true := by
  unfold Memory.write
  split
  · exact Memory.wfFrom_without x h
  · exact Memory.wfFrom_insert h (Nat.zero_le x) ‹_›
theorem Memory.wf_writeN {m : Memory} (a : Nat) (bs : List Byte) (h : m.wf = true) : (Memory.writeN m a bs).wf = true := by
  induction bs generalizing m a with
  | nil => exact h
  | cons b rest ih => exact ih (a + 1) (Memory.wf_write a b h)
theorem Memory.wf_ofBytes (bs : List Byte) : (Memory.ofBytes bs).wf = true := Memory.wf_writeN 0 bs rfl

/-! ## What the operations over memory do to it -/

theorem State.wf_writePhys {s : State} (p : Nat) (bs : List Byte) (h : s.mem.wf = true) : (s.writePhys p bs).mem.wf = true :=
  Memory.wf_writeN p bs h
theorem State.wf_writeHome {s : State} (a : Nat) (bs : List Byte) (h : s.mem.wf = true) : (s.writeHome a bs).mem.wf = true :=
  Memory.wf_writeN _ _ h
/-- A write at a home changes memory and the poison marks, and nothing else. -/
theorem State.writeHome_eq (s : State) (a : Nat) (bs : List Byte) :
    ∃ m l, s.writeHome a bs = { s with mem := m, poisoned := l } := ⟨_, _, rfl⟩
/-- A byte read at its home after it is written there. -/
theorem State.homeByte_writeHome_one (s : State) (a : Nat) (b : Byte) : (s.writeHome a [b]).homeByte a = b := by
  have h : (s.writeHome a [b]).norm a = s.norm a := rfl
  have m : (s.writeHome a [b]).mem = s.mem.write (s.norm a) (b ^^^ initialByte (s.norm a)) := rfl
  rw [State.homeByte, h, m, Memory.read_write, if_pos rfl]
  simp
/-- Discarding copies of tables changes nothing else of the core. -/
theorem Core.dropCopy_eq (a n : Nat) (c : Core) (i : Fin 4) : ∃ v, c.dropCopy a n i = { c with fnCopies := v } := by
  unfold Core.dropCopy
  split
  · split
    · exact ⟨_, rfl⟩
    · exact ⟨c.fnCopies, rfl⟩
  · exact ⟨c.fnCopies, rfl⟩
theorem Core.dropCopies_eq (a n : Nat) (c : Core) : ∃ v, c.dropCopies a n = { c with fnCopies := v } := by
  have all : ∀ (l : List (Fin 4)) (c : Core), ∃ v, l.foldl (fun c i => c.dropCopy a n i) c = { c with fnCopies := v } := by
    intro l
    induction l with
    | nil => intro c; exact ⟨c.fnCopies, rfl⟩
    | cons i rest ih =>
      intro c
      obtain ⟨v, hv⟩ := Core.dropCopy_eq a n c i
      obtain ⟨w, hw⟩ := ih { c with fnCopies := v }
      exact ⟨w, by rw [List.foldl_cons, hv, hw]⟩
  exact all _ c
/-- A store into the well changes the well and the copies of the tables, and nothing else. -/
theorem State.writeWell_eq (s : State) (a : Nat) (bs : List Byte) :
    ∃ v, s.writeWell a bs = { s with core := { s.core with fnCopies := v, grp := { s.core.grp with well := Memory.writeN s.core.grp.well a (keptBytes a bs) } } } := by
  obtain ⟨v, hv⟩ := Core.dropCopies_eq a bs.length s.core
  exact ⟨v, by simp only [State.writeWell, State.mapCore, hv]⟩
/-- A store into the local space changes the well, the copies of the tables and physical memory, and nothing else. -/
theorem State.storeLocal_eq (s : State) (a : Nat) (bs : List Byte) :
    ∃ v w m l, s.storeLocal a bs =
        { s with mem := m, poisoned := l, core := { s.core with fnCopies := v, grp := { s.core.grp with well := w } } } ∧
      (s.grp.well.wf = true → w.wf = true) ∧ (s.mem.wf = true → m.wf = true) := by
  obtain ⟨v, hv⟩ := State.writeWell_eq s a (bs.take (0x8000 - a))
  unfold State.storeLocal
  by_cases h1 : (bs.take (0x8000 - a)).isEmpty = true <;> by_cases h2 : (bs.drop (0x8000 - a)).isEmpty = true
  · exact ⟨s.core.fnCopies, s.core.grp.well, s.mem, s.poisoned, by simp [h1, h2], id, id⟩
  · exact ⟨s.core.fnCopies, s.core.grp.well, _, _, by simp only [h1, h2, if_true]; rfl, id, Memory.wf_writeN _ _⟩
  · exact ⟨v, _, s.mem, s.poisoned, by simp only [h1, h2, if_true]; exact hv, Memory.wf_writeN _ _, id⟩
  · exact ⟨v, _, _, _, by simp only [h1, h2, hv]; rfl, Memory.wf_writeN _ _, Memory.wf_writeN _ _⟩

/-! ## The wells of placed and saved groups (R24, R167, R360) -/

/-- What lies from address `a` up, moved down to 0. -/
theorem Memory.wfFrom_window {m : Memory} {lo a n : Nat} (h : m.wfFrom (lo + a) = true) :
    Memory.wfFrom lo ((m.filter fun c => decide (a ≤ c.1) && decide (c.1 < n)).map fun c => (c.1 - a, c.2)) = true := by
  induction m generalizing lo with
  | nil => rfl
  | cons e rest ih =>
    simp only [Memory.wfFrom, Bool.and_eq_true, decide_eq_true_eq] at h
    by_cases hn : e.1 < n
    · simp only [List.filter_cons, show decide (a ≤ e.1) = true by simp; omega, hn, decide_true, Bool.and_self, if_true, List.map_cons,
        Memory.wfFrom, Bool.and_eq_true, decide_eq_true_eq]
      exact ⟨⟨by omega, h.1.2⟩, ih (by rw [show e.1 - a + 1 + a = e.1 + 1 by omega]; exact h.2)⟩
    · simp only [List.filter_cons, hn, decide_false, Bool.and_false, Bool.false_eq_true, if_false]
      exact ih (Memory.wfFrom_mono h.2 (by omega))
theorem Memory.wf_window {m : Memory} (a n : Nat) (h : m.wf = true) :
    Memory.wf ((m.filter fun c => decide (a ≤ c.1) && decide (c.1 < n)).map fun c => (c.1 - a, c.2)) = true := by
  have low : ∀ {m : Memory} {lo : Nat}, m.wfFrom lo = true →
      ∃ l : Memory, l.wfFrom a = true ∧ m.filter (fun c => decide (a ≤ c.1) && decide (c.1 < n)) = l.filter fun c => decide (a ≤ c.1) && decide (c.1 < n) := by
    intro m
    induction m with
    | nil => intro lo _; exact ⟨[], rfl, rfl⟩
    | cons e rest ih =>
      intro lo h
      simp only [Memory.wfFrom, Bool.and_eq_true, decide_eq_true_eq] at h
      by_cases ha : a ≤ e.1
      · exact ⟨e :: rest, by simp only [Memory.wfFrom, Bool.and_eq_true, decide_eq_true_eq]; exact ⟨⟨ha, h.1.2⟩, h.2⟩, rfl⟩
      · obtain ⟨l, hl, he⟩ := ih h.2
        exact ⟨l, hl, by simp [ha, he]⟩
  obtain ⟨l, hl, he⟩ := low h
  rw [he]
  exact Memory.wfFrom_window (by simpa using hl)
theorem wfFrom_placedBytes {m : Memory} {lo : Nat} (h : m.wfFrom lo = true) : Memory.wfFrom lo (placedBytes m) = true := by
  induction m generalizing lo with
  | nil => rfl
  | cons e rest ih =>
    simp only [Memory.wfFrom, Bool.and_eq_true, decide_eq_true_eq] at h
    by_cases hk : keptByte e.1 e.2 = 0
    · simp only [placedBytes, List.filterMap_cons, hk, if_true]
      exact Memory.wfFrom_mono (ih h.2) (by omega)
    · simp only [placedBytes, List.filterMap_cons, hk, if_false, Memory.wfFrom, Bool.and_eq_true, decide_eq_true_eq]
      exact ⟨⟨h.1.1, hk⟩, ih h.2⟩
theorem Group.wf_setChan {g : Group} (c : BitVec 6) (e : Chan) (h : g.well.wf = true) : (g.setChan c e).well.wf = true :=
  Memory.wf_writeN _ _ h
/-- A section of a save image leaves the well canonical; only a queue's credits change it. -/
theorem Group.wf_loadSection {g : Group} (e : Nat × List Nat) (h : g.well.wf = true) : (g.loadSection e).well.wf = true := by
  unfold Group.loadSection
  split <;> first | exact h | exact Group.wf_setChan _ _ h
/-- A group that is loaded from its frame has a canonical well. -/
theorem State.wf_loadFrame {s : State} (x : SaveFrame) (h : s.mem.wf = true) : (s.loadFrame x).well.wf = true := by
  have slots : ∀ (p : Group → SlotId → Bool) (l : List SlotId) (g : Group), g.well.wf = true →
      (l.foldl (fun g k => if p g k then g.mapSlot k Slot.idle else g) g).well.wf = true := by
    intro p l
    induction l with
    | nil => exact fun g h => h
    | cons k rest ih =>
      intro g h
      rw [List.foldl_cons]
      split
      · exact ih _ h
      · exact ih _ h
  have sections : ∀ (l : List (Nat × List Nat)) (g : Group), g.well.wf = true → (l.foldl (fun g e => g.loadSection e) g).well.wf = true := by
    intro l
    induction l with
    | nil => exact fun g h => h
    | cons e rest ih => exact fun g h => ih _ (Group.wf_loadSection e h)
  unfold State.loadFrame
  exact sections _ _ (slots (fun g k => (g.slot k).active && !_) _ _ (wfFrom_placedBytes (Memory.wf_window _ _ h)))

theorem Memory.wfFrom_filter {m : Memory} {lo : Nat} (p : Nat × Byte → Bool) (h : m.wfFrom lo = true) : Memory.wfFrom lo (m.filter p) = true := by
  induction m generalizing lo with
  | nil => rfl
  | cons e rest ih =>
    simp only [Memory.wfFrom, Bool.and_eq_true, decide_eq_true_eq] at h
    rw [List.filter_cons]
    split
    · simp only [Memory.wfFrom, Bool.and_eq_true, decide_eq_true_eq]
      exact ⟨h.1, ih h.2⟩
    · exact Memory.wfFrom_mono (ih h.2) (by omega)
/-- Storing a frame keeps physical memory canonical. -/
theorem State.wf_storeFrame {s : State} (x : SaveFrame) (h : s.mem.wf = true) : (s.storeFrame x).mem.wf = true := by
  unfold State.storeFrame State.writeMain
  exact State.wf_writeHome _ _ h

end Sys2Proof.Machine
end

