-- ==== Sys2Proof/Laws/Ops.lean ====
section
/-! SUPPORT. What the shared operations do: the end of an instruction, a jump, a local check, a trap's entry, the focus; and that
every meaning answers a next state. -/

namespace Sys2Proof.Machine

/-! ## Every meaning goes on -/

theorem exec_next (i : Instr) (s : State) : ∃ t, exec i s = .next t := by cases i <;> exact ⟨_, rfl⟩

/-! ## The end of an instruction -/

@[simp] theorem Slot.finish_set_pc (sl : Slot) (r : GReg) (v : Word) : (sl.set r v).finish.pc = sl.finish.pc := by
  unfold Slot.set; split <;> rfl
@[simp] theorem Slot.finish_set_levels (sl : Slot) (r : GReg) (v : Word) : (sl.set r v).finish.levels = sl.finish.levels := by
  unfold Slot.set; split <;> rfl
/-- The slots after an instruction that writes gd: the issuing one has the value and goes on, and the others stand. -/
theorem State.result_slot (s : State) (d : GReg) (v : Word) (j : SlotId) :
    (s.result d v).grp.slot j = if j = s.k then (s.slot.set d v).finish else s.grp.slot j := by
  show (((s.core.grp.mapSlot s.k (·.set d v)).mapSlot s.k Slot.finish)).slot j = _
  rw [Group.slot_mapSlot, Group.slot_mapSlot_self, Group.slot_mapSlot]
  split <;> rfl
theorem State.finish_slot (s : State) (j : SlotId) : s.finish.grp.slot j = if j = s.k then s.slot.finish else s.grp.slot j :=
  Group.slot_mapSlot s.core.grp s.k j Slot.finish
theorem State.jump_slot (s : State) (x : CodeAddr) (j : SlotId) : (s.jump x).grp.slot j = if j = s.k then s.slot.jump x else s.grp.slot j :=
  Group.slot_mapSlot s.core.grp s.k j (Slot.jump x)
@[simp] theorem State.result_k (s : State) (d : GReg) (v : Word) : (s.result d v).k = s.k := rfl
@[simp] theorem State.finish_k (s : State) : s.finish.k = s.k := rfl
@[simp] theorem State.jump_k (s : State) (x : CodeAddr) : (s.jump x).k = s.k := rfl
@[simp] theorem State.result_instret (s : State) (d : GReg) (v : Word) : (s.result d v).grp.instret = s.grp.instret + 1 := rfl
@[simp] theorem State.finish_instret (s : State) : s.finish.grp.instret = s.grp.instret + 1 := rfl
@[simp] theorem State.result_inFlight (s : State) (d : GReg) (v : Word) : (s.result d v).grp.inFlight = s.grp.inFlight + 1 := rfl
@[simp] theorem State.finish_inFlight (s : State) : s.finish.grp.inFlight = s.grp.inFlight + 1 := rfl
@[simp] theorem State.finishNow_k (s : State) : s.finishNow.k = s.k := rfl
theorem State.finishNow_slot (s : State) (j : SlotId) : s.finishNow.grp.slot j = if j = s.k then s.slot.finish else s.grp.slot j :=
  Group.slot_mapSlot s.core.grp s.k j Slot.finish
@[simp] theorem State.finishNow_instret (s : State) : s.finishNow.grp.instret = s.grp.instret + 1 := rfl
@[simp] theorem State.finishNow_inFlight (s : State) : s.finishNow.grp.inFlight = s.grp.inFlight := rfl
theorem State.finishNow_outside (s : State) : Frame.outside s.finishNow = Frame.outside s := by
  unfold Frame.outside Frame.group; rfl
/-- What the group learns of its records' homes changes the marks of log entries, and nothing else. -/
theorem State.outdate_eq (s : State) (p : Nat → Bool) : ∃ l, s.outdate p = s.mapGrp (fun g => { g with log := l }) ∧
    l.map (fun e => { e with passed := 0 }) = s.grp.log.map (fun e => { e with passed := 0 }) := by
  refine ⟨_, rfl, ?_⟩
  rw [List.map_map]
  refine List.map_congr_left fun e _ => ?_
  simp only [Function.comp]
  split <;> rfl
@[simp] theorem State.jump_inFlight (s : State) (x : CodeAddr) : (s.jump x).grp.inFlight = s.grp.inFlight + 1 := rfl
@[simp] theorem State.jump_instret (s : State) (x : CodeAddr) : (s.jump x).grp.instret = s.grp.instret + 1 := rfl
theorem State.result_outside (s : State) (d : GReg) (v : Word) : Frame.outside (s.result d v) = Frame.outside s := by
  unfold Frame.outside Frame.group; rfl
theorem State.finish_outside (s : State) : Frame.outside s.finish = Frame.outside s := by
  unfold Frame.outside Frame.group; rfl
theorem State.jump_outside (s : State) (x : CodeAddr) : Frame.outside (s.jump x) = Frame.outside s := by
  unfold Frame.outside Frame.group; rfl
theorem Frame.slot_set_finish (sl : Slot) (d : GReg) (v : Word) : Frame.slot (sl.set d v).finish = Frame.slot sl := by
  unfold Slot.set; split <;> rfl

/-- Memory, the well and the window stand, so every byte reads as before. -/
theorem Frame.memory_of {s t : State} (hm : t.mem = s.mem) (hw : t.core.grp.well = s.core.grp.well)
    (hv : t.core.grp.spillOvf = s.core.grp.spillOvf) : Frame.memory s t := by
  unfold Frame.memory
  constructor
  · intro a; rw [hm]
  · intro a
    unfold State.localByte Group.windowAddr State.grp
    rw [hm, hw, hv]
/-- The issuing slot has gone on, and nothing but gd and its place has changed. -/
theorem Frame.slots_of {s t : State} {sl : Slot} {ds : List GReg} (hk : t.k = s.k)
    (h : ∀ j, t.core.grp.slot j = if j = s.k then sl.finish else s.core.grp.slot j)
    (hf : Frame.slot sl.finish = Frame.slot s.slot) (hr : ∀ r, r ∉ ds → sl.finish.get r = s.slot.get r) : Frame.slots s t ds := by
  have hs : t.slot = sl.finish := by simp only [State.slot, hk, h, if_true]
  refine ⟨by rw [hs, hf], fun r hr' => ?_, fun j hj => ?_⟩
  · simp only [State.getG, hs]; exact hr r hr'
  · simp only [State.grp, h, if_neg hj]
theorem Frame.done_of {i : Instr} {s t : State} {sl : Slot} (hk : t.k = s.k)
    (h : ∀ j, t.core.grp.slot j = if j = s.k then sl.finish else s.core.grp.slot j)
    (hp : sl.finish.pc = s.slot.finish.pc) (hl : sl.finish.levels = s.slot.finish.levels)
    (hn : t.core.grp.instret = s.core.grp.instret + 1) (hf : t.core.grp.inFlight = s.core.grp.inFlight + Frame.lag i) : Frame.done i s t := by
  have hs : t.slot = sl.finish := by simp only [State.slot, hk, h, if_true]
  exact ⟨by rw [hs, hp], by rw [hs, hl], hn, hf⟩

/-- An instruction that only writes gd gives its value. -/
theorem gives_of_result {i : Instr} {s : State} {d : GReg} {v : Word} (h : exec i s = .next (s.result d v)) (hl : Frame.lag i = 1) :
    Frame.gives i s d v := by
  have hj := State.result_slot s d v
  have hs : (s.result d v).slot = (s.slot.set d v).finish := (hj s.k).trans (if_pos rfl)
  refine ⟨s.result d v, ⟨h, Frame.done_of rfl hj (Slot.finish_set_pc _ _ _) (Slot.finish_set_levels _ _ _) (State.result_instret s d v) (hl ▸ State.result_inFlight s d v),
    Frame.slots_of rfl hj (Frame.slot_set_finish _ _ _) ?_, State.result_outside s d v⟩, ?_, Frame.memory_of rfl rfl rfl⟩
  · intro r hr
    rw [Slot.get_finish, Slot.get_set, if_neg]
    exact fun e => hr (by simp [e.1])
  · simp only [State.getG, hs]
    rw [Slot.get_finish, Slot.get_set]
    by_cases hd : d = 0
    · rw [if_neg (fun e => e.2 hd), if_pos hd, hd]; exact Slot.get_zero _
    · rw [if_pos ⟨rfl, hd⟩, if_neg hd]
/-- An instruction that only goes on changes nothing. -/
theorem turnsInto_of_finish {i : Instr} {s : State} (h : exec i s = .next s.finish) (hl : Frame.lag i = 1) : Frame.turnsInto i s s :=
  ⟨s.finish, ⟨h, Frame.done_of rfl (State.finish_slot s) rfl rfl (State.finish_instret s) (hl ▸ State.finish_inFlight s),
    Frame.slots_of rfl (State.finish_slot s) rfl (fun _ _ => rfl), State.finish_outside s⟩, Frame.memory_of rfl rfl rfl⟩
/-- The same for one that retires as it completes. -/
theorem turnsInto_of_finishNow {i : Instr} {s : State} (h : exec i s = .next s.finishNow) (hl : Frame.lag i = 0) : Frame.turnsInto i s s :=
  ⟨s.finishNow, ⟨h, Frame.done_of rfl (State.finishNow_slot s) rfl rfl (State.finishNow_instret s) (hl ▸ State.finishNow_inFlight s),
    Frame.slots_of rfl (State.finishNow_slot s) rfl (fun _ _ => rfl), State.finishNow_outside s⟩, Frame.memory_of rfl rfl rfl⟩
/-- An instruction that changes the group, but neither its slots, its well, its window nor its counts, and goes on. -/
theorem turnsInto_of_mapGrp {i : Instr} {s : State} {f : Group → Group} (h : exec i s = .next ((s.mapGrp f).finish))
    (hsl : (f s.core.grp).slots = s.core.grp.slots) (hw : (f s.core.grp).well = s.core.grp.well)
    (hv : (f s.core.grp).spillOvf = s.core.grp.spillOvf) (hn : (f s.core.grp).instret = s.core.grp.instret)
    (hf : (f s.core.grp).inFlight = s.core.grp.inFlight) (hl : Frame.lag i = 1) :
    Frame.turnsInto i s (s.mapGrp f) := by
  have hg : ∀ j, (s.mapGrp f).core.grp.slot j = s.core.grp.slot j := by
    intro j; simp only [Group.slot, State.mapGrp, hsl]
  have hsl' : (s.mapGrp f).slot = s.slot := hg s.k
  have hj : ∀ j, (s.mapGrp f).finish.core.grp.slot j = if j = s.k then s.slot.finish else s.core.grp.slot j := by
    intro j; rw [← hg, ← hsl']; exact State.finish_slot (s.mapGrp f) j
  refine ⟨(s.mapGrp f).finish, ⟨h, Frame.done_of rfl hj rfl rfl ?_ ?_, Frame.slots_of rfl hj rfl (fun _ _ => rfl),
    State.finish_outside _⟩, Frame.memory_of rfl hw hv⟩
  · exact (State.finish_instret (s.mapGrp f)).trans (congrArg (· + 1) hn)
  · rw [hl]; exact (State.finish_inFlight (s.mapGrp f)).trans (congrArg (· + 1) hf)

/-! ## Local checks (R109) -/

/-- CheckLocal passes for an address inside the local space, aligned, and outside the protected ranges (R21, R109). -/
theorem Group.checkLocal_eq_none (g : Group) (store : Bool) (a : Int) (n align : Nat) (v : Word) :
    g.checkLocal store a n align v = none ↔
      0 ≤ a ∧ a + n ≤ 0x10000 ∧ a.toNat % align = 0 ∧ g.protected store a.toNat n = false := by
  unfold Group.checkLocal
  split
  · constructor
    · intro h; exact absurd h (by simp)
    · intro h; omega
  · split
    · constructor
      · intro h; exact absurd h (by simp)
      · intro h; exact absurd h.2.2.1 ‹_›
    · split
      · rename_i h; simp [h]
      · rename_i h1 h2 h3
        simp only [true_iff]
        exact ⟨by omega, by omega, by omega, by simpa using h3⟩

/-! ## The focus -/

/-- Making a core the focus makes it the focus. -/
theorem State.focus_at (s : State) (c : Coord) : (s.focus c).core.at_ = c := by
  unfold State.focus
  split
  · assumption
  · split
    · rename_i h; simpa using List.find?_some h
    · rfl
@[simp] theorem State.focus_self (s : State) : s.focus s.core.at_ = s := by simp [State.focus]
theorem State.focus_mem (s : State) (c : Coord) : (s.focus c).mem = s.mem := by
  unfold State.focus
  split
  · rfl
  · split <;> rfl
/-- What is done at a core leaves the focus where it was. -/
theorem State.atCore_at (s : State) (c : Coord) (f : State → State) : (s.atCore c f).core.at_ = s.core.at_ :=
  State.focus_at _ _
theorem State.atCore_self (s : State) (f : State → State) (h : (f s).core.at_ = s.core.at_) : s.atCore s.core.at_ f = f s := by
  simp only [State.atCore, State.focus_self]
  rw [← h, State.focus_self]

/-! ## Traps (R335) -/

/-- A slot that traps stops with its place, cause and value, before anything else happens. -/
def Slot.trapped (cause : Word) (pc : CodeAddr) (v : Word) (sl : Slot) : Slot :=
  { sl with susp := true, trapPc := pc, trapCause := cause, trapVal := v, progress := .none, wait := 0 }
/-- An access of the slot that waited for a page no longer waits (R247). -/
def Core.dropWaiting (k : SlotId) (c : Core) : Core := { c with misses := c.misses.map fun m => if m.slot = k then { m with live := false } else m }
/-- A trap while slot 3 runs waits behind the earlier ones. -/
theorem State.takeTrap_waits (s : State) (k : SlotId) (cause : Word) (pc : CodeAddr) (v : Word) (hk : k ≠ 3)
    (ha : (s.grp.slot 3).active = true) :
    s.takeTrap k cause pc v = ((s.mapSlotOf k (Slot.trapped cause pc v)).mapCore (Core.dropWaiting k)).mapGrp fun g => { g with trapQueue := g.trapQueue ++ [k] } := by
  have h3 : ((s.mapSlotOf k (Slot.trapped cause pc v)).grp.slot 3).active = true := by
    show ((s.core.grp.mapSlot k _).slot 3).active = true
    rw [Group.slot_mapSlot_ne _ (Ne.symm hk)]; exact ha
  have key : ∀ u : State, (u.grp.slot 3).active = true → u.startTrap = u := by
    intro u hu
    unfold State.startTrap
    split
    · rfl
    · rw [if_pos (Bool.or_eq_true_iff.mpr (.inl hu))]
  unfold State.takeTrap
  rw [if_neg hk]
  exact key _ h3

/-! ## A place for a private area -/

/-- The search finds a number with the property when one of those it tries has it. -/
theorem firstFrom_isSome {p : Nat → Bool} {n b i : Nat} (hi : i < n) (hp : p (b + i) = true) : ∃ j, firstFrom p b n = some j ∧ p j = true := by
  induction n generalizing b i with
  | zero => omega
  | succ n ih =>
    simp only [firstFrom]
    by_cases h : p b = true
    · exact ⟨b, by simp [h], h⟩
    · simp only [h, if_false, Bool.false_eq_true]
      cases i with
      | zero => exact absurd hp h
      | succ i => exact ih (b := b + 1) (i := i) (by omega) (by rwa [show b + 1 + i = b + (i + 1) by omega])

/-- A private area is found when one of the places that the search tries is free; it then meets nothing that is in use. -/
theorem newArea_some {l : Launch} {which part size align : Nat} {s : State} (i : Nat)
    (near : i < s.memUsed.foldl (fun n u => n + (u.2 + size) / align + 2) 0 + size / align + 1)
    (fits : (Config.preferred l.id which part % (2 ^ 39 / align) + i) % (2 ^ 39 / align) * align + size ≤ 2 ^ 39)
    (free : ∀ u ∈ s.memUsed, overlaps (0x1000000000 + (Config.preferred l.id which part % (2 ^ 39 / align) + i) % (2 ^ 39 / align) * align) size u.1 u.2 = false) :
    ∃ a, s.newArea l which part size align = some (a, { s with areas := s.areas ++ [(l.id, a, size)] }) ∧
      (∃ x, a = 0x1000000000 + x * align) ∧ a + size ≤ 0x9000000000 := by
  unfold State.newArea
  obtain ⟨j, hj, ok⟩ := firstFrom_isSome (p := fun i => decide (0x1000000000 + (Config.preferred l.id which part % (2 ^ 39 / align) + i) % (2 ^ 39 / align) * align + size ≤ 0x9000000000) &&
      !s.memUsed.any fun u => overlaps (0x1000000000 + (Config.preferred l.id which part % (2 ^ 39 / align) + i) % (2 ^ 39 / align) * align) size u.1 u.2) (b := 0) (i := i) near (by
      simp only [Nat.zero_add, Bool.and_eq_true, decide_eq_true_eq, Bool.not_eq_true', List.any_eq_false, Bool.not_eq_true]
      exact ⟨by omega, free⟩)
  simp only [Bool.and_eq_true, decide_eq_true_eq] at ok
  exact ⟨_, by simp only [hj, Option.map_some], ⟨_, rfl⟩, ok.1⟩
/-! ## The end of what the sump keeps for a group (R348) -/

/-- The well and the place of every core, and the well of every saved group. -/
def State.wells (s : State) : List (Coord × Memory) × List Memory :=
  (s.cores.map fun c => (c.at_, c.grp.well), s.frames.map fun x => x.grp.well)
/-- Counting a message as consumed changes counts of groups and of directory entries, and nothing else. -/
theorem State.countConsumed_eq (n : Name) (s : State) :
    ∃ k o f d, s.countConsumed n =
        { s with core := { s.core with grp := { s.core.grp with consumed := k } }, others := o, frames := f, directory := d } ∧
      (s.countConsumed n).wells = s.wells := by
  unfold State.countConsumed
  split
  · let t := s.mapGroup n fun g => { g with consumed := g.consumed + 1 }
    refine ⟨t.core.grp.consumed, t.others, t.frames, s.directory, ?_, ?_⟩
    · simp only [t, State.mapGroup]
      split <;> rfl
    · simp only [State.wells, State.mapGroup, State.cores, List.map_cons, List.map_map]
      congr 1
      · congr 1
        · split <;> rfl
        · apply List.map_congr_left; intro c _; simp only [Function.comp_apply]; split <;> rfl
      · apply List.map_congr_left; intro x _; simp only [Function.comp_apply]; split <;> rfl
  · exact ⟨s.core.grp.consumed, s.others, s.frames, _, rfl, rfl⟩
/-- Ending what waits in the sump changes the sump, and counts. -/
theorem State.endSump_eq (n : Name) (s : State) :
    ∃ k o f d l, s.endSump n =
        { s with core := { s.core with grp := { s.core.grp with consumed := k } }, others := o, frames := f, directory := d, sump := l } ∧
      (s.endSump n).wells = s.wells := by
  have all : ∀ (q : List (Name × Packet)) (u : State),
      let t := q.foldl (fun s e => if e.2.isFor n then s.countConsumed n else s) u
      (∃ k o f d, t = { u with core := { u.core with grp := { u.core.grp with consumed := k } }, others := o, frames := f, directory := d }) ∧
        t.wells = u.wells := by
    intro q
    induction q with
    | nil => exact fun u => ⟨⟨u.core.grp.consumed, u.others, u.frames, u.directory, rfl⟩, rfl⟩
    | cons e rest ih =>
      intro u
      simp only [List.foldl_cons]
      split
      · obtain ⟨k, o, f, d, hu, hw⟩ := State.countConsumed_eq n u
        obtain ⟨⟨k', o', f', d', ht⟩, hw'⟩ := ih (u.countConsumed n)
        refine ⟨⟨k', o', f', d', ?_⟩, hw'.trans hw⟩
        rw [ht, hu]
      · exact ih u
  obtain ⟨⟨k, o, f, d, h⟩, hw⟩ := all (s.sump.filter fun e => e.1 = n) { s with sump := s.sump.filter fun e => decide (e.1 ≠ n) }
  exact ⟨k, o, f, d, _, h, hw⟩

end Sys2Proof.Machine
end

