-- ==== Sys2Proof/Laws/PerInstr.lean ====
section
/-! SUPPORT. Laws made instruction by instruction: no instruction's word has a reserved major opcode (R77), and an event has no
word. -/

namespace Sys2Proof

theorem fOp_formA (op : BitVec 6) (d a b opt : BitVec 5) (fn : BitVec 6) : fOp (formA op d a b opt fn) = op := by
  unfold fOp formA
  ext i hi
  simp only [BitVec.getElem_extractLsb', BitVec.getLsbD_append]
  rw [if_neg (by omega), if_neg (by omega), if_neg (by omega), if_neg (by omega), if_neg (by omega)]
  rw [show 26 + i - 6 - 5 - 5 - 5 - 5 = i by omega, BitVec.getLsbD_eq_getElem hi]
theorem fOp_formI (op : BitVec 6) (d a : BitVec 5) (imm : BitVec 16) : fOp (formI op d a imm) = op := by
  unfold fOp formI
  ext i hi
  simp only [BitVec.getElem_extractLsb', BitVec.getLsbD_append]
  rw [if_neg (by omega), if_neg (by omega), if_neg (by omega)]
  rw [show 26 + i - 16 - 5 - 5 = i by omega, BitVec.getLsbD_eq_getElem hi]
theorem fOp_formJ (op : BitVec 6) (imm : BitVec 26) : fOp (formJ op imm) = op := by
  unfold fOp formJ
  ext i hi
  simp only [BitVec.getElem_extractLsb', BitVec.getLsbD_append]
  rw [if_neg (by omega), show 26 + i - 26 = i by omega, BitVec.getLsbD_eq_getElem hi]
theorem fOp_formL (op : BitVec 6) (c : BitVec 15) (body : BitVec 11) : fOp (formL op c body) = op := by
  unfold fOp formL
  ext i hi
  simp only [BitVec.getElem_extractLsb', BitVec.getLsbD_append]
  rw [if_neg (by omega), if_neg (by omega), show 26 + i - 11 - 15 = i by omega, BitVec.getLsbD_eq_getElem hi]
theorem vector_major : ∀ x : BitVec 6, x.getLsbD 4 = true → x.getLsbD 5 = true → 0x30 ≤ x.toNat := by decide
theorem fOp_formV (vop : BitVec 6) (ty : BitVec 2) (vd va vb : BitVec 5) (mk : BitVec 3) (pat : BitVec 4) :
    0x30 ≤ (fOp (formV vop ty vd va vb mk pat)).toNat := by
  apply vector_major <;>
    (unfold fOp formV
     simp only [BitVec.getLsbD_extractLsb', BitVec.getLsbD_append]
     simp)
theorem vbci_major : ∀ t : BType, ((0x15#5 ++ (btypeCode t).extractLsb' 2 1 : BitVec 6)).toNat < 0x2C := by
  intro t; cases t <;> decide

/-- No word of the instruction has one of the majors that R77 leaves unassigned. -/
def Laws.Encoding.Statement (i : Instr) : Prop := ∀ w, encode i = some w → (fOp w).toNat < 0x2C ∨ 0x30 ≤ (fOp w).toNat

theorem Laws.Encoding.add : ∀ x0 x1 x2, Laws.Encoding.Statement (.add x0 x1 x2) := fun _ _ _ w h => by cases h; rw [fOp_formA]; decide
theorem Laws.Encoding.sub : ∀ x0 x1 x2, Laws.Encoding.Statement (.sub x0 x1 x2) := fun _ _ _ w h => by cases h; rw [fOp_formA]; decide
theorem Laws.Encoding.and : ∀ x0 x1 x2, Laws.Encoding.Statement (.and x0 x1 x2) := fun _ _ _ w h => by cases h; rw [fOp_formA]; decide
theorem Laws.Encoding.or : ∀ x0 x1 x2, Laws.Encoding.Statement (.or x0 x1 x2) := fun _ _ _ w h => by cases h; rw [fOp_formA]; decide
theorem Laws.Encoding.xor : ∀ x0 x1 x2, Laws.Encoding.Statement (.xor x0 x1 x2) := fun _ _ _ w h => by cases h; rw [fOp_formA]; decide
theorem Laws.Encoding.andn : ∀ x0 x1 x2, Laws.Encoding.Statement (.andn x0 x1 x2) := fun _ _ _ w h => by cases h; rw [fOp_formA]; decide
theorem Laws.Encoding.orn : ∀ x0 x1 x2, Laws.Encoding.Statement (.orn x0 x1 x2) := fun _ _ _ w h => by cases h; rw [fOp_formA]; decide
theorem Laws.Encoding.sll : ∀ x0 x1 x2, Laws.Encoding.Statement (.sll x0 x1 x2) := fun _ _ _ w h => by cases h; rw [fOp_formA]; decide
theorem Laws.Encoding.srl : ∀ x0 x1 x2, Laws.Encoding.Statement (.srl x0 x1 x2) := fun _ _ _ w h => by cases h; rw [fOp_formA]; decide
theorem Laws.Encoding.sra : ∀ x0 x1 x2, Laws.Encoding.Statement (.sra x0 x1 x2) := fun _ _ _ w h => by cases h; rw [fOp_formA]; decide
theorem Laws.Encoding.rol : ∀ x0 x1 x2, Laws.Encoding.Statement (.rol x0 x1 x2) := fun _ _ _ w h => by cases h; rw [fOp_formA]; decide
theorem Laws.Encoding.ror : ∀ x0 x1 x2, Laws.Encoding.Statement (.ror x0 x1 x2) := fun _ _ _ w h => by cases h; rw [fOp_formA]; decide
theorem Laws.Encoding.mul : ∀ x0 x1 x2, Laws.Encoding.Statement (.mul x0 x1 x2) := fun _ _ _ w h => by cases h; rw [fOp_formA]; decide
theorem Laws.Encoding.mulh : ∀ x0 x1 x2, Laws.Encoding.Statement (.mulh x0 x1 x2) := fun _ _ _ w h => by cases h; rw [fOp_formA]; decide
theorem Laws.Encoding.mulhu : ∀ x0 x1 x2, Laws.Encoding.Statement (.mulhu x0 x1 x2) := fun _ _ _ w h => by cases h; rw [fOp_formA]; decide
theorem Laws.Encoding.div : ∀ x0 x1 x2, Laws.Encoding.Statement (.div x0 x1 x2) := fun _ _ _ w h => by cases h; rw [fOp_formA]; decide
theorem Laws.Encoding.divu : ∀ x0 x1 x2, Laws.Encoding.Statement (.divu x0 x1 x2) := fun _ _ _ w h => by cases h; rw [fOp_formA]; decide
theorem Laws.Encoding.rem : ∀ x0 x1 x2, Laws.Encoding.Statement (.rem x0 x1 x2) := fun _ _ _ w h => by cases h; rw [fOp_formA]; decide
theorem Laws.Encoding.remu : ∀ x0 x1 x2, Laws.Encoding.Statement (.remu x0 x1 x2) := fun _ _ _ w h => by cases h; rw [fOp_formA]; decide
theorem Laws.Encoding.min : ∀ x0 x1 x2, Laws.Encoding.Statement (.min x0 x1 x2) := fun _ _ _ w h => by cases h; rw [fOp_formA]; decide
theorem Laws.Encoding.max : ∀ x0 x1 x2, Laws.Encoding.Statement (.max x0 x1 x2) := fun _ _ _ w h => by cases h; rw [fOp_formA]; decide
theorem Laws.Encoding.minu : ∀ x0 x1 x2, Laws.Encoding.Statement (.minu x0 x1 x2) := fun _ _ _ w h => by cases h; rw [fOp_formA]; decide
theorem Laws.Encoding.maxu : ∀ x0 x1 x2, Laws.Encoding.Statement (.maxu x0 x1 x2) := fun _ _ _ w h => by cases h; rw [fOp_formA]; decide
theorem Laws.Encoding.slt : ∀ x0 x1 x2, Laws.Encoding.Statement (.slt x0 x1 x2) := fun _ _ _ w h => by cases h; rw [fOp_formA]; decide
theorem Laws.Encoding.sltu : ∀ x0 x1 x2, Laws.Encoding.Statement (.sltu x0 x1 x2) := fun _ _ _ w h => by cases h; rw [fOp_formA]; decide
theorem Laws.Encoding.seq : ∀ x0 x1 x2, Laws.Encoding.Statement (.seq x0 x1 x2) := fun _ _ _ w h => by cases h; rw [fOp_formA]; decide
theorem Laws.Encoding.sne : ∀ x0 x1 x2, Laws.Encoding.Statement (.sne x0 x1 x2) := fun _ _ _ w h => by cases h; rw [fOp_formA]; decide
theorem Laws.Encoding.movz : ∀ x0 x1 x2, Laws.Encoding.Statement (.movz x0 x1 x2) := fun _ _ _ w h => by cases h; rw [fOp_formA]; decide
theorem Laws.Encoding.movnz : ∀ x0 x1 x2, Laws.Encoding.Statement (.movnz x0 x1 x2) := fun _ _ _ w h => by cases h; rw [fOp_formA]; decide
theorem Laws.Encoding.clz : ∀ x0 x1, Laws.Encoding.Statement (.clz x0 x1) := fun _ _ w h => by cases h; rw [fOp_formA]; decide
theorem Laws.Encoding.ctz : ∀ x0 x1, Laws.Encoding.Statement (.ctz x0 x1) := fun _ _ w h => by cases h; rw [fOp_formA]; decide
theorem Laws.Encoding.popc : ∀ x0 x1, Laws.Encoding.Statement (.popc x0 x1) := fun _ _ w h => by cases h; rw [fOp_formA]; decide
theorem Laws.Encoding.brev : ∀ x0 x1, Laws.Encoding.Statement (.brev x0 x1) := fun _ _ w h => by cases h; rw [fOp_formA]; decide
theorem Laws.Encoding.bswap : ∀ x0 x1, Laws.Encoding.Statement (.bswap x0 x1) := fun _ _ w h => by cases h; rw [fOp_formA]; decide
theorem Laws.Encoding.sxb : ∀ x0 x1, Laws.Encoding.Statement (.sxb x0 x1) := fun _ _ w h => by cases h; rw [fOp_formA]; decide
theorem Laws.Encoding.sxh : ∀ x0 x1, Laws.Encoding.Statement (.sxh x0 x1) := fun _ _ w h => by cases h; rw [fOp_formA]; decide
theorem Laws.Encoding.sxw : ∀ x0 x1, Laws.Encoding.Statement (.sxw x0 x1) := fun _ _ w h => by cases h; rw [fOp_formA]; decide
theorem Laws.Encoding.zxw : ∀ x0 x1, Laws.Encoding.Statement (.zxw x0 x1) := fun _ _ w h => by cases h; rw [fOp_formA]; decide
theorem Laws.Encoding.addi : ∀ x0 x1 x2, Laws.Encoding.Statement (.addi x0 x1 x2) := fun _ _ _ w h => by cases h; rw [fOp_formI]; decide
theorem Laws.Encoding.andi : ∀ x0 x1 x2, Laws.Encoding.Statement (.andi x0 x1 x2) := fun _ _ _ w h => by cases h; rw [fOp_formI]; decide
theorem Laws.Encoding.ori : ∀ x0 x1 x2, Laws.Encoding.Statement (.ori x0 x1 x2) := fun _ _ _ w h => by cases h; rw [fOp_formI]; decide
theorem Laws.Encoding.xori : ∀ x0 x1 x2, Laws.Encoding.Statement (.xori x0 x1 x2) := fun _ _ _ w h => by cases h; rw [fOp_formI]; decide
theorem Laws.Encoding.slti : ∀ x0 x1 x2, Laws.Encoding.Statement (.slti x0 x1 x2) := fun _ _ _ w h => by cases h; rw [fOp_formI]; decide
theorem Laws.Encoding.sltiu : ∀ x0 x1 x2, Laws.Encoding.Statement (.sltiu x0 x1 x2) := fun _ _ _ w h => by cases h; rw [fOp_formI]; decide
theorem Laws.Encoding.lih : ∀ x0 x1, Laws.Encoding.Statement (.lih x0 x1) := fun _ _ w h => by cases h; rw [fOp_formI]; decide
theorem Laws.Encoding.slli : ∀ x0 x1 x2, Laws.Encoding.Statement (.slli x0 x1 x2) := fun _ _ _ w h => by cases h; rw [fOp_formI]; decide
theorem Laws.Encoding.srli : ∀ x0 x1 x2, Laws.Encoding.Statement (.srli x0 x1 x2) := fun _ _ _ w h => by cases h; rw [fOp_formI]; decide
theorem Laws.Encoding.srai : ∀ x0 x1 x2, Laws.Encoding.Statement (.srai x0 x1 x2) := fun _ _ _ w h => by cases h; rw [fOp_formI]; decide
theorem Laws.Encoding.rori : ∀ x0 x1 x2, Laws.Encoding.Statement (.rori x0 x1 x2) := fun _ _ _ w h => by cases h; rw [fOp_formI]; decide
theorem Laws.Encoding.beq : ∀ x0 x1 x2, Laws.Encoding.Statement (.beq x0 x1 x2) := fun _ _ _ w h => by cases h; rw [fOp_formI]; decide
theorem Laws.Encoding.bne : ∀ x0 x1 x2, Laws.Encoding.Statement (.bne x0 x1 x2) := fun _ _ _ w h => by cases h; rw [fOp_formI]; decide
theorem Laws.Encoding.blt : ∀ x0 x1 x2, Laws.Encoding.Statement (.blt x0 x1 x2) := fun _ _ _ w h => by cases h; rw [fOp_formI]; decide
theorem Laws.Encoding.bge : ∀ x0 x1 x2, Laws.Encoding.Statement (.bge x0 x1 x2) := fun _ _ _ w h => by cases h; rw [fOp_formI]; decide
theorem Laws.Encoding.bltu : ∀ x0 x1 x2, Laws.Encoding.Statement (.bltu x0 x1 x2) := fun _ _ _ w h => by cases h; rw [fOp_formI]; decide
theorem Laws.Encoding.bgeu : ∀ x0 x1 x2, Laws.Encoding.Statement (.bgeu x0 x1 x2) := fun _ _ _ w h => by cases h; rw [fOp_formI]; decide
theorem Laws.Encoding.jal : ∀ x0, Laws.Encoding.Statement (.jal x0) := fun _ w h => by cases h; rw [fOp_formJ]; decide
theorem Laws.Encoding.jalr : ∀ x0 x1 x2, Laws.Encoding.Statement (.jalr x0 x1 x2) := fun _ _ _ w h => by cases h; rw [fOp_formI]; decide
theorem Laws.Encoding.loop : ∀ x0 x1, Laws.Encoding.Statement (.loop x0 x1) := fun _ _ w h => by cases h; rw [fOp_formL]; decide
theorem Laws.Encoding.loopi : ∀ x0 x1, Laws.Encoding.Statement (.loopi x0 x1) := fun _ _ w h => by cases h; rw [fOp_formL]; decide
theorem Laws.Encoding.ldb : ∀ x0 x1 x2, Laws.Encoding.Statement (.ldb x0 x1 x2) := fun _ _ _ w h => by cases h; rw [fOp_formI]; decide
theorem Laws.Encoding.ldbu : ∀ x0 x1 x2, Laws.Encoding.Statement (.ldbu x0 x1 x2) := fun _ _ _ w h => by cases h; rw [fOp_formI]; decide
theorem Laws.Encoding.ldh : ∀ x0 x1 x2, Laws.Encoding.Statement (.ldh x0 x1 x2) := fun _ _ _ w h => by cases h; rw [fOp_formI]; decide
theorem Laws.Encoding.ldhu : ∀ x0 x1 x2, Laws.Encoding.Statement (.ldhu x0 x1 x2) := fun _ _ _ w h => by cases h; rw [fOp_formI]; decide
theorem Laws.Encoding.ldw : ∀ x0 x1 x2, Laws.Encoding.Statement (.ldw x0 x1 x2) := fun _ _ _ w h => by cases h; rw [fOp_formI]; decide
theorem Laws.Encoding.ldwu : ∀ x0 x1 x2, Laws.Encoding.Statement (.ldwu x0 x1 x2) := fun _ _ _ w h => by cases h; rw [fOp_formI]; decide
theorem Laws.Encoding.ldd : ∀ x0 x1 x2, Laws.Encoding.Statement (.ldd x0 x1 x2) := fun _ _ _ w h => by cases h; rw [fOp_formI]; decide
theorem Laws.Encoding.stb : ∀ x0 x1 x2, Laws.Encoding.Statement (.stb x0 x1 x2) := fun _ _ _ w h => by cases h; rw [fOp_formI]; decide
theorem Laws.Encoding.sth : ∀ x0 x1 x2, Laws.Encoding.Statement (.sth x0 x1 x2) := fun _ _ _ w h => by cases h; rw [fOp_formI]; decide
theorem Laws.Encoding.stw : ∀ x0 x1 x2, Laws.Encoding.Statement (.stw x0 x1 x2) := fun _ _ _ w h => by cases h; rw [fOp_formI]; decide
theorem Laws.Encoding.std : ∀ x0 x1 x2, Laws.Encoding.Statement (.std x0 x1 x2) := fun _ _ _ w h => by cases h; rw [fOp_formI]; decide
theorem Laws.Encoding.ldv : ∀ x0 x1 x2, Laws.Encoding.Statement (.ldv x0 x1 x2) := fun _ _ _ w h => by cases h; rw [fOp_formI]; decide
theorem Laws.Encoding.stv : ∀ x0 x1 x2, Laws.Encoding.Statement (.stv x0 x1 x2) := fun _ _ _ w h => by cases h; rw [fOp_formI]; decide
theorem Laws.Encoding.ldvs : ∀ x0 x1 x2 x3, Laws.Encoding.Statement (.ldvs x0 x1 x2 x3) := fun _ _ _ _ w h => by cases h; rw [fOp_formA]; decide
theorem Laws.Encoding.stvs : ∀ x0 x1 x2 x3, Laws.Encoding.Statement (.stvs x0 x1 x2 x3) := fun _ _ _ _ w h => by cases h; rw [fOp_formA]; decide
theorem Laws.Encoding.ldf : ∀ x0 x1, Laws.Encoding.Statement (.ldf x0 x1) := fun _ _ w h => by cases h; rw [fOp_formA]; decide
theorem Laws.Encoding.ldfk : ∀ x0 x1, Laws.Encoding.Statement (.ldfk x0 x1) := fun _ _ w h => by cases h; rw [fOp_formA]; decide
theorem Laws.Encoding.ste : ∀ x0 x1, Laws.Encoding.Statement (.ste x0 x1) := fun _ _ w h => by cases h; rw [fOp_formA]; decide
theorem Laws.Encoding.setf : ∀ x0, Laws.Encoding.Statement (.setf x0) := fun _ w h => by cases h; rw [fOp_formA]; decide
theorem Laws.Encoding.sete : ∀ x0, Laws.Encoding.Statement (.sete x0) := fun _ w h => by cases h; rw [fOp_formA]; decide
theorem Laws.Encoding.tstf : ∀ x0 x1, Laws.Encoding.Statement (.tstf x0 x1) := fun _ _ w h => by cases h; rw [fOp_formA]; decide
theorem Laws.Encoding.fadd : ∀ x0 x1 x2 x3, Laws.Encoding.Statement (.fadd x0 x1 x2 x3) := fun _ _ _ _ w h => by cases h; rw [fOp_formA]; decide
theorem Laws.Encoding.fsub : ∀ x0 x1 x2 x3, Laws.Encoding.Statement (.fsub x0 x1 x2 x3) := fun _ _ _ _ w h => by cases h; rw [fOp_formA]; decide
theorem Laws.Encoding.fmul : ∀ x0 x1 x2 x3, Laws.Encoding.Statement (.fmul x0 x1 x2 x3) := fun _ _ _ _ w h => by cases h; rw [fOp_formA]; decide
theorem Laws.Encoding.ffma : ∀ x0 x1 x2 x3 x4, Laws.Encoding.Statement (.ffma x0 x1 x2 x3 x4) := fun _ _ _ _ _ w h => by cases h; rw [fOp_formA]; decide
theorem Laws.Encoding.fdiv : ∀ x0 x1 x2 x3, Laws.Encoding.Statement (.fdiv x0 x1 x2 x3) := fun _ _ _ _ w h => by cases h; rw [fOp_formA]; decide
theorem Laws.Encoding.fsqrt : ∀ x0 x1 x2, Laws.Encoding.Statement (.fsqrt x0 x1 x2) := fun _ _ _ w h => by cases h; rw [fOp_formA]; decide
theorem Laws.Encoding.fmin : ∀ x0 x1 x2 x3, Laws.Encoding.Statement (.fmin x0 x1 x2 x3) := fun _ _ _ _ w h => by cases h; rw [fOp_formA]; decide
theorem Laws.Encoding.fmax : ∀ x0 x1 x2 x3, Laws.Encoding.Statement (.fmax x0 x1 x2 x3) := fun _ _ _ _ w h => by cases h; rw [fOp_formA]; decide
theorem Laws.Encoding.feq : ∀ x0 x1 x2 x3, Laws.Encoding.Statement (.feq x0 x1 x2 x3) := fun _ _ _ _ w h => by cases h; rw [fOp_formA]; decide
theorem Laws.Encoding.flt : ∀ x0 x1 x2 x3, Laws.Encoding.Statement (.flt x0 x1 x2 x3) := fun _ _ _ _ w h => by cases h; rw [fOp_formA]; decide
theorem Laws.Encoding.fle : ∀ x0 x1 x2 x3, Laws.Encoding.Statement (.fle x0 x1 x2 x3) := fun _ _ _ _ w h => by cases h; rw [fOp_formA]; decide
theorem Laws.Encoding.fclass : ∀ x0 x1 x2, Laws.Encoding.Statement (.fclass x0 x1 x2) := fun _ _ _ w h => by cases h; rw [fOp_formA]; decide
theorem Laws.Encoding.fcvt : ∀ x0 x1 x2 x3, Laws.Encoding.Statement (.fcvt x0 x1 x2 x3) := fun _ _ _ _ w h => by cases h; rw [fOp_formI]; decide
theorem Laws.Encoding.mfs : ∀ x0 x1, Laws.Encoding.Statement (.mfs x0 x1) := fun _ _ w h => by cases h; rw [fOp_formI]; decide
theorem Laws.Encoding.mts : ∀ x0 x1, Laws.Encoding.Statement (.mts x0 x1) := fun _ _ w h => by cases h; rw [fOp_formI]; decide
theorem Laws.Encoding.mfsp : ∀ x0 x1 x2, Laws.Encoding.Statement (.mfsp x0 x1 x2) := fun _ _ _ w h => by cases h; rw [fOp_formI]; decide
theorem Laws.Encoding.mtsp : ∀ x0 x1 x2, Laws.Encoding.Statement (.mtsp x0 x1 x2) := fun _ _ _ w h => by cases h; rw [fOp_formI]; decide
theorem Laws.Encoding.endh : Laws.Encoding.Statement (.endh) := fun w h => by cases h; rw [fOp_formA]; decide
theorem Laws.Encoding.yield : Laws.Encoding.Statement (.yield) := fun w h => by cases h; rw [fOp_formA]; decide
theorem Laws.Encoding.wfe : Laws.Encoding.Statement (.wfe) := fun w h => by cases h; rw [fOp_formA]; decide
theorem Laws.Encoding.trap : ∀ x0, Laws.Encoding.Statement (.trap x0) := fun _ w h => by cases h; rw [fOp_formA]; decide
theorem Laws.Encoding.eret : Laws.Encoding.Statement (.eret) := fun w h => by cases h; rw [fOp_formA]; decide
theorem Laws.Encoding.kill : ∀ x0, Laws.Encoding.Statement (.kill x0) := fun _ w h => by cases h; rw [fOp_formA]; decide
theorem Laws.Encoding.seal : ∀ x0, Laws.Encoding.Statement (.seal x0) := fun _ w h => by cases h; rw [fOp_formA]; decide
theorem Laws.Encoding.unseal : ∀ x0, Laws.Encoding.Statement (.unseal x0) := fun _ w h => by cases h; rw [fOp_formA]; decide
theorem Laws.Encoding.tlbw : ∀ x0 x1, Laws.Encoding.Statement (.tlbw x0 x1) := fun _ _ w h => by cases h; rw [fOp_formA]; decide
theorem Laws.Encoding.ancfg : ∀ x0 x1, Laws.Encoding.Statement (.ancfg x0 x1) := fun _ _ w h => by cases h; rw [fOp_formA]; decide
theorem Laws.Encoding.anrun : ∀ x0, Laws.Encoding.Statement (.anrun x0) := fun _ w h => by cases h; rw [fOp_formA]; decide
theorem Laws.Encoding.anread : ∀ x0 x1, Laws.Encoding.Statement (.anread x0 x1) := fun _ _ w h => by cases h; rw [fOp_formA]; decide
theorem Laws.Encoding.sleepc : ∀ x0, Laws.Encoding.Statement (.sleepc x0) := fun _ w h => by cases h; rw [fOp_formA]; decide
theorem Laws.Encoding.send : ∀ x0 x1, Laws.Encoding.Statement (.send x0 x1) := fun _ _ w h => by cases h; rw [fOp_formA]; decide
theorem Laws.Encoding.sendr : ∀ x0 x1 x2, Laws.Encoding.Statement (.sendr x0 x1 x2) := fun _ _ _ w h => by cases h; rw [fOp_formA]; decide
theorem Laws.Encoding.noticeResend : ∀ x0 x1 x2 x3, Laws.Encoding.Statement (.noticeResend x0 x1 x2 x3) := fun _ _ _ _ _ h => nomatch h
theorem Laws.Encoding.reply : ∀ x0 x1, Laws.Encoding.Statement (.reply x0 x1) := fun _ _ w h => by cases h; rw [fOp_formA]; decide
theorem Laws.Encoding.vput : ∀ x0 x1, Laws.Encoding.Statement (.vput x0 x1) := fun _ _ w h => by cases h; rw [fOp_formA]; decide
theorem Laws.Encoding.vputr : ∀ x0 x1, Laws.Encoding.Statement (.vputr x0 x1) := fun _ _ w h => by cases h; rw [fOp_formA]; decide
theorem Laws.Encoding.vhold : ∀ x0, Laws.Encoding.Statement (.vhold x0) := fun _ w h => by cases h; rw [fOp_formA]; decide
theorem Laws.Encoding.qput : ∀ x0 x1, Laws.Encoding.Statement (.qput x0 x1) := fun _ _ w h => by cases h; rw [fOp_formA]; decide
theorem Laws.Encoding.qget : ∀ x0 x1, Laws.Encoding.Statement (.qget x0 x1) := fun _ _ w h => by cases h; rw [fOp_formA]; decide
theorem Laws.Encoding.qflush : ∀ x0, Laws.Encoding.Statement (.qflush x0) := fun _ w h => by cases h; rw [fOp_formA]; decide
theorem Laws.Encoding.qcnt : ∀ x0 x1, Laws.Encoding.Statement (.qcnt x0 x1) := fun _ _ w h => by cases h; rw [fOp_formA]; decide
theorem Laws.Encoding.chopen : ∀ x0 x1, Laws.Encoding.Statement (.chopen x0 x1) := fun _ _ w h => by cases h; rw [fOp_formA]; decide
theorem Laws.Encoding.chclose : ∀ x0, Laws.Encoding.Statement (.chclose x0) := fun _ w h => by cases h; rw [fOp_formA]; decide
theorem Laws.Encoding.maskc : ∀ x0, Laws.Encoding.Statement (.maskc x0) := fun _ w h => by cases h; rw [fOp_formA]; decide
theorem Laws.Encoding.unmaskc : ∀ x0, Laws.Encoding.Statement (.unmaskc x0) := fun _ w h => by cases h; rw [fOp_formA]; decide
theorem Laws.Encoding.lname : ∀ x0 x1, Laws.Encoding.Statement (.lname x0 x1) := fun _ _ w h => by cases h; rw [fOp_formA]; decide
theorem Laws.Encoding.pos : ∀ x0, Laws.Encoding.Statement (.pos x0) := fun _ w h => by cases h; rw [fOp_formA]; decide
theorem Laws.Encoding.anchor : Laws.Encoding.Statement (.anchor) := fun w h => by cases h; rw [fOp_formA]; decide
theorem Laws.Encoding.unanch : Laws.Encoding.Statement (.unanch) := fun w h => by cases h; rw [fOp_formA]; decide
theorem Laws.Encoding.bar : ∀ x0, Laws.Encoding.Statement (.bar x0) := fun _ w h => by cases h; rw [fOp_formA]; decide
theorem Laws.Encoding.bara : ∀ x0, Laws.Encoding.Statement (.bara x0) := fun _ w h => by cases h; rw [fOp_formA]; decide
theorem Laws.Encoding.barw : ∀ x0, Laws.Encoding.Statement (.barw x0) := fun _ w h => by cases h; rw [fOp_formA]; decide
theorem Laws.Encoding.sld : ∀ x0 x1, Laws.Encoding.Statement (.sld x0 x1) := fun _ _ w h => by cases h; rw [fOp_formA]; decide
theorem Laws.Encoding.sst : ∀ x0 x1 x2, Laws.Encoding.Statement (.sst x0 x1 x2) := fun _ _ _ w h => by cases h; rw [fOp_formA]; decide
theorem Laws.Encoding.sldv : ∀ x0 x1, Laws.Encoding.Statement (.sldv x0 x1) := fun _ _ w h => by cases h; rw [fOp_formA]; decide
theorem Laws.Encoding.sstv : ∀ x0 x1, Laws.Encoding.Statement (.sstv x0 x1) := fun _ _ w h => by cases h; rw [fOp_formA]; decide
theorem Laws.Encoding.lda : ∀ x0 x1, Laws.Encoding.Statement (.lda x0 x1) := fun _ _ w h => by cases h; rw [fOp_formA]; decide
theorem Laws.Encoding.sstr : ∀ x0 x1 x2, Laws.Encoding.Statement (.sstr x0 x1 x2) := fun _ _ _ w h => by cases h; rw [fOp_formA]; decide
theorem Laws.Encoding.rel : ∀ x0, Laws.Encoding.Statement (.rel x0) := fun _ w h => by cases h; rw [fOp_formA]; decide
theorem Laws.Encoding.acq : ∀ x0 x1, Laws.Encoding.Statement (.acq x0 x1) := fun _ _ w h => by cases h; rw [fOp_formA]; decide
theorem Laws.Encoding.fence : Laws.Encoding.Statement (.fence) := fun w h => by cases h; rw [fOp_formA]; decide
theorem Laws.Encoding.atomAdd : ∀ x0 x1 x2 x3, Laws.Encoding.Statement (.atomAdd x0 x1 x2 x3) := fun _ _ _ _ w h => by cases h; rw [fOp_formA]; decide
theorem Laws.Encoding.atomMin : ∀ x0 x1 x2 x3, Laws.Encoding.Statement (.atomMin x0 x1 x2 x3) := fun _ _ _ _ w h => by cases h; rw [fOp_formA]; decide
theorem Laws.Encoding.atomMax : ∀ x0 x1 x2 x3, Laws.Encoding.Statement (.atomMax x0 x1 x2 x3) := fun _ _ _ _ w h => by cases h; rw [fOp_formA]; decide
theorem Laws.Encoding.atomAnd : ∀ x0 x1 x2 x3, Laws.Encoding.Statement (.atomAnd x0 x1 x2 x3) := fun _ _ _ _ w h => by cases h; rw [fOp_formA]; decide
theorem Laws.Encoding.atomOr : ∀ x0 x1 x2 x3, Laws.Encoding.Statement (.atomOr x0 x1 x2 x3) := fun _ _ _ _ w h => by cases h; rw [fOp_formA]; decide
theorem Laws.Encoding.atomXor : ∀ x0 x1 x2 x3, Laws.Encoding.Statement (.atomXor x0 x1 x2 x3) := fun _ _ _ _ w h => by cases h; rw [fOp_formA]; decide
theorem Laws.Encoding.atomSwap : ∀ x0 x1 x2 x3, Laws.Encoding.Statement (.atomSwap x0 x1 x2 x3) := fun _ _ _ _ w h => by cases h; rw [fOp_formA]; decide
theorem Laws.Encoding.atomCas : ∀ x0 x1 x2 x3, Laws.Encoding.Statement (.atomCas x0 x1 x2 x3) := fun _ _ _ _ w h => by cases h; rw [fOp_formA]; decide
theorem Laws.Encoding.tlblk : ∀ x0, Laws.Encoding.Statement (.tlblk x0) := fun _ w h => by cases h; rw [fOp_formA]; decide
theorem Laws.Encoding.tlbul : ∀ x0, Laws.Encoding.Statement (.tlbul x0) := fun _ w h => by cases h; rw [fOp_formA]; decide
theorem Laws.Encoding.tlbprb : ∀ x0 x1, Laws.Encoding.Statement (.tlbprb x0 x1) := fun _ _ w h => by cases h; rw [fOp_formA]; decide
theorem Laws.Encoding.mstep : ∀ x0 x1 x2 x3 x4, Laws.Encoding.Statement (.mstep x0 x1 x2 x3 x4) := fun _ _ _ _ _ w h => by cases h; rw [fOp_formA]; decide
theorem Laws.Encoding.mcommit : ∀ x0, Laws.Encoding.Statement (.mcommit x0) := fun _ w h => by cases h; rw [fOp_formA]; decide
theorem Laws.Encoding.jwait : ∀ x0, Laws.Encoding.Statement (.jwait x0) := fun _ w h => by cases h; rw [fOp_formA]; decide
theorem Laws.Encoding.jpoll : ∀ x0 x1, Laws.Encoding.Statement (.jpoll x0 x1) := fun _ _ w h => by cases h; rw [fOp_formA]; decide
theorem Laws.Encoding.tcfg : ∀ x0, Laws.Encoding.Statement (.tcfg x0) := fun _ w h => by cases h; rw [fOp_formA]; decide
theorem Laws.Encoding.trel : Laws.Encoding.Statement (.trel) := fun w h => by cases h; rw [fOp_formA]; decide
theorem Laws.Encoding.tzero : ∀ x0, Laws.Encoding.Statement (.tzero x0) := fun _ w h => by cases h; rw [fOp_formA]; decide
theorem Laws.Encoding.dtload : ∀ x0, Laws.Encoding.Statement (.dtload x0) := fun _ w h => by cases h; rw [fOp_formA]; decide
theorem Laws.Encoding.ampush : ∀ x0, Laws.Encoding.Statement (.ampush x0) := fun _ w h => by cases h; rw [fOp_formA]; decide
theorem Laws.Encoding.amscale : ∀ x0 x1 x2, Laws.Encoding.Statement (.amscale x0 x1 x2) := fun _ _ _ w h => by cases h; rw [fOp_formA]; decide
theorem Laws.Encoding.cpy : ∀ x0 x1 x2, Laws.Encoding.Statement (.cpy x0 x1 x2) := fun _ _ _ w h => by cases h; rw [fOp_formA]; decide
theorem Laws.Encoding.cpy2 : ∀ x0 x1 x2, Laws.Encoding.Statement (.cpy2 x0 x1 x2) := fun _ _ _ w h => by cases h; rw [fOp_formA]; decide
theorem Laws.Encoding.coll : ∀ x0 x1 x2, Laws.Encoding.Statement (.coll x0 x1 x2) := fun _ _ _ w h => by cases h; rw [fOp_formA]; decide
theorem Laws.Encoding.vbci : ∀ x0 x1 x2 x3, Laws.Encoding.Statement (.vbci x0 x1 x2 x3) := fun _ _ _ _ w h => by cases h; rw [fOp_formI]; exact .inl (vbci_major _)
theorem Laws.Encoding.vaddF : ∀ x0 x1 x2 x3 x4 x5, Laws.Encoding.Statement (.vaddF x0 x1 x2 x3 x4 x5) := fun _ _ _ _ _ _ w h => by cases h; exact .inr (fOp_formV _ _ _ _ _ _ _)
theorem Laws.Encoding.vaddI : ∀ x0 x1 x2 x3 x4 x5, Laws.Encoding.Statement (.vaddI x0 x1 x2 x3 x4 x5) := fun _ _ _ _ _ _ w h => by cases h; exact .inr (fOp_formV _ _ _ _ _ _ _)
theorem Laws.Encoding.vsubF : ∀ x0 x1 x2 x3 x4 x5, Laws.Encoding.Statement (.vsubF x0 x1 x2 x3 x4 x5) := fun _ _ _ _ _ _ w h => by cases h; exact .inr (fOp_formV _ _ _ _ _ _ _)
theorem Laws.Encoding.vsubI : ∀ x0 x1 x2 x3 x4 x5, Laws.Encoding.Statement (.vsubI x0 x1 x2 x3 x4 x5) := fun _ _ _ _ _ _ w h => by cases h; exact .inr (fOp_formV _ _ _ _ _ _ _)
theorem Laws.Encoding.vmulF : ∀ x0 x1 x2 x3 x4 x5, Laws.Encoding.Statement (.vmulF x0 x1 x2 x3 x4 x5) := fun _ _ _ _ _ _ w h => by cases h; exact .inr (fOp_formV _ _ _ _ _ _ _)
theorem Laws.Encoding.vmulI : ∀ x0 x1 x2 x3 x4 x5, Laws.Encoding.Statement (.vmulI x0 x1 x2 x3 x4 x5) := fun _ _ _ _ _ _ w h => by cases h; exact .inr (fOp_formV _ _ _ _ _ _ _)
theorem Laws.Encoding.vminF : ∀ x0 x1 x2 x3 x4 x5, Laws.Encoding.Statement (.vminF x0 x1 x2 x3 x4 x5) := fun _ _ _ _ _ _ w h => by cases h; exact .inr (fOp_formV _ _ _ _ _ _ _)
theorem Laws.Encoding.vminI : ∀ x0 x1 x2 x3 x4 x5, Laws.Encoding.Statement (.vminI x0 x1 x2 x3 x4 x5) := fun _ _ _ _ _ _ w h => by cases h; exact .inr (fOp_formV _ _ _ _ _ _ _)
theorem Laws.Encoding.vmaxF : ∀ x0 x1 x2 x3 x4 x5, Laws.Encoding.Statement (.vmaxF x0 x1 x2 x3 x4 x5) := fun _ _ _ _ _ _ w h => by cases h; exact .inr (fOp_formV _ _ _ _ _ _ _)
theorem Laws.Encoding.vmaxI : ∀ x0 x1 x2 x3 x4 x5, Laws.Encoding.Statement (.vmaxI x0 x1 x2 x3 x4 x5) := fun _ _ _ _ _ _ w h => by cases h; exact .inr (fOp_formV _ _ _ _ _ _ _)
theorem Laws.Encoding.vabsF : ∀ x0 x1 x2 x3 x4, Laws.Encoding.Statement (.vabsF x0 x1 x2 x3 x4) := fun _ _ _ _ _ w h => by cases h; exact .inr (fOp_formV _ _ _ _ _ _ _)
theorem Laws.Encoding.vabsI : ∀ x0 x1 x2 x3 x4, Laws.Encoding.Statement (.vabsI x0 x1 x2 x3 x4) := fun _ _ _ _ _ w h => by cases h; exact .inr (fOp_formV _ _ _ _ _ _ _)
theorem Laws.Encoding.vnegF : ∀ x0 x1 x2 x3 x4, Laws.Encoding.Statement (.vnegF x0 x1 x2 x3 x4) := fun _ _ _ _ _ w h => by cases h; exact .inr (fOp_formV _ _ _ _ _ _ _)
theorem Laws.Encoding.vnegI : ∀ x0 x1 x2 x3 x4, Laws.Encoding.Statement (.vnegI x0 x1 x2 x3 x4) := fun _ _ _ _ _ w h => by cases h; exact .inr (fOp_formV _ _ _ _ _ _ _)
theorem Laws.Encoding.vceqF : ∀ x0 x1 x2 x3 x4 x5, Laws.Encoding.Statement (.vceqF x0 x1 x2 x3 x4 x5) := fun _ _ _ _ _ _ w h => by cases h; exact .inr (fOp_formV _ _ _ _ _ _ _)
theorem Laws.Encoding.vceqI : ∀ x0 x1 x2 x3 x4 x5, Laws.Encoding.Statement (.vceqI x0 x1 x2 x3 x4 x5) := fun _ _ _ _ _ _ w h => by cases h; exact .inr (fOp_formV _ _ _ _ _ _ _)
theorem Laws.Encoding.vcltF : ∀ x0 x1 x2 x3 x4 x5, Laws.Encoding.Statement (.vcltF x0 x1 x2 x3 x4 x5) := fun _ _ _ _ _ _ w h => by cases h; exact .inr (fOp_formV _ _ _ _ _ _ _)
theorem Laws.Encoding.vcltI : ∀ x0 x1 x2 x3 x4 x5, Laws.Encoding.Statement (.vcltI x0 x1 x2 x3 x4 x5) := fun _ _ _ _ _ _ w h => by cases h; exact .inr (fOp_formV _ _ _ _ _ _ _)
theorem Laws.Encoding.vcleF : ∀ x0 x1 x2 x3 x4 x5, Laws.Encoding.Statement (.vcleF x0 x1 x2 x3 x4 x5) := fun _ _ _ _ _ _ w h => by cases h; exact .inr (fOp_formV _ _ _ _ _ _ _)
theorem Laws.Encoding.vcleI : ∀ x0 x1 x2 x3 x4 x5, Laws.Encoding.Statement (.vcleI x0 x1 x2 x3 x4 x5) := fun _ _ _ _ _ _ w h => by cases h; exact .inr (fOp_formV _ _ _ _ _ _ _)
theorem Laws.Encoding.vrsumF : ∀ x0 x1 x2 x3 x4, Laws.Encoding.Statement (.vrsumF x0 x1 x2 x3 x4) := fun _ _ _ _ _ w h => by cases h; exact .inr (fOp_formV _ _ _ _ _ _ _)
theorem Laws.Encoding.vrsumI : ∀ x0 x1 x2 x3 x4, Laws.Encoding.Statement (.vrsumI x0 x1 x2 x3 x4) := fun _ _ _ _ _ w h => by cases h; exact .inr (fOp_formV _ _ _ _ _ _ _)
theorem Laws.Encoding.vrmaxF : ∀ x0 x1 x2 x3 x4, Laws.Encoding.Statement (.vrmaxF x0 x1 x2 x3 x4) := fun _ _ _ _ _ w h => by cases h; exact .inr (fOp_formV _ _ _ _ _ _ _)
theorem Laws.Encoding.vrmaxI : ∀ x0 x1 x2 x3 x4, Laws.Encoding.Statement (.vrmaxI x0 x1 x2 x3 x4) := fun _ _ _ _ _ w h => by cases h; exact .inr (fOp_formV _ _ _ _ _ _ _)
theorem Laws.Encoding.vrminF : ∀ x0 x1 x2 x3 x4, Laws.Encoding.Statement (.vrminF x0 x1 x2 x3 x4) := fun _ _ _ _ _ w h => by cases h; exact .inr (fOp_formV _ _ _ _ _ _ _)
theorem Laws.Encoding.vrminI : ∀ x0 x1 x2 x3 x4, Laws.Encoding.Statement (.vrminI x0 x1 x2 x3 x4) := fun _ _ _ _ _ w h => by cases h; exact .inr (fOp_formV _ _ _ _ _ _ _)
theorem Laws.Encoding.vfma : ∀ x0 x1 x2 x3 x4 x5, Laws.Encoding.Statement (.vfma x0 x1 x2 x3 x4 x5) := fun _ _ _ _ _ _ w h => by cases h; exact .inr (fOp_formV _ _ _ _ _ _ _)
theorem Laws.Encoding.vfms : ∀ x0 x1 x2 x3 x4 x5, Laws.Encoding.Statement (.vfms x0 x1 x2 x3 x4 x5) := fun _ _ _ _ _ _ w h => by cases h; exact .inr (fOp_formV _ _ _ _ _ _ _)
theorem Laws.Encoding.vfnma : ∀ x0 x1 x2 x3 x4 x5, Laws.Encoding.Statement (.vfnma x0 x1 x2 x3 x4 x5) := fun _ _ _ _ _ _ w h => by cases h; exact .inr (fOp_formV _ _ _ _ _ _ _)
theorem Laws.Encoding.vdiv : ∀ x0 x1 x2 x3 x4 x5, Laws.Encoding.Statement (.vdiv x0 x1 x2 x3 x4 x5) := fun _ _ _ _ _ _ w h => by cases h; exact .inr (fOp_formV _ _ _ _ _ _ _)
theorem Laws.Encoding.vsqrt : ∀ x0 x1 x2 x3 x4, Laws.Encoding.Statement (.vsqrt x0 x1 x2 x3 x4) := fun _ _ _ _ _ w h => by cases h; exact .inr (fOp_formV _ _ _ _ _ _ _)
theorem Laws.Encoding.vshl : ∀ x0 x1 x2 x3 x4 x5, Laws.Encoding.Statement (.vshl x0 x1 x2 x3 x4 x5) := fun _ _ _ _ _ _ w h => by cases h; exact .inr (fOp_formV _ _ _ _ _ _ _)
theorem Laws.Encoding.vshr : ∀ x0 x1 x2 x3 x4 x5, Laws.Encoding.Statement (.vshr x0 x1 x2 x3 x4 x5) := fun _ _ _ _ _ _ w h => by cases h; exact .inr (fOp_formV _ _ _ _ _ _ _)
theorem Laws.Encoding.vsra : ∀ x0 x1 x2 x3 x4 x5, Laws.Encoding.Statement (.vsra x0 x1 x2 x3 x4 x5) := fun _ _ _ _ _ _ w h => by cases h; exact .inr (fOp_formV _ _ _ _ _ _ _)
theorem Laws.Encoding.vand : ∀ x0 x1 x2 x3 x4 x5, Laws.Encoding.Statement (.vand x0 x1 x2 x3 x4 x5) := fun _ _ _ _ _ _ w h => by cases h; exact .inr (fOp_formV _ _ _ _ _ _ _)
theorem Laws.Encoding.vor : ∀ x0 x1 x2 x3 x4 x5, Laws.Encoding.Statement (.vor x0 x1 x2 x3 x4 x5) := fun _ _ _ _ _ _ w h => by cases h; exact .inr (fOp_formV _ _ _ _ _ _ _)
theorem Laws.Encoding.vxor : ∀ x0 x1 x2 x3 x4 x5, Laws.Encoding.Statement (.vxor x0 x1 x2 x3 x4 x5) := fun _ _ _ _ _ _ w h => by cases h; exact .inr (fOp_formV _ _ _ _ _ _ _)
theorem Laws.Encoding.vsel : ∀ x0 x1 x2 x3 x4 x5, Laws.Encoding.Statement (.vsel x0 x1 x2 x3 x4 x5) := fun _ _ _ _ _ _ w h => by cases h; exact .inr (fOp_formV _ _ _ _ _ _ _)
theorem Laws.Encoding.vmov : ∀ x0 x1 x2 x3 x4, Laws.Encoding.Statement (.vmov x0 x1 x2 x3 x4) := fun _ _ _ _ _ w h => by cases h; exact .inr (fOp_formV _ _ _ _ _ _ _)
theorem Laws.Encoding.vbc : ∀ x0 x1 x2 x3, Laws.Encoding.Statement (.vbc x0 x1 x2 x3) := fun _ _ _ _ w h => by cases h; exact .inr (fOp_formV _ _ _ _ _ _ _)
theorem Laws.Encoding.vext : ∀ x0 x1 x2 x3 x4, Laws.Encoding.Statement (.vext x0 x1 x2 x3 x4) := fun _ _ _ _ _ w h => by cases h; exact .inr (fOp_formV _ _ _ _ _ _ _)
theorem Laws.Encoding.vins : ∀ x0 x1 x2 x3 x4, Laws.Encoding.Statement (.vins x0 x1 x2 x3 x4) := fun _ _ _ _ _ w h => by cases h; exact .inr (fOp_formV _ _ _ _ _ _ _)
theorem Laws.Encoding.vpack : ∀ x0 x1 x2 x3 x4 x5, Laws.Encoding.Statement (.vpack x0 x1 x2 x3 x4 x5) := fun _ _ _ _ _ _ w h => by cases h; exact .inr (fOp_formV _ _ _ _ _ _ _)
theorem Laws.Encoding.vunpk : ∀ x0 x1 x2 x3 x4 x5, Laws.Encoding.Statement (.vunpk x0 x1 x2 x3 x4 x5) := fun _ _ _ _ _ _ w h => by cases h; exact .inr (fOp_formV _ _ _ _ _ _ _)
theorem Laws.Encoding.vstq : ∀ x0 x1 x2 x3, Laws.Encoding.Statement (.vstq x0 x1 x2 x3) := fun _ _ _ _ w h => by cases h; exact .inr (fOp_formV _ _ _ _ _ _ _)
theorem Laws.Encoding.vcvt : ∀ x0 x1 x2 x3 x4, Laws.Encoding.Statement (.vcvt x0 x1 x2 x3 x4) := fun _ _ _ _ _ w h => by cases h; exact .inr (fOp_formV _ _ _ _ _ _ _)
theorem Laws.Encoding.vquant : ∀ x0 x1 x2 x3 x4, Laws.Encoding.Statement (.vquant x0 x1 x2 x3 x4) := fun _ _ _ _ _ w h => by cases h; exact .inr (fOp_formV _ _ _ _ _ _ _)
theorem Laws.Encoding.vdeq : ∀ x0 x1 x2 x3 x4, Laws.Encoding.Statement (.vdeq x0 x1 x2 x3 x4) := fun _ _ _ _ _ w h => by cases h; exact .inr (fOp_formV _ _ _ _ _ _ _)
theorem Laws.Encoding.vamax : ∀ x0 x1 x2 x3 x4, Laws.Encoding.Statement (.vamax x0 x1 x2 x3 x4) := fun _ _ _ _ _ w h => by cases h; exact .inr (fOp_formV _ _ _ _ _ _ _)
theorem Laws.Encoding.vfn : ∀ x0 x1 x2 x3 x4 x5, Laws.Encoding.Statement (.vfn x0 x1 x2 x3 x4 x5) := fun _ _ _ _ _ _ w h => by cases h; exact .inr (fOp_formV _ _ _ _ _ _ _)
theorem Laws.Encoding.vlut : ∀ x0 x1 x2 x3 x4 x5, Laws.Encoding.Statement (.vlut x0 x1 x2 x3 x4 x5) := fun _ _ _ _ _ _ w h => by cases h; exact .inr (fOp_formV _ _ _ _ _ _ _)
theorem Laws.Encoding.mand : ∀ x0 x1 x2, Laws.Encoding.Statement (.mand x0 x1 x2) := fun _ _ _ w h => by cases h; exact .inr (fOp_formV _ _ _ _ _ _ _)
theorem Laws.Encoding.mor : ∀ x0 x1 x2, Laws.Encoding.Statement (.mor x0 x1 x2) := fun _ _ _ w h => by cases h; exact .inr (fOp_formV _ _ _ _ _ _ _)
theorem Laws.Encoding.mxor : ∀ x0 x1 x2, Laws.Encoding.Statement (.mxor x0 x1 x2) := fun _ _ _ w h => by cases h; exact .inr (fOp_formV _ _ _ _ _ _ _)
theorem Laws.Encoding.mnot : ∀ x0 x1, Laws.Encoding.Statement (.mnot x0 x1) := fun _ _ w h => by cases h; exact .inr (fOp_formV _ _ _ _ _ _ _)
theorem Laws.Encoding.mpopc : ∀ x0 x1, Laws.Encoding.Statement (.mpopc x0 x1) := fun _ _ w h => by cases h; exact .inr (fOp_formV _ _ _ _ _ _ _)
theorem Laws.Encoding.mfrom : ∀ x0 x1, Laws.Encoding.Statement (.mfrom x0 x1) := fun _ _ w h => by cases h; exact .inr (fOp_formV _ _ _ _ _ _ _)
theorem Laws.Encoding.mto : ∀ x0 x1, Laws.Encoding.Statement (.mto x0 x1) := fun _ _ w h => by cases h; exact .inr (fOp_formV _ _ _ _ _ _ _)
theorem Laws.Encoding.reservedInstruction : ∀ x0, Laws.Encoding.Statement (.reservedInstruction x0) := fun _ _ h => nomatch h
theorem Laws.Encoding.instructionAddressTrap : Laws.Encoding.Statement (.instructionAddressTrap) := fun _ h => nomatch h
theorem Laws.Encoding.moduleReset : Laws.Encoding.Statement (.moduleReset) := fun _ h => nomatch h
theorem Laws.Encoding.kernelReplacement : ∀ x0, Laws.Encoding.Statement (.kernelReplacement x0) := fun _ _ h => nomatch h
theorem Laws.Encoding.hotPatch : ∀ x0 x1 x2, Laws.Encoding.Statement (.hotPatch x0 x1 x2) := fun _ _ _ _ h => nomatch h
theorem Laws.Encoding.partitionConfig : ∀ x0 x1, Laws.Encoding.Statement (.partitionConfig x0 x1) := fun _ _ _ h => nomatch h
theorem Laws.Encoding.notifyWrite : ∀ x0 x1, Laws.Encoding.Statement (.notifyWrite x0 x1) := fun _ _ _ h => nomatch h
theorem Laws.Encoding.apertureWake : ∀ x0, Laws.Encoding.Statement (.apertureWake x0) := fun _ _ h => nomatch h
theorem Laws.Encoding.launchPacket : ∀ x0, Laws.Encoding.Statement (.launchPacket x0) := fun _ _ h => nomatch h
theorem Laws.Encoding.hostBar2Access : ∀ x0 x1 x2, Laws.Encoding.Statement (.hostBar2Access x0 x1 x2) := fun _ _ _ _ h => nomatch h
theorem Laws.Encoding.admission : ∀ x0, Laws.Encoding.Statement (.admission x0) := fun _ _ h => nomatch h
theorem Laws.Encoding.oversubscriptionPark : ∀ x0, Laws.Encoding.Statement (.oversubscriptionPark x0) := fun _ _ h => nomatch h
theorem Laws.Encoding.placeUnplaced : ∀ x0, Laws.Encoding.Statement (.placeUnplaced x0) := fun _ _ h => nomatch h
theorem Laws.Encoding.handlerStart : ∀ x0, Laws.Encoding.Statement (.handlerStart x0) := fun _ _ h => nomatch h
theorem Laws.Encoding.injection : ∀ x0, Laws.Encoding.Statement (.injection x0) := fun _ _ h => nomatch h
theorem Laws.Encoding.streamInjection : ∀ x0, Laws.Encoding.Statement (.streamInjection x0) := fun _ _ h => nomatch h
theorem Laws.Encoding.messageArrival : ∀ x0, Laws.Encoding.Statement (.messageArrival x0) := fun _ _ h => nomatch h
theorem Laws.Encoding.reinjection : ∀ x0, Laws.Encoding.Statement (.reinjection x0) := fun _ _ h => nomatch h
theorem Laws.Encoding.acceptanceArrival : ∀ x0, Laws.Encoding.Statement (.acceptanceArrival x0) := fun _ _ h => nomatch h
theorem Laws.Encoding.noticeArrival : ∀ x0, Laws.Encoding.Statement (.noticeArrival x0) := fun _ _ h => nomatch h
theorem Laws.Encoding.noticeWrite : ∀ x0, Laws.Encoding.Statement (.noticeWrite x0) := fun _ _ h => nomatch h
theorem Laws.Encoding.replyArrival : ∀ x0, Laws.Encoding.Statement (.replyArrival x0) := fun _ _ h => nomatch h
theorem Laws.Encoding.registerWriteArrival : ∀ x0, Laws.Encoding.Statement (.registerWriteArrival x0) := fun _ _ h => nomatch h
theorem Laws.Encoding.deferredFill : ∀ x0, Laws.Encoding.Statement (.deferredFill x0) := fun _ _ h => nomatch h
theorem Laws.Encoding.streamArrival : ∀ x0, Laws.Encoding.Statement (.streamArrival x0) := fun _ _ h => nomatch h
theorem Laws.Encoding.creditReturn : ∀ x0, Laws.Encoding.Statement (.creditReturn x0) := fun _ _ h => nomatch h
theorem Laws.Encoding.nameCacheUpdate : ∀ x0, Laws.Encoding.Statement (.nameCacheUpdate x0) := fun _ _ h => nomatch h
theorem Laws.Encoding.directoryArrival : ∀ x0, Laws.Encoding.Statement (.directoryArrival x0) := fun _ _ h => nomatch h
theorem Laws.Encoding.directoryUpdate : ∀ x0, Laws.Encoding.Statement (.directoryUpdate x0) := fun _ _ h => nomatch h
theorem Laws.Encoding.sumpArrival : ∀ x0, Laws.Encoding.Statement (.sumpArrival x0) := fun _ _ h => nomatch h
theorem Laws.Encoding.sweepStart : Laws.Encoding.Statement (.sweepStart) := fun _ h => nomatch h
theorem Laws.Encoding.sweepResult : ∀ x0, Laws.Encoding.Statement (.sweepResult x0) := fun _ _ h => nomatch h
theorem Laws.Encoding.roundInstant : Laws.Encoding.Statement (.roundInstant) := fun _ h => nomatch h
theorem Laws.Encoding.weightUpdateArrival : ∀ x0, Laws.Encoding.Statement (.weightUpdateArrival x0) := fun _ _ h => nomatch h
theorem Laws.Encoding.phaseStart : Laws.Encoding.Statement (.phaseStart) := fun _ h => nomatch h
theorem Laws.Encoding.pairDecision : ∀ x0, Laws.Encoding.Statement (.pairDecision x0) := fun _ _ h => nomatch h
theorem Laws.Encoding.swapFreezeEnd : Laws.Encoding.Statement (.swapFreezeEnd) := fun _ h => nomatch h
theorem Laws.Encoding.swapDrainEnd : Laws.Encoding.Statement (.swapDrainEnd) := fun _ h => nomatch h
theorem Laws.Encoding.swapInstall : Laws.Encoding.Statement (.swapInstall) := fun _ h => nomatch h
theorem Laws.Encoding.swapResume : Laws.Encoding.Statement (.swapResume) := fun _ h => nomatch h
theorem Laws.Encoding.swapAbort : Laws.Encoding.Statement (.swapAbort) := fun _ h => nomatch h
theorem Laws.Encoding.positionUpdateArrival : ∀ x0, Laws.Encoding.Statement (.positionUpdateArrival x0) := fun _ _ h => nomatch h
theorem Laws.Encoding.forwardPointerExpiry : ∀ x0, Laws.Encoding.Statement (.forwardPointerExpiry x0) := fun _ _ h => nomatch h
theorem Laws.Encoding.roundEnd : Laws.Encoding.Statement (.roundEnd) := fun _ h => nomatch h
theorem Laws.Encoding.commitEnd : Laws.Encoding.Statement (.commitEnd) := fun _ h => nomatch h
theorem Laws.Encoding.tlbMissReply : Laws.Encoding.Statement (.tlbMissReply) := fun _ h => nomatch h
theorem Laws.Encoding.loadReply : ∀ x0, Laws.Encoding.Statement (.loadReply x0) := fun _ _ h => nomatch h
theorem Laws.Encoding.viewCacheFill : ∀ x0, Laws.Encoding.Statement (.viewCacheFill x0) := fun _ _ h => nomatch h
theorem Laws.Encoding.logPumpSend : Laws.Encoding.Statement (.logPumpSend) := fun _ h => nomatch h
theorem Laws.Encoding.recordApply : ∀ x0, Laws.Encoding.Statement (.recordApply x0) := fun _ _ h => nomatch h
theorem Laws.Encoding.recordAck : ∀ x0, Laws.Encoding.Statement (.recordAck x0) := fun _ _ h => nomatch h
theorem Laws.Encoding.egressAck : ∀ x0, Laws.Encoding.Statement (.egressAck x0) := fun _ _ h => nomatch h
theorem Laws.Encoding.logRefill : Laws.Encoding.Statement (.logRefill) := fun _ h => nomatch h
theorem Laws.Encoding.atomicExecute : ∀ x0, Laws.Encoding.Statement (.atomicExecute x0) := fun _ _ h => nomatch h
theorem Laws.Encoding.atomicReturn : ∀ x0, Laws.Encoding.Statement (.atomicReturn x0) := fun _ _ h => nomatch h
theorem Laws.Encoding.jobStart : ∀ x0, Laws.Encoding.Statement (.jobStart x0) := fun _ _ h => nomatch h
theorem Laws.Encoding.jobComplete : ∀ x0, Laws.Encoding.Statement (.jobComplete x0) := fun _ _ h => nomatch h
theorem Laws.Encoding.copyWordWrite : Laws.Encoding.Statement (.copyWordWrite) := fun _ h => nomatch h
theorem Laws.Encoding.collChildArrival : ∀ x0, Laws.Encoding.Statement (.collChildArrival x0) := fun _ _ h => nomatch h
theorem Laws.Encoding.trapActivationStart : Laws.Encoding.Statement (.trapActivationStart) := fun _ h => nomatch h
theorem Laws.Encoding.asyncErrorReturn : ∀ x0, Laws.Encoding.Statement (.asyncErrorReturn x0) := fun _ _ h => nomatch h
theorem Laws.Encoding.groupKill : ∀ x0 x1, Laws.Encoding.Statement (.groupKill x0 x1) := fun _ _ _ h => nomatch h
theorem Laws.Encoding.sealConfirmation : ∀ x0, Laws.Encoding.Statement (.sealConfirmation x0) := fun _ _ h => nomatch h
theorem Laws.Encoding.killRestart : ∀ x0, Laws.Encoding.Statement (.killRestart x0) := fun _ _ h => nomatch h
theorem Laws.Encoding.twinHashArrival : ∀ x0, Laws.Encoding.Statement (.twinHashArrival x0) := fun _ _ h => nomatch h
theorem Laws.Encoding.twinHashTimeout : Laws.Encoding.Statement (.twinHashTimeout) := fun _ h => nomatch h
theorem Laws.Encoding.correctedError : Laws.Encoding.Statement (.correctedError) := fun _ h => nomatch h
theorem Laws.Encoding.uncorrectableError : ∀ x0 x1, Laws.Encoding.Statement (.uncorrectableError x0 x1) := fun _ _ _ h => nomatch h
theorem Laws.Encoding.flitCrcRetry : Laws.Encoding.Statement (.flitCrcRetry) := fun _ h => nomatch h
theorem Laws.Encoding.headerCheckStomp : ∀ x0, Laws.Encoding.Statement (.headerCheckStomp x0) := fun _ _ h => nomatch h
theorem Laws.Encoding.preemptionRequest : ∀ x0, Laws.Encoding.Statement (.preemptionRequest x0) := fun _ _ h => nomatch h
theorem Laws.Encoding.preemptionStart : Laws.Encoding.Statement (.preemptionStart) := fun _ h => nomatch h
theorem Laws.Encoding.resumption : ∀ x0 x1, Laws.Encoding.Statement (.resumption x0 x1) := fun _ _ _ h => nomatch h
theorem Laws.Encoding.sliceInstant : Laws.Encoding.Statement (.sliceInstant) := fun _ h => nomatch h
theorem Laws.Encoding.sliceChange : Laws.Encoding.Statement (.sliceChange) := fun _ h => nomatch h
theorem Laws.Encoding.ptpMessage : ∀ x0, Laws.Encoding.Statement (.ptpMessage x0) := fun _ _ h => nomatch h
theorem Laws.Encoding.sleepcWake : Laws.Encoding.Statement (.sleepcWake) := fun _ h => nomatch h
theorem Laws.Encoding.fabricFlitArrival : ∀ x0 x1, Laws.Encoding.Statement (.fabricFlitArrival x0 x1) := fun _ _ _ h => nomatch h
theorem Laws.Encoding.fabricEmptyFlit : ∀ x0, Laws.Encoding.Statement (.fabricEmptyFlit x0) := fun _ _ h => nomatch h
theorem Laws.Encoding.fabricLinkFailed : ∀ x0, Laws.Encoding.Statement (.fabricLinkFailed x0) := fun _ _ h => nomatch h
theorem Laws.Encoding.fabricUnreachable : ∀ x0, Laws.Encoding.Statement (.fabricUnreachable x0) := fun _ _ h => nomatch h
theorem Laws.Encoding.podCollectivePacket : ∀ x0, Laws.Encoding.Statement (.podCollectivePacket x0) := fun _ _ h => nomatch h
theorem Laws.Encoding.chunkArrival : ∀ x0, Laws.Encoding.Statement (.chunkArrival x0) := fun _ _ h => nomatch h
theorem Laws.Encoding.chunkAck : ∀ x0, Laws.Encoding.Statement (.chunkAck x0) := fun _ _ h => nomatch h
theorem Laws.Encoding.edgeSilenceTimeout : ∀ x0, Laws.Encoding.Statement (.edgeSilenceTimeout x0) := fun _ _ h => nomatch h
theorem Laws.Encoding.slackMeasurement : ∀ x0 x1, Laws.Encoding.Statement (.slackMeasurement x0 x1) := fun _ _ _ h => nomatch h
theorem Laws.Encoding.evacuationTimeout : Laws.Encoding.Statement (.evacuationTimeout) := fun _ h => nomatch h
theorem Laws.Encoding.counterSnapshot : Laws.Encoding.Statement (.counterSnapshot) := fun _ h => nomatch h
theorem Laws.Encoding.cntTailWrite : ∀ x0, Laws.Encoding.Statement (.cntTailWrite x0) := fun _ _ h => nomatch h
theorem Laws.Encoding.counterRegisterWrite : ∀ x0 x1, Laws.Encoding.Statement (.counterRegisterWrite x0 x1) := fun _ _ _ h => nomatch h
theorem Laws.Encoding.barrierCompletion : ∀ x0, Laws.Encoding.Statement (.barrierCompletion x0) := fun _ _ h => nomatch h
theorem Laws.Encoding.launchQueueCreate : ∀ x0 x1 x2 x3, Laws.Encoding.Statement (.launchQueueCreate x0 x1 x2 x3) := fun _ _ _ _ _ h => nomatch h
theorem Laws.Encoding.gangScheduleWrite : ∀ x0 x1 x2, Laws.Encoding.Statement (.gangScheduleWrite x0 x1 x2) := fun _ _ _ _ h => nomatch h
theorem Laws.Encoding.apertureGate : ∀ x0, Laws.Encoding.Statement (.apertureGate x0) := fun _ _ h => nomatch h

end Sys2Proof
end

