-- ==== Sys2Proof/Tests/Slice0.lean ====
section
/-! SUPPORT. Tests: well-formedness, decoding by words written out from the encodings of the spec, single steps, and for each
statement with hypotheses a state and operands that meet them. -/

-- one test after another, so that the threads of a compile stay few
set_option Elab.async false

open Sys2Proof
open Sys2Proof.Machine
open Sys2Proof.Frame

/-! ## Helpers -/

namespace Sys2Proof.Tests


/-- The outcome is a next state with a property. -/
def after (r : Result) (p : State → Bool) : Bool := match r with | .next t => p t | .fault _ => false | .refused _ => false
/-- A word decodes to an instruction. -/
def reads (w : IWord) (i : Instr) : Bool := match decode w with | .ok j => decide (j = i) | .error _ => false
/-- A word is refused for a reason. -/
def rejects (w : IWord) (r : Reason) : Bool := match decode w with | .ok _ => false | .error e => decide (e = .reserved r)
/-- A group runs slot 0 on the core (4, 0), with a code image of one word. -/
def base : State := State.reset.placeWord 0
def grpSet (f : Group → Group) (s : State) : State := s.mapGrp f
def reg (r : GReg) (v : Word) (s : State) : State := s.setG r v
/-- The issuing slot is k, which is active. -/
def inSlot (k : SlotId) (s : State) : State := { s.mapSlotOf k (fun sl => { sl with active := true }) with k := k }
/-- Bytes in the group's well. -/
def well (a : Nat) (bs : List Byte) (s : State) : State := s.mapGrp fun g => { g with well := g.well.writeN a bs }
/-- The handler entry of a type: enabled, with a slot class, at a word address (R24). -/
def handler (t cls pc : Nat) (s : State) : State := well (0x400 + 4 * t) (leBytes 4 (2 ^ 31 + cls * 2 ^ 29 + pc)) s
/-- A page of 4 KiB at a virtual address, with its leaf (R246). -/
def page (b : Nat) (leaf : Word) (s : State) : State := s.mapCore fun c => { c with tlb := ⟨⟨b, 12⟩, leaf, false⟩ :: c.tlb }
def row (v : VReg) (x : Row) (s : State) : State := s.mapGrp (·.setRow v x)
/-- A page in main memory that can be read and written. -/
def mainPage (b : Nat) (s : State) : State := page b (makeLeaf (0x1000000000 + b % 2 ^ 36) 12) s
/-- An outstanding load of slot 0 into g1. -/
def load : LoadTag :=
  { tag := 0, slot := 0, dest := .g 1, vaddr := 0, bytes := [], phys := [], asked := [], lines := [], acquires := false, bound := 0, atomic := false,
    seq := 0, data := none, stale := [] }
/-- A system activation in slot 3 (R358). -/
def system (s : State) : State := inSlot 3 (s.mapGrp fun g => { g with sysact := true })
def chan (c : BitVec 6) (v : Chan) (s : State) : State := s.mapGrp (·.setChan c v)
def msg (cls : BitVec 3) (m : BitVec 8) : Msg := { (Msg.plain base.grp.name 0x500 m cls []) with rslot := 0xFF }
/-- Traffic in flight, first in the list. -/
def flying (p : Packet) (s : State) : State := { s with net := p :: s.net }
def packet (b : Traffic) (pl : Place) : Packet := { place := pl, id := 1, source := { x := 9, y := 9 }, body := b }
def here : Coord := firstCore

end Sys2Proof.Tests

open Sys2Proof.Tests

/-! ## Well-formed terms -/

/-- An ill-formed term for each check, which the check refuses. -/
theorem test_ill_formed_terms : (List.all
    [Instr.fcvt .l .lu 1 2, .fcvt .f16 .f16 1 2, .vcvt .f16 .f16 1 2 0, .vcvt .d8 .f32 1 2 0, .vcvt .f32 .d8 1 2 0,
     .vpack .w32 1 2 3 0 0, .vunpk .w8 1 2 0 0 0, .pairDecision { x := 832, y := 0 }, .resumption 0 { x := 0, y := 800 },
     .slackMeasurement { x := 832, y := 0 } 0, .handlerStart 3, .handlerStart 0, .fabricFlitArrival 48 0, .fabricFlitArrival 0 8,
     .fabricEmptyFlit 48, .fabricLinkFailed 48, .launchQueueCreate 1 0 17 ⟨false, 0, 0⟩, .gangScheduleWrite 0 999999 1,
     .gangScheduleWrite 0 1500000 1, .gangScheduleWrite 0 11000000000 1, .gangScheduleWrite 0 1000000 65, .gangScheduleWrite 0 1000000 0]
    fun (i : Instr) => i.wellFormed == false) = true := by decide +kernel
theorem test_well_formed_terms : (List.all
    [Instr.fcvt .f32 .l 1 2, .vcvt .i16 .f32 1 2 0, .vpack .w16 1 2 3 0 0, .vunpk .w32 1 2 2 0 0, .pairDecision { x := 831, y := 799 },
     .resumption 0 { x := 0, y := 0 }, .slackMeasurement { x := 831, y := 799 } (-1), .handlerStart 1, .fabricFlitArrival 47 7, .fabricEmptyFlit 47,
     .fabricLinkFailed 0, .launchQueueCreate 1 0 16 ⟨true, 0, 0⟩, .gangScheduleWrite 0 10000000000 64, .add 0 0 0]
    fun (i : Instr) => i.wellFormed) = true := by decide +kernel

/-! ## Decoding -/

/-- R78 to R90 and the table: words of every instruction of the family, field by field. -/
theorem test_decode_integer_registers :
    (List.all [
      (0b000000_00011_01010_10001_00000000000#32, Instr.add 3 10 17),
      (0b000000_01000_01111_10110_00000000001#32, Instr.sub 8 15 22),
      (0b000000_01101_10100_11011_00000000010#32, Instr.and 13 20 27),
      (0b000000_10010_11001_00001_00000000011#32, Instr.or 18 25 1),
      (0b000000_10111_11110_00101_00000000100#32, Instr.xor 23 30 5),
      (0b000000_11100_00011_01010_00000000101#32, Instr.andn 28 3 10),
      (0b000000_00001_01000_01111_00000000110#32, Instr.orn 1 8 15),
      (0b000000_00110_01101_10100_00000001000#32, Instr.sll 6 13 20),
      (0b000000_01011_10010_11001_00000001001#32, Instr.srl 11 18 25),
      (0b000000_10000_10111_11110_00000001010#32, Instr.sra 16 23 30),
      (0b000000_10101_11100_00011_00000001011#32, Instr.rol 21 28 3),
      (0b000000_11010_00001_01000_00000001100#32, Instr.ror 26 1 8),
      (0b000000_11111_00110_01101_00000010000#32, Instr.mul 31 6 13),
      (0b000000_00100_01011_10010_00000010001#32, Instr.mulh 4 11 18),
      (0b000000_01001_10000_10111_00000010010#32, Instr.mulhu 9 16 23),
      (0b000000_01110_10101_11100_00000010100#32, Instr.div 14 21 28),
      (0b000000_10011_11010_00001_00000010101#32, Instr.divu 19 26 1),
      (0b000000_11000_11111_00110_00000010110#32, Instr.rem 24 31 6),
      (0b000000_11101_00100_01011_00000010111#32, Instr.remu 29 4 11),
      (0b000000_00010_01001_10000_00000011000#32, Instr.min 2 9 16),
      (0b000000_00111_01110_10101_00000011001#32, Instr.max 7 14 21),
      (0b000000_01100_10011_11010_00000011010#32, Instr.minu 12 19 26),
      (0b000000_10001_11000_11111_00000011011#32, Instr.maxu 17 24 31),
      (0b000000_10110_11101_00100_00000011100#32, Instr.slt 22 29 4),
      (0b000000_11011_00010_01001_00000011101#32, Instr.sltu 27 2 9),
      (0b000000_00001_00111_01110_00000011110#32, Instr.seq 1 7 14),
      (0b000000_00101_01100_10011_00000011111#32, Instr.sne 5 12 19),
      (0b000000_01010_10001_11000_00000100000#32, Instr.movz 10 17 24),
      (0b000000_01111_10110_11101_00000100001#32, Instr.movnz 15 22 29),
      (0b000000_10100_11011_0000000000101000#32, Instr.clz 20 27),
      (0b000000_11001_00001_0000000000101001#32, Instr.ctz 25 1),
      (0b000000_11110_00101_0000000000101010#32, Instr.popc 30 5),
      (0b000000_00011_01010_0000000000101011#32, Instr.brev 3 10),
      (0b000000_01000_01111_0000000000101100#32, Instr.bswap 8 15),
      (0b000000_01101_10100_0000000000101101#32, Instr.sxb 13 20),
      (0b000000_10010_11001_0000000000101110#32, Instr.sxh 18 25),
      (0b000000_10111_11110_0000000000101111#32, Instr.sxw 23 30),
      (0b000000_11100_00011_0000000000110000#32, Instr.zxw 28 3)]
      fun (x : IWord × Instr) => reads x.1 x.2) = true := by decide +kernel

/-- R78 to R90 and the table: words of every instruction of the family, field by field. -/
theorem test_decode_immediates :
    (List.all [
      (0b000001_00001_01000_1111110010001111#32, Instr.addi 1 8 64655),
      (0b000010_00110_01101_0000010100110110#32, Instr.andi 6 13 1334),
      (0b000011_01011_10010_0000110111011110#32, Instr.ori 11 18 3550),
      (0b000100_10000_10111_0001011010000110#32, Instr.xori 16 23 5766),
      (0b000101_10101_11100_0001111100101101#32, Instr.slti 21 28 7981),
      (0b000110_11010_00001_0010011111010101#32, Instr.sltiu 26 1 10197),
      (0b000111_11111_00000_0110110000001000#32, Instr.lih 31 27656),
      (0b001000_00100_01011_0000000000_110010#32, Instr.slli 4 11 50),
      (0b001001_01001_10000_0000000000_110111#32, Instr.srli 9 16 55),
      (0b001010_01110_10101_0000000000_111100#32, Instr.srai 14 21 60),
      (0b001011_10011_11010_0000000000_000001#32, Instr.rori 19 26 1)]
      fun (x : IWord × Instr) => reads x.1 x.2) = true := by decide +kernel

/-- R78 to R90 and the table: words of every instruction of the family, field by field. -/
theorem test_decode_control_flow :
    (List.all [
      (0b001100_11000_11111_0101101111000011#32, Instr.beq 24 31 23491),
      (0b001101_11101_00100_0110010001101011#32, Instr.bne 29 4 25707),
      (0b001110_00010_01001_0110110100010011#32, Instr.blt 2 9 27923),
      (0b001111_00111_01110_0111010110111010#32, Instr.bge 7 14 30138),
      (0b010000_01100_10011_0111111001100010#32, Instr.bltu 12 19 32354),
      (0b010001_10001_11000_1000011100001010#32, Instr.bgeu 17 24 34570),
      (0b010010_10000100010000011011000111#32, Instr.jal 34670279),
      (0b010011_11011_00010_1001100001011001#32, Instr.jalr 27 2 39001),
      (0b010100_00000_00001_00000_10010001011#32, Instr.loop 1 1163),
      (0b010101_010000010111110_10100110011#32, Instr.loopi 8382 1331)]
      fun (x : IWord × Instr) => reads x.1 x.2) = true := by decide +kernel

/-- R78 to R90 and the table: words of every instruction of the family, field by field. -/
theorem test_decode_local_memory :
    (List.all [
      (0b010110_01010_10001_1011001001010000#32, Instr.ldb 10 17 45648),
      (0b010111_01111_10110_1011101011111000#32, Instr.ldbu 15 22 47864),
      (0b011000_10100_11011_1100001110011111#32, Instr.ldh 20 27 50079),
      (0b011001_11001_00001_1100110001000111#32, Instr.ldhu 25 1 52295),
      (0b011010_11110_00101_1101010011101111#32, Instr.ldw 30 5 54511),
      (0b011011_00011_01010_1101110110010110#32, Instr.ldwu 3 10 56726),
      (0b011100_01000_01111_1110011000111110#32, Instr.ldd 8 15 58942),
      (0b011101_01101_10100_1110111011100110#32, Instr.stb 13 20 61158),
      (0b011110_10010_11001_1111011110001101#32, Instr.sth 18 25 63373),
      (0b011111_10111_11110_0000000000110101#32, Instr.stw 23 30 53),
      (0b100000_11100_00011_0000100011011101#32, Instr.std 28 3 2269),
      (0b100001_00001_01000_0001000110000100#32, Instr.ldv 1 8 4484),
      (0b100010_00110_01101_0001101000101100#32, Instr.stv 6 13 6700),
      (0b100011_10010_11001_00001_000_01_000000#32, Instr.ldvs .w16 18 25 1),
      (0b100011_10111_11110_00101_000_10_000001#32, Instr.stvs .w8 23 30 5),
      (0b100011_10101_11100_0000000000001000#32, Instr.ldf 21 28),
      (0b100011_11010_00001_0000000000001001#32, Instr.ldfk 26 1),
      (0b100011_00000_11111_00110_00000001010#32, Instr.ste 31 6),
      (0b100011_00000_00100_0000000000001011#32, Instr.setf 4),
      (0b100011_00000_01001_0000000000001100#32, Instr.sete 9),
      (0b100011_01110_10101_0000000000001101#32, Instr.tstf 14 21)]
      fun (x : IWord × Instr) => reads x.1 x.2) = true := by decide +kernel

/-- R78 to R90 and the table: words of every instruction of the family, field by field. -/
theorem test_decode_scalar_floating_point :
    (List.all [
      (0b100100_11010_00001_01000_00000_00_0000#32, Instr.fadd .f32 26 1 8),
      (0b100100_11111_00110_01101_00000_01_0001#32, Instr.fsub .f16 31 6 13),
      (0b100100_00100_01011_10010_00000_10_0010#32, Instr.fmul .b16 4 11 18),
      (0b100100_01001_10000_10111_11110_00_0011#32, Instr.ffma .f32 9 16 23 30),
      (0b100100_01110_10101_11100_00000_01_0100#32, Instr.fdiv .f16 14 21 28),
      (0b100100_10011_11010_0000000000_10_0101#32, Instr.fsqrt .b16 19 26),
      (0b100100_11000_11111_00110_00000_00_0110#32, Instr.fmin .f32 24 31 6),
      (0b100100_11101_00100_01011_00000_01_0111#32, Instr.fmax .f16 29 4 11),
      (0b100100_00010_01001_10000_00000_10_1000#32, Instr.feq .b16 2 9 16),
      (0b100100_00111_01110_10101_00000_00_1001#32, Instr.flt .f32 7 14 21),
      (0b100100_01100_10011_11010_00000_01_1010#32, Instr.fle .f16 12 19 26),
      (0b100100_10001_11000_0000000000_10_1011#32, Instr.fclass .b16 17 24),
      (0b100100_11101_00100_00000_001_0_011_1100#32, Instr.fcvt .f16 .l 29 4)]
      fun (x : IWord × Instr) => reads x.1 x.2) = true := by decide +kernel

/-- R78 to R90 and the table: words of every instruction of the family, field by field. -/
theorem test_decode_system_registers_and_control :
    (List.all [
      (0b100101_10100_0000000000000_00100000#32, Instr.mfs 20 32),
      (0b100101_00000_11001_01000000_11001000#32, Instr.mts 25 200),
      (0b100101_11110_00000100000_01_11100100#32, Instr.mfsp 30 1 228),
      (0b100101_00000_00011_110000_10_10001100#32, Instr.mtsp 3 2 140),
      (0b100110_00000000000000000000000000#32, Instr.endh),
      (0b100110_00000000000000000000000001#32, Instr.yield),
      (0b100110_00000000000000000000000010#32, Instr.wfe),
      (0b100110_0000000000_10111_00000001000#32, Instr.trap 23),
      (0b100110_00000000000000000000010000#32, Instr.eret),
      (0b100110_00000_00001_0000000000010001#32, Instr.kill 1),
      (0b100110_00000_00110_0000000000010010#32, Instr.seal 6),
      (0b100110_00000_01011_0000000000010011#32, Instr.unseal 11),
      (0b100110_00000_10000_10111_00000010100#32, Instr.tlbw 16 23),
      (0b100110_00000_10101_11100_00000010101#32, Instr.ancfg 21 28),
      (0b100110_00000_11010_0000000000010110#32, Instr.anrun 26),
      (0b100110_11111_00110_0000000000010111#32, Instr.anread 31 6),
      (0b100110_00000_00100_0000000000011000#32, Instr.sleepc 4)]
      fun (x : IWord × Instr) => reads x.1 x.2) = true := by decide +kernel

/-- R78 to R90 and the table: words of every instruction of the family, field by field. -/
theorem test_decode_messages :
    (List.all [
      (0b100111_00000_01001_10000_00000000000#32, Instr.send 9 16),
      (0b100111_01110_10101_11100_00000000001#32, Instr.sendr 14 21 28),
      (0b100111_00000_10011_11010_00000000010#32, Instr.reply 19 26),
      (0b100111_11000_11111_0000000000000100#32, Instr.vput 24 31),
      (0b100111_11101_00100_0000000000000101#32, Instr.vputr 29 4),
      (0b100111_00010_000000000000000000110#32, Instr.vhold 2),
      (0b100111_00111_01110_0000000000001000#32, Instr.qput 7 14),
      (0b100111_01100_10011_0000000000001001#32, Instr.qget 12 19),
      (0b100111_10001_000000000000000001010#32, Instr.qflush 17),
      (0b100111_10110_11101_0000000000001011#32, Instr.qcnt 22 29),
      (0b100111_00000_11011_00010_00000010000#32, Instr.chopen 27 2),
      (0b100111_00000_00001_0000000000010001#32, Instr.chclose 1)]
      fun (x : IWord × Instr) => reads x.1 x.2) = true := by decide +kernel

/-- R78 to R90 and the table: words of every instruction of the family, field by field. -/
theorem test_decode_groups_and_barriers :
    (List.all [
      (0b100111_00000_00101_0000000000010010#32, Instr.maskc 5),
      (0b100111_00000_01010_0000000000010011#32, Instr.unmaskc 10),
      (0b100111_01111_10110_0000000000010100#32, Instr.lname 15 22),
      (0b100111_10100_000000000000000010101#32, Instr.pos 20),
      (0b100111_00000000000000000000010110#32, Instr.anchor),
      (0b100111_00000000000000000000010111#32, Instr.unanch),
      (0b100111_000000000000000_00011_011000#32, Instr.bar 3),
      (0b100111_000000000000000_01000_011001#32, Instr.bara 8),
      (0b100111_000000000000000_01101_011010#32, Instr.barw 13)]
      fun (x : IWord × Instr) => reads x.1 x.2) = true := by decide +kernel

/-- R78 to R90 and the table: words of every instruction of the family, field by field. -/
theorem test_decode_shared_memory :
    (List.all [
      (0b101000_10010_11001_0000000000000000#32, Instr.sld 18 25),
      (0b101000_10111_11110_00101_00000000001#32, Instr.sst 23 30 5),
      (0b101000_11100_00011_0000000000000010#32, Instr.sldv 28 3),
      (0b101000_00001_01000_0000000000000011#32, Instr.sstv 1 8),
      (0b101000_00110_01101_0000000000000100#32, Instr.lda 6 13),
      (0b101000_01011_10010_11001_00000000101#32, Instr.sstr 11 18 25),
      (0b101000_0000000000000000000_0_000110#32, Instr.rel .device),
      (0b101000_00000_10101_11100_00000000111#32, Instr.acq 21 28),
      (0b101000_00000000000000000000001000#32, Instr.fence),
      (0b101000_00110_01101_10100_01_000010000#32, Instr.atomAdd .acq 6 13 20),
      (0b101000_01011_10010_11001_10_001010000#32, Instr.atomMin .rel 11 18 25),
      (0b101000_10000_10111_11110_11_010010000#32, Instr.atomMax .ar 16 23 30),
      (0b101000_10101_11100_00011_00_011010000#32, Instr.atomAnd .none 21 28 3),
      (0b101000_11010_00001_01000_01_100010000#32, Instr.atomOr .acq 26 1 8),
      (0b101000_11111_00110_01101_10_101010000#32, Instr.atomXor .rel 31 6 13),
      (0b101000_00100_01011_10010_11_110010000#32, Instr.atomSwap .ar 4 11 18),
      (0b101000_01001_10000_10111_00_111010000#32, Instr.atomCas .none 9 16 23),
      (0b101000_00000_00111_0000000000011000#32, Instr.tlblk 7),
      (0b101000_00000_01100_0000000000011001#32, Instr.tlbul 12),
      (0b101000_10001_11000_0000000000011010#32, Instr.tlbprb 17 24)]
      fun (x : IWord × Instr) => reads x.1 x.2) = true := by decide +kernel

/-- R78 to R90 and the table: words of every instruction of the family, field by field. -/
theorem test_decode_engines :
    (List.all [
      (0b101001_00100_01011_10010_0_00_00000000#32, Instr.mstep false .all 4 11 18),
      (0b101001_11011_000000000000000000001#32, Instr.mcommit 27),
      (0b101001_00000_00001_0000000000000010#32, Instr.jwait 1),
      (0b101001_00101_01100_0000000000000011#32, Instr.jpoll 5 12),
      (0b101001_000000000000000000_00_000100#32, Instr.tcfg .f32),
      (0b101001_00000000000000000000000101#32, Instr.trel),
      (0b101001_00000_10100_0000000000000110#32, Instr.tzero 20),
      (0b101001_00000_11001_0000000000000111#32, Instr.dtload 25),
      (0b101001_000000000000000000_10_001000#32, Instr.ampush 2),
      (0b101001_01010_00000000000_10_01_001001#32, Instr.amscale .d8 10 1),
      (0b101001_01000_01111_10110_00000001010#32, Instr.cpy 8 15 22),
      (0b101001_01101_10100_11011_00000001011#32, Instr.cpy2 13 20 27),
      (0b101001_10010_11001_00001_00000001100#32, Instr.coll 18 25 1)]
      fun (x : IWord × Instr) => reads x.1 x.2) = true := by decide +kernel

/-- R78 to R90 and the table: words of every instruction of the family, field by field. -/
theorem test_decode_lane_arithmetic :
    (List.all [
      (0b10101_1_11110_101_01_0000001110001100#32, Instr.vbci .e5 30 5 908),
      (0b110000_00_01_00011_01010_10001_001_0001#32, Instr.vaddF .f16 3 10 17 1 1),
      (0b110000_01_10_01000_01111_10110_101_0010#32, Instr.vaddI .i8 8 15 22 5 2),
      (0b110000_10_00_01101_10100_11011_010_0011#32, Instr.vsubF .f32 13 20 27 2 3),
      (0b110000_11_01_10010_11001_00001_111_0100#32, Instr.vsubI .i16 18 25 1 7 4),
      (0b110001_00_10_10111_11110_00101_100_0101#32, Instr.vmulF .b16 23 30 5 4 5),
      (0b110001_01_00_11100_00011_01010_001_0110#32, Instr.vmulI .i32 28 3 10 1 6),
      (0b110001_10_01_00001_01000_01111_110_0111#32, Instr.vminF .f16 1 8 15 6 7),
      (0b110001_11_10_00110_01101_10100_011_1000#32, Instr.vminI .i8 6 13 20 3 8),
      (0b110010_00_00_01011_10010_11001_001_1001#32, Instr.vmaxF .f32 11 18 25 1 9),
      (0b110010_01_01_10000_10111_11110_101_1010#32, Instr.vmaxI .i16 16 23 30 5 10),
      (0b110010_10_10_10101_00000_11100_011_1011#32, Instr.vabsF .b16 21 28 3 11),
      (0b110010_11_00_11010_00000_00001_001_1100#32, Instr.vabsI .i32 26 1 1 12),
      (0b110011_00_01_11111_00000_00110_101_1101#32, Instr.vnegF .f16 31 6 5 13),
      (0b110011_01_10_00100_00000_01011_010_1110#32, Instr.vnegI .i8 4 11 2 14)]
      fun (x : IWord × Instr) => reads x.1 x.2) = true := by decide +kernel

/-- R78 to R90 and the table: words of every instruction of the family, field by field. -/
theorem test_decode_compares_and_reductions :
    (List.all [
      (0b110011_10_00_00_001_10000_10111_110_1111#32, Instr.vceqF .f32 1 16 23 6 15),
      (0b110011_11_01_00_110_10101_11100_011_0001#32, Instr.vceqI .i16 6 21 28 3 1),
      (0b110100_00_10_00_011_11010_00001_001_0010#32, Instr.vcltF .b16 3 26 1 1 2),
      (0b110100_01_00_00_001_11111_00110_101_0011#32, Instr.vcltI .i32 1 31 6 5 3),
      (0b110100_10_01_00_101_00100_01011_010_0100#32, Instr.vcleF .f16 5 4 11 2 4),
      (0b110100_11_10_00_010_01001_10000_111_0101#32, Instr.vcleI .i8 2 9 16 7 5),
      (0b110101_00_00_00111_00000_01110_101_0110#32, Instr.vrsumF .f32 7 14 5 6),
      (0b110101_01_01_01100_00000_10011_010_0111#32, Instr.vrsumI .i16 12 19 2 7),
      (0b110101_10_10_10001_00000_11000_111_1000#32, Instr.vrmaxF .b16 17 24 7 8),
      (0b110101_11_00_10110_00000_11101_100_1001#32, Instr.vrmaxI .i32 22 29 4 9),
      (0b110110_00_01_11011_00000_00010_001_1010#32, Instr.vrminF .f16 27 2 1 10),
      (0b110110_01_10_00001_00000_00111_110_1011#32, Instr.vrminI .i8 1 7 6 11)]
      fun (x : IWord × Instr) => reads x.1 x.2) = true := by decide +kernel

/-- R78 to R90 and the table: words of every instruction of the family, field by field. -/
theorem test_decode_fused_shifts_and_logic :
    (List.all [
      (0b110110_10_00_00101_01100_10011_010_1100#32, Instr.vfma .f32 5 12 19 2 12),
      (0b110110_11_01_01010_10001_11000_111_1101#32, Instr.vfms .f16 10 17 24 7 13),
      (0b110111_00_10_01111_10110_11101_100_1110#32, Instr.vfnma .b16 15 22 29 4 14),
      (0b110111_01_00_10100_11011_00010_001_1111#32, Instr.vdiv .f32 20 27 2 1 15),
      (0b110111_10_01_11001_00000_00001_111_0001#32, Instr.vsqrt .f16 25 1 7 1),
      (0b111000_00_10_11110_00101_01100_011_0010#32, Instr.vshl .i8 30 5 12 3 2),
      (0b111000_01_00_00011_01010_10001_001_0011#32, Instr.vshr .i32 3 10 17 1 3),
      (0b111000_10_01_01000_01111_10110_101_0100#32, Instr.vsra .i16 8 15 22 5 4),
      (0b111000_11_10_01101_10100_11011_010_0101#32, Instr.vand .w8 13 20 27 2 5),
      (0b111001_00_00_10010_11001_00001_111_0110#32, Instr.vor .w32 18 25 1 7 6),
      (0b111001_01_01_10111_11110_00101_100_0111#32, Instr.vxor .w16 23 30 5 4 7)]
      fun (x : IWord × Instr) => reads x.1 x.2) = true := by decide +kernel

/-- R78 to R90 and the table: words of every instruction of the family, field by field. -/
theorem test_decode_moves_and_conversions :
    (List.all [
      (0b111001_10_10_11100_00011_01010_001_1000#32, Instr.vsel .w8 28 3 10 1 8),
      (0b111001_11_00_00001_00000_01000_111_1001#32, Instr.vmov .w32 1 8 7 9),
      (0b111010_00_01_00110_01101_00000_100_0000#32, Instr.vbc .w16 6 13 4),
      (0b111010_01_10_01011_11001_10010_000_1011#32, Instr.vext .w8 11 18 25 11),
      (0b111010_10_00_10000_10111_11110_101_0000#32, Instr.vins .w32 16 23 30 5),
      (0b111010_11_01_10101_11100_00011_010_1101#32, Instr.vpack .w16 21 28 3 2 13),
      (0b111011_00_01_11010_01000_00001_111_1110#32, Instr.vunpk .w16 26 1 8 7 14),
      (0b111011_01_00_11111_00000_00110_000_1111#32, Instr.vstq .w32 31 6 15),
      (0b111011_1000_01011_10010_0_0100_001_0111#32, Instr.vcvt .i32 .e5 11 18 1),
      (0b111011_11_10_10000_10111_000_00_110_0000#32, Instr.vquant .d8 .f32 16 23 6),
      (0b111100_00_00_10101_11100_000_10_011_0000#32, Instr.vdeq .f32 .d8 21 28 3),
      (0b111100_01_01_00000_10011_11010_001_0100#32, Instr.vamax .f16 19 26 1 4),
      (0b111100_10_10_11111_11000_00110_101_0101#32, Instr.vfn .b16 24 31 6 5 5),
      (0b111100_11_00_00100_11101_01011_010_0110#32, Instr.vlut .f32 29 4 11 2 6)]
      fun (x : IWord × Instr) => reads x.1 x.2) = true := by decide +kernel

/-- R78 to R90 and the table: words of every instruction of the family, field by field. -/
theorem test_decode_mask_registers :
    (List.all [
      (0b111110_000000_011_00_010_00_001_0000000#32, Instr.mand 3 2 1),
      (0b111110_010000_001_00_111_00_110_0000000#32, Instr.mor 1 7 6),
      (0b111110_100000_101_00_100_00_011_0000000#32, Instr.mxor 5 4 3),
      (0b111110_110000_010_00_001_000000000000#32, Instr.mnot 2 1),
      (0b111111_0000_01111_00_110_000000000000#32, Instr.mpopc 15 6),
      (0b111111_010000_100_11011_000000000000#32, Instr.mfrom 4 27),
      (0b111111_1000_11001_00_001_000000000000#32, Instr.mto 25 1)]
      fun (x : IWord × Instr) => reads x.1 x.2) = true := by decide +kernel

/-- R91: what makes a word reserved: the majors, an unassigned operation, an unassigned type code, and a nonzero unused field. -/
theorem test_reserved_words :
    (rejects 0b101100_00000000000000000000000000#32 .major && rejects 0b101111_00000000000000000000000001#32 .major &&
     rejects 0b000000_00011_00001_00010_00000_001101#32 .operation && rejects 0b100100_00001_00010_00011_00000_00_1111#32 .operation &&
     rejects 0b11_011111_00_00001_00000_00010_000_0000#32 .operation &&
     rejects 0b100100_00001_00010_00011_00000_11_0000#32 .type && rejects 0b11_000000_11_00010_00011_00100_101_0000#32 .type &&
     rejects 0b000000_00011_00001_00010_00001_000000#32 .field && rejects 0b000111_00011_00001_0000000000000000#32 .field &&
     rejects 0b11_101000_01_00110_01101_00000_100_0001#32 .field && !rejects 0b001000_00100_01011_0000000000_000000#32 .field) = true := by decide +kernel
/-! ## Single steps -/

/-- R95: a sum wraps; R13: a write to g0 is discarded. -/
theorem test_add_wraps :
    (after (exec (.add 3 2 1) (reg 1 5 (reg 2 0xFFFFFFFFFFFFFFFE base))) (fun t => t.getG 3 == 3 && t.slot.pc == 1) &&
     after (exec (.add 0 2 1) (reg 1 5 base)) (fun t => t.getG 0 == 0)) = true := by decide +kernel
/-- R31: division by zero and the one overflow. -/
theorem test_division_corners :
    (after (exec (.div 3 2 1) (reg 2 7 base)) (fun t => t.getG 3 == BitVec.allOnes 64) &&
     after (exec (.rem 3 2 1) (reg 2 0x8000000000000000 (reg 1 0xFFFFFFFFFFFFFFFF base))) (fun t => t.getG 3 == 0)) = true := by decide +kernel
/-- R110: STH at the end of the well's code area and LDH of what it wrote, sign-extended. -/
theorem test_store_then_load :
    after (exec (.sth 2 1 0) (reg 1 0x1000 (reg 2 0x8001 base)))
      (fun s => after (exec (.ldh 3 1 0) s) fun t => t.getG 3 == 0xFFFFFFFFFFFF8001) = true := by decide +kernel
/-- A word placed for the fetch is run by the next step. -/
theorem test_step_runs_the_word_placed :
    after (step (State.reset.withFetchWord 32 0x04200005)) (fun t => (t.grp.slot 0).get 1 == 5 && (t.grp.slot 0).pc == 1) = true := by
  decide +kernel
/-- R95 and R96: a shift by g[b] mod 64 keeps the sign, and a rotation wraps. -/
theorem test_shift_and_rotate :
    (after (exec (.sra 3 2 1) (reg 1 68 (reg 2 0x8000000000000000 base))) (fun t => t.getG 3 == 0xF800000000000000) &&
     after (exec (.rori 3 2 4) (reg 2 0x1F base)) (fun t => t.getG 3 == 0xF000000000000001)) = true := by decide +kernel
/-- R128: 1.0 + 1.0 in every enabled lane of an f32 row; R18: a masked lane keeps its bits. -/
theorem test_vector_add :
    after (exec (.vaddF .f32 3 1 2 1 0) ((row 1 (1065353216 + 1065353216 * 2 ^ 32) (row 2 (1065353216 + 1065353216 * 2 ^ 32) base)).mapGrp
        (·.setMask 1 1))) (fun t => lane 32 (t.grp.row 3) 0 == 0x40000000 && lane 32 (t.grp.row 3) 1 == 0) = true := by decide +kernel
/-- R335: with no trap entry a trap kills the group; with one it starts slot 3 there. -/
theorem test_trap_entry :
    (after (exec (.ldd 1 2 4) base) (fun t => t.grp.ended && t.grp.sealed) &&
     after (exec (.ldd 1 2 4) (handler 0xF1 3 0x77 base)) (fun t => (t.grp.slot 3).active && (t.grp.slot 3).pc == 0x77 &&
       (t.grp.slot 3).get 2 == 5 && (t.grp.slot 3).get 3 == 4 && (t.grp.slot 0).susp && !t.grp.ended)) = true := by decide +kernel
/-- R114: LDF empties the word it reads, and waits at an empty one. -/
theorem test_full_empty :
    after (exec (.ldf 2 1) (reg 1 0x1000 base))
      (fun s => !s.grp.isFull 0x200 && after (exec (.ldf 2 1) s) fun t => t.stalled) = true := by decide +kernel
/-- R276: a store to shared memory is a record of the log, and no byte of memory changes. -/
theorem test_shared_store :
    after (exec (.sst 3 1 2) (mainPage 0x4000 (reg 1 0x4008 (reg 2 0xAB (reg 3 0xFF base)))))
      (fun t => t.grp.log.length == 1 && t.grp.logTail == 1 && t.mem == [] &&
        (t.grp.log.head?.map (·.mask)) == some 0xFF00) = true := by decide +kernel

/-! ## Witnesses: the hypotheses of each statement are met -/

theorem witness_ShiftsAndImmediateOperations :
    (63#16).extractLsb' 6 10 = 0 ∧ (64#16).extractLsb' 6 10 ≠ 0 := by decide
theorem witness_ConditionalMovesAndUnaryOperations :
    base.getG 5 = 0 ∧ (reg 5 0x8000000000000000 base).getG 5 ≠ 0 := by decide +kernel
theorem witness_BranchesAndJumpsTransferControl :
    let s := reg 2 0xFFFFFFFFFFFFFFFF (reg 1 1 base); let x := s.getG 1; let y := s.getG 2
    x ≠ y ∧ s.getG 1 = s.getG 1 ∧ y.toInt < x.toInt ∧ ¬x.toInt < y.toInt ∧ x.toNat < y.toNat ∧ ¬y.toNat ≤ x.toNat ∧
      (Instr.bgeu 2 1 8, y.toNat ≤ x.toNat) ∈ [(Instr.beq 2 1 8, x = y), (.bgeu 2 1 8, y.toNat ≤ x.toNat)] := by
  refine ⟨?_, rfl, ?_, ?_, ?_, ?_, by simp⟩ <;> decide +kernel
/-- A level may open at the greatest count, at the last body that fits, and inside two levels; each check fails alone. -/
theorem witness_LoopsOpenLevelsAndEndWordsCountThem :
    let l : LoopLevel := { count := 2, start := 1, stop := 5 }
    let may (s : State) (n : Nat) (body : BitVec 11) : Bool := decide (body ≠ 0) && decide (s.slot.pc.toNat + body.toNat < 2 ^ 24) && decide (n < 2 ^ 32) &&
      decide (s.slot.levels.length ≠ 3) && match s.slot.levels.getLast? with | some l => decide (s.slot.pc.toNat + body.toNat ≤ l.stop.toNat) | none => true
    let at_ (pc : CodeAddr) (ls : List LoopLevel) : State := base.mapSlot fun sl => { sl with pc := pc, levels := ls }
    may (at_ 0xFFFFFE []) (2 ^ 32 - 1) 1 = true ∧ may (at_ 2 [l, l]) 0 3 = true ∧ may (at_ 2 []) 1 0 = false ∧ may (at_ 0xFFFFFF []) 1 1 = false ∧
      may (at_ 2 []) (2 ^ 32) 1 = false ∧ may (at_ 2 [l, l, l]) 1 1 = false ∧ may (at_ 2 [l]) 1 4 = false ∧
      (at_ 5 [l]).slot.pc = l.stop ∧ 1 < l.count.toNat ∧ (at_ 4 [l]).slot.pc ≠ l.stop ∧ ((1 : BitVec 32)).toNat ≤ 1 := by decide +kernel
theorem witness_ActivationControlCompletes :
    let s := base.mapSlot fun sl => { sl with entry := some 0, latch := true }
    let t := inSlot 3 (base.mapGrp fun g => { g with trapact := true })
    ¬(s.k = 3 ∧ s.grp.trapact = true) ∧ (∀ x ∈ s.core.tags, x.slot ≠ s.k) ∧ s.slot.entry = some 0 ∧ 0 < s.grp.mbox.length ∧ s.slot.latch = true ∧
      t.k = 3 ∧ t.grp.trapact = true ∧ base.slot.latch = false := by decide +kernel
/-- The last address of each width. -/
theorem witness_ScalarLoadsExtendTheBytesTheyRead :
    base.grp.checkLocal false 0xFFFF 1 1 0 = none ∧ base.grp.checkLocal false 0xFFFE 2 2 0 = none ∧
      base.grp.checkLocal false 0xFFFC 4 4 0 = none ∧ base.grp.checkLocal false 0xFFF8 8 8 0 = none ∧
      (reg 1 0x10007 base).localAddr 1 0xFFF1 = 0xFFF8 := by decide +kernel
/-- The first and the last addresses that a store may reach, beside the protected ranges. -/
theorem witness_LocalStoresWriteTheirBytesAndNoOther :
    base.grp.checkLocal true 0x400 1 1 0 = none ∧ base.grp.checkLocal true 0x7FE 2 2 0 = none ∧ base.grp.checkLocal true 0x8A0 4 4 0 = none ∧
      base.grp.checkLocal true 0xFFF8 8 8 0 = none ∧ base.grp.checkLocal true 0x7FC0 128 8 0 = none ∧ base.rowFree 31 = true ∧
      base.grp.lentAt 0x7FC0 128 = false := by decide +kernel
/-- Each check fails first somewhere: beyond the space, misaligned, protected, and each lane check and translation alone. -/
theorem witness_AccessesTrapInTheOrderOfTheChecks :
    let s := reg 1 0xFF81 (reg 2 1 base); let z := page 0x4000 0 base; let r := page 0x4000 0xC000000000004000 base
    0x10000 < (0xFFF9#64).toNat + 8 ∧ (0x1004#64).toNat % 8 ≠ 0 ∧ base.grp.protected true 0x3FF 1 = true ∧
      base.grp.protected true 0x89F 1 = true ∧ base.grp.protected false 0x3FF 1 = false ∧
      (∀ j, j < 127 → s.grp.checkLocal false (s.laneAddr 1 2 j) 1 1 0 = none) ∧
      s.grp.checkLocal false (s.laneAddr 1 2 127) 1 1 (0x7F0000) = some (0x04, 0x7F0000) ∧
      (0x7F0000#64).toNat = (s.laneAddr 1 2 127 % 2 ^ 16).toNat + 127 * 2 ^ 16 ∧
      (0x1000000000000#64).extractLsb' 48 16 ≠ 0 ∧ (0xFFFFFFFFFFF8#64).extractLsb' 48 16 = 0 ∧
      z.core.translate ⟨true, false⟩ 0x4000 8 = .trap 0x08 0x4000 ∧ r.core.translate ⟨false, true⟩ 0x4008 8 = .trap 0x09 0x4008 ∧
      (mainPage 0xFFFFFFFFF000 base).core.translate ⟨true, true⟩ 0xFFFFFFFFFFF8 128 = .trap 0x04 0x1000000000000 ∧
      (0xFF#64).extractLsb' 8 56 = 0 := by decide +kernel
theorem witness_RowAndStridedAccessesMoveLanes :
    let s := reg 1 0x1000 (reg 2 0xFFFFFFFFFFFFFFFC base)
    s.grp.checkLocal false 0xFF80 128 8 0 = none ∧ s.rowFree 0 = true ∧
      (∀ i, i < 32 → s.grp.checkLocal false (s.laneAddr 1 2 i) 4 4 0 = none) ∧
      (∀ i, i < 32 → s.grp.checkLocal true (s.laneAddr 1 2 i) 4 4 0 = none ∧ s.grp.lentAt (s.laneAddr 1 2 i).toNat 4 = false) := by
  decide +kernel
theorem witness_FullEmptyInstructionsTestAndSetTheBit :
    let e := base.mapGrp (Group.setFull 0xFFF false); let w := e.mapSlot fun sl => { sl with progress := .fullEmpty 0xFFF 3 true }
    let l := e.mapGrp fun g => { g with lent := [{ lo := 0x7FF0, hi := 0x8000, jobs := [] }] }
    let a := (inSlot 1 e).mapSlotOf 0 fun sl => { sl with progress := .fullEmpty 0xFFF 3 true }
    0x8000 ≤ (0x8000#64).toNat ∧ ¬0x8000 ≤ (0x7FFC#64).toNat ∧ (0x7FFC#64).toNat % 8 ≠ 0 ∧ (0x3F8#64).toNat % 8 = 0 ∧ base.grp.protected true 0x3F8 8 = true ∧
      w.slot.ticketAt 0xFFF true = some 3 ∧ e.slot.ticketAt 0xFFF true = none ∧ a.behind 0xFFF true = true ∧ l.grp.lentAt 0x7FF8 8 = true ∧
    base.grp.checkWord false 0x7FF8 = none ∧ base.grp.fe.getLsbD 0xFFF = true ∧ base.behind 0xFFF true = false ∧ base.grp.checkWord true 0x7FF8 = none ∧
      e.grp.fe.getLsbD 0xFFF = false ∧ e.behind 0xFFF false = false ∧ e.grp.lentAt 0x7FF8 8 = false := by decide +kernel
theorem witness_ScalarFloatingResultsAndStickyFlags : fcvtAllowed .f32 .lu = true ∧ fcvtAllowed .l .b16 = true := by decide
theorem witness_UserRegistersAreReadAndWritten :
    0x15 ≤ (0x15#8).toNat ∧ (0x1F#8).toNat < 0x20 ∧ (∀ q, (base.grp.queue q).words.length ≤ 32) ∧ ((6#64).extractLsb' 0 4).toNat < 7 ∧ ¬((7#64).extractLsb' 0 4).toNat < 7 ∧
      (8#64).extractLsb' 0 3 = 0 ∧ (7#64).extractLsb' 0 3 ≠ 0 ∧ ((4#64).extractLsb' 0 3).toNat < 5 ∧ ¬((5#64).extractLsb' 0 3).toNat < 5 := by
  decide +kernel
theorem witness_PrivilegedRegistersAreGuardedAndReached :
    let h := inSlot 3 (base.mapGrp fun g => { (g.mapSlot 0 fun sl => { sl with susp := true }) with trapact := true, trapSlot := 0 })
    base.privileged = false ∧ 0x20 ≤ (0x20#8).toNat ∧ h.k = 3 ∧ h.grp.trapact = true ∧ (h.grp.slot h.grp.trapSlot).susp = true ∧ h.grp.trapSlot ≠ 3 ∧
      (0xFFFFFF#64).extractLsb' 24 40 = 0 ∧ (0x1000000#64).extractLsb' 24 40 ≠ 0 ∧ (0x11#8).toNat < 0x12 ∧ 0x12 ≤ (0x12#8).toNat ∧
      (0x14#8).toNat < 0x15 := by decide +kernel
/-- R342: in a trap activation MFSP reads LC0 of the slot that it handles; a trap activation is outside system level, and MTSP to it traps. -/
theorem test_loop_count_of_the_handled_slot :
    let h := inSlot 3 ((handler 0xF1 3 0x77 base).mapGrp fun g =>
      { (g.mapSlot 0 fun sl => { sl with levels := [{ count := 9, start := 1, stop := 5 }] }) with trapact := true, trapSlot := 0 })
    (after (exec (.mfsp 1 3 0x12) h) (fun t => t.getG 1 == 9) && after (exec (.mtsp 1 0 0x12) h) (fun t => t.grp.ended)) = true := by decide +kernel
/-- R118: TRAP has retired at its issue, and an ADD is still in flight. -/
theorem test_trap_retires_at_issue :
    (after (exec (.trap 5) (handler 0xF1 3 0x77 base)) (fun t => t.grp.instret == 1 && t.grp.inFlight == 0) &&
     after (exec (.add 1 2 3) base) (fun t => t.grp.instret == 1 && t.grp.inFlight == 1)) = true := by decide +kernel
/-- A privileged slot below system level and one at it, with values at the limits of the registers of system level. -/
theorem witness_PrivilegedRegistersAreGuardedAndReached_system :
    let h := inSlot 3 (base.mapGrp fun g => { (g.mapSlot 0 fun sl => { sl with susp := true }) with trapact := true, trapSlot := 0 }); let s := system base
    let per (m : Nat) : Bool := (decide (0x21 ≤ m) && decide (m ≤ 0x23)) || (decide (0x40 ≤ m) && decide (m ≤ 0x5F))
    let sys (m : Nat) : Bool := (decide (0x28 ≤ m) && decide (m ≤ 0x2B)) || (decide (0x30 ≤ m) && decide (m ≤ 0x35))
    h.privileged = true ∧ h.systemLevel = false ∧ s.privileged = true ∧ s.systemLevel = true ∧ per 0x23 = true ∧ sys 0x35 = true ∧ per 0x25 = false ∧
      sys 0x25 = false ∧ ¬(s.k = 3 ∧ s.grp.trapact = true) ∧ (h.grp.slot 1).susp = false ∧ (h.grp.slot 0).susp = true ∧ s.k = 3 ∧ s.grp.sysact = true ∧
      s.grp.spilled = false ∧ ((8192#64).extractLsb' 0 14).toNat ≤ 8192 ∧ ((8192#64).extractLsb' 0 14).toNat % 64 = 0 ∧ ¬((8256#64).extractLsb' 0 14).toNat ≤ 8192 ∧
      0x1000000 ≤ ((0x1000000000#64).extractLsb' 12 40).toNat ∧ ((0x8FFFFFF000#64).extractLsb' 12 40).toNat < 0x9000000 ∧
      ((0x40000000#64).extractLsb' 0 32).toNat ≤ 2 ^ 30 ∧ 65536 ≤ ((65536#64).extractLsb' 0 32).toNat ∧ ((0x80000000#64).extractLsb' 0 32).toNat ≤ 2 ^ 31 ∧
      (2#64).extractLsb' 0 2 ≠ 3 ∧ ¬(3#64).extractLsb' 0 2 ≠ 3 := by decide +kernel
theorem witness_TrapsStartSlotThreeQueueOrKill :
    let s := handler 0xF1 3 0x77 base
    (2#2) ≠ 3 ∧ (s.grp.slot 3).active = false ∧ s.grp.trapQueue = [] ∧ (s.grp.handler 0xF1).testBit 31 = true ∧ s.grp.twin = none ∧
      ((inSlot 3 s).grp.slot 3).active = true ∧ (base.grp.handler 0xF1).testBit 31 = false := by decide +kernel
theorem witness_TrapInstructionAndReturn :
    let w := base.mapCore fun c => { c with tags := [load] }; let h := inSlot 3 (base.mapGrp fun g => { g with trapact := true })
    let p := inSlot 3 (base.mapGrp fun g => { g with sys := true })
    (∃ x ∈ w.core.tags, x.slot = w.k) ∧ (∀ x ∈ base.core.tags, x.slot ≠ base.k) ∧ base.k ≠ 3 ∧ ((inSlot 0 (inSlot 3 base)).grp.slot 3).active = true ∧
      h.k = 3 ∧ h.grp.twin = none ∧ h.grp.trapact = true ∧ h.grp.trapSlot ≠ 3 ∧ (system base).grp.trapact = false ∧ (system base).grp.sysact = true ∧
      p.k = 3 ∧ p.grp.trapact = false ∧ p.grp.sysact = false ∧ p.privileged = true := by decide +kernel
/-- An entry of the directory for the group on the core (4, 0). -/
def Sys2Proof.Tests.entry (sealed ended : Bool) : DirEntry :=
  { name := 0, residence := .resident here, sealed := sealed, ended := ended, moving := false, held := [] }
theorem witness_PrivilegedInstructionsActOrTrap :
    let s := system base; let named (sealed ended : Bool) : State := { s with directory := [entry sealed ended] }
    base.systemLevel = false ∧ s.systemLevel = true ∧ s.slot.progress ≠ .sealing ∧ (0x10000000000#64).extractLsb' 40 24 ≠ 0 ∧
      (0xFFFFFFFFFF#64).extractLsb' 40 24 = 0 ∧ s.dirEntry 0xFFFFFFFFFF = none ∧
      (named true false).dirEntry 0 = some (entry true false) ∧ (entry true false).residence ≠ .released ∧ (entry true false).sealed = true ∧
      (entry true false).ended = false ∧ (named true false).isKilled 0 = false ∧ (entry false false).sealed = false ∧
      (named true true).isKilled 0 = false ∧ ((named true true).mapGrp fun g => { g with stopped := true }).isKilled 0 = true ∧
      (named false false).isHere 0 = true ∧ s.grp.twin = none := by decide +kernel
theorem witness_PrivilegedInstructionsActOrTrap_leaves :
    let s := system base; let v := makeLeaf 0x1000000000 32
    (0xFFFFFFFFFFFF#64).extractLsb' 48 16 = 0 ∧ leafValid v = true ∧ leafOnes v = 20 ∧ v.extractLsb' 52 8 = 0 ∧ v.extractLsb' 0 11 = 0 ∧
      s.slot.progress ≠ .committing ∧ (s.mapAnn fun a => { a with best := true }).ann.best = true ∧ s.ann.best = false ∧
      (0x3FF#64).extractLsb' 10 54 = 0 := by decide +kernel

/-! ### Messages -/

/-- An open message channel 5 to the group 0x500. -/
def Sys2Proof.Tests.talk : State := chan 5 { Chan.closed with isOpen := true, peer := 0x500, weight := 1, txseq := 65535, rxseq := 7 } base
/-- A descriptor of channel 5 with type 0x10, and a payload word of n bytes at an address. -/
def Sys2Proof.Tests.descriptor : Word := 0x1140100000000000
/-- Entries that fill an injection queue. -/
def Sys2Proof.Tests.filled (k : InjKind) (n : Nat) (s : State) : State :=
  s.mapGrp fun g => { g with inj := List.replicate n { id := 3, kind := k, msg := msg 0 1, stage := .sent } }
/-- By channel and by name, with 0 and with 128 bytes. -/
theorem witness_SendsTakeAnEntryTrapOrWait :
    let w := descriptor; let p : Word := 0x800400; let n : Word := 0xEF0000000000
    w.getLsbD 63 = false ∧ w.extractLsb' 48 6 = 0 ∧ p.extractLsb' 24 40 = 0 ∧ (p.extractLsb' 16 8).toNat = 128 ∧ (w.extractLsb' 40 8).toNat < 0xF0 ∧
      talk.target w 0 = some (0x500, some 5) ∧ talk.grp.checkLocal false (p.extractLsb' 0 16).toNat 128 1 0 = none ∧
      talk.grp.injFree .request = true ∧ (talk.mapGrp fun g => { g with mbox := [.running, .free] }).grp.freeMbox = some 1 ∧
      n.getLsbD 63 = false ∧ n.extractLsb' 48 6 = 0 ∧ (n.extractLsb' 40 8).toNat < 0xF0 ∧ base.target n 0 = some (0, none) ∧
      (filled .request 8 talk).grp.injFree .request = false ∧ (filled .request 7 talk).grp.injFree .request = true ∧
      (filled .request 8 talk).target w 0 = some (0x500, some 5) ∧ w.getLsbD 62 = false ∧ (0x4000000000000000#64 ||| w).getLsbD 62 = true := by decide +kernel
/-- A notice of a message that the group sent lies at 0x1000; a request lies in entry 0, whose handler runs in slot 0. -/
theorem witness_NoticesAreResentAndRepliesAnswer :
    let note := { msg 2 0xFD with source := base.grp.name, otype := 0x11 }
    let s := well 0x1000 note.image base
    let m := Msg.ofImage (leNat (s.localBytes 0x1000 32)) (s.localBytes (0x1000 + 32) 128)
    let r := well 0x800 { msg 0 0x20 with rslot := 3 }.image ((base.mapGrp fun g => { g with mbox := [.running] }).mapSlot fun sl => { sl with entry := some 0 })
    let w : Word := 0x1EF0800
    (0xC000000000000000#64) &&& ~~~(3#64 <<< 62) = 0 ∧ (0x1000#64).extractLsb' 16 48 = 0 ∧ s.grp.checkLocal false 0x1000 160 1 0x1000 = none ∧
      m.mtype = 0xFD ∧ m.source = s.grp.name ∧ m.cls = 2 ∧ m.len ≤ 128 ∧ m.rslot = 0xFF ∧ s.grp.injFree .request = true ∧
      (0x8000000000000000#64).getLsbD 63 = true ∧
      w.extractLsb' 25 39 = 0 ∧ (w.extractLsb' 16 8).toNat < 0xF0 ∧ (w.extractLsb' 0 16).toNat = 0x800 + 160 * 0 ∧ r.grp.mbox[0]? = some .running ∧
      r.slot.entry = some 0 ∧ (Msg.ofImage (r.grp.well.nat 0x800 32) []).rslot ≠ 0xFF ∧ r.grp.injFree .reply = true := by decide +kernel
theorem witness_RegisterWritesAndHolds :
    let s := chan 5 { Chan.closed with isOpen := true, kind := 2, peer := 0x500 } base; let w : Word := 0x11401F0000000000
    w.getLsbD 63 = false ∧ w.getLsbD 61 = false ∧ w.extractLsb' 45 9 = 0 ∧ s.target w 2 = some (0x500, some 5) ∧ base.target 0x1F0000000500 2 = some (0x500, none) ∧
      s.rowFree 31 = true ∧ (filled .register 3 s).grp.injFree .register = true ∧ s.grp.busy.getLsbD 31 = false ∧ (∀ t ∈ s.core.tags, t.dest ≠ .v 31) := by
  decide +kernel
/-- A queue bound to a channel, with words in it. -/
def Sys2Proof.Tests.queued (q : BitVec 3) (n : Nat) (s : State) : State :=
  s.mapGrp fun g => g.setQueue q { Queue.reset with bound := true, chan := 5, words := List.replicate n 9 }
theorem witness_QueueAndChannelInstructions :
    ((queued 4 31 base).grp.queue 4).bound = true ∧ ((queued 4 31 base).grp.queue 4).words.length < 32 ∧ 32 ≤ ((queued 7 32 base).grp.queue 7).words.length ∧
      ((queued 7 0 base).grp.queue 7).words = [] ∧ ((queued 7 1 base).grp.queue 7).words ≠ [] ∧
      ((queued 3 1 base).grp.queue 3).words = 9 :: [] ∧ ((queued 0 0 base).grp.queue 0).words = [] ∧ ((queued 0 0 base).grp.queue 0).bound = true ∧
      (base.grp.queue 4).bound = false ∧ 8 ≤ (8#5).toNat ∧ (3#5).toNat < 4 := by decide +kernel
theorem witness_QueueAndChannelInstructions_channels :
    let w : Word := 0x7F7F; let s := queued 7 0 (chan 63 { Chan.closed with isOpen := true, kind := 1, queue := 7 } base)
    w.extractLsb' 15 49 = 0 ∧ (0xFFFFFFFFFF#64).extractLsb' 40 24 = 0 ∧ (w.extractLsb' 6 2).toNat = 1 ∧ (w.extractLsb' 11 4).toNat = 15 ∧
      (base.grp.chan (w.extractLsb' 0 6)).isOpen = false ∧ (base.grp.queue (w.extractLsb' 8 3)).bound = false ∧
      (0x880#64).extractLsb' 15 49 = 0 ∧ ((0x880#64).extractLsb' 6 2).toNat = 2 ∧ (0x880#64).extractLsb' 8 3 = 0 ∧ ((0x880#64).extractLsb' 11 4).toNat ≠ 0 ∧
      (63#64).extractLsb' 6 58 = 0 ∧ (base.grp.chan 63).isOpen = false ∧ (s.grp.chan 63).isOpen = true ∧ (s.grp.chan 63).queue = 7 ∧
      (∀ x ∈ s.grp.inj, x.msg.seqd = false ∨ x.msg.chan ≠ 63) ∧ (s.grp.queue 7).words = [] := by decide +kernel
/-- A launch of three groups with a level of three. -/
def Sys2Proof.Tests.launched : State :=
  { base with launches := base.launches.map fun (l : Launch) => { l with groups := 3, levels := [{ count := 3, domain := 0, fence := 1 }] } }
theorem witness_MasksNamesPositionsAndAnchors :
    (0xFF#64).extractLsb' 8 56 = 0 ∧ (0x100#64).extractLsb' 8 56 ≠ 0 ∧ launched.launch?.isSome = true ∧ launched.launch?.map (·.groups) = some 3 ∧
      (2#64).toNat < 3 ∧ 3 ≤ (3#64).toNat := by decide +kernel
theorem witness_BarriersArriveAndWait :
    let s := launched; let u := s.mapGrp fun g => (g.publish s.grp.logTail).addArrival 1
    let lone := { s with launches := s.launches.map fun (l : Launch) => { l with groups := 1 } }
    s.level? 0 = none ∧ s.level? 2 = none ∧ s.level? 1 = some { count := 3, domain := 0, fence := 1 } ∧ s.slot.progress = .none ∧
      s.grp.released .pod s.grp.logTail = true ∧ s.grp.released .device s.grp.logTail = true ∧ u.unitArrived 1 = false ∧
      lone.unitArrived 1 = true ∧ (lone.mapGrp fun g => (g.publish s.grp.logTail).addArrival 1).unitArrived 1 = true := by decide +kernel

/-! ### Vector instructions -/

/-- A row source, and a queue source with 16 words. -/
theorem witness_sourceReady : sourceReady base 14 3 [1, 2] ∧ sourceReady (queued 3 16 base) 15 7 [1, 2] ∧ sourceReady base 0 3 [] := by
  unfold sourceReady; decide +kernel
/-- A mask that enables no lane, and one that does (R134). -/
theorem witness_ReductionsFoldTheEnabledLanesInOrder :
    ((List.range 32).filter fun l => laneOn 32 (base.grp.mask 1) l) = [] ∧ ((List.range 32).filter fun l => laneOn 32 (base.grp.mask 0) l) ≠ [] := by
  decide +kernel
theorem witness_MovesBroadcastsAndSingleLanes :
    base.rowFree 0 = true ∧ (reg 1 127 base).getG 1 = 127 ∧ ¬128 ≤ (127#64).toNat ∧ laneCount 8 = 128 ∧ 128 ≤ (128#64).toNat ∧
      ((queued 7 16 base).grp.queue 7).bound = true ∧ ((queued 7 16 base).grp.queue 7).words.length ≤ 16 ∧ 16 < ((queued 4 17 base).grp.queue 4).words.length ∧
      (base.grp.queue 5).bound = false ∧ (1#5).toNat ≤ 1 := by decide +kernel
/-- A decoding table that VQUANT can search (R50, R136). -/
def Sys2Proof.Tests.table : State :=
  base.mapGrp fun g => { g with dtable := (List.range 256).map fun i => BitVec.ofNat 19 (i % 128 * 1024 + i / 128 * 2 ^ 18) }
theorem witness_ConversionsFillTheLowLanes :
    base.rowFree 31 = true ∧ vcvtAllowed .i8 .f32 = true ∧ table.tablePending = false ∧ table.grp.searchable = true ∧ base.grp.searchable = false ∧
      3 < (4#5).toNat ∧ (3#5).toNat = 3 := by decide +kernel
theorem witness_FunctionPipeWorksOnEnabledLanes :
    (15#5).toNat ≤ 15 ∧ 15 < (16#5).toNat ∧ base.grp.lutFault 0x1000 = none ∧ base.grp.lutFault 0x73F0 = none ∧ base.grp.lutFault 0x73F8 = some (0x04, 0x73F8) ∧
      base.grp.lutFault 0x1004 = some (0x05, 0x1004) := by decide +kernel
/-! ### Shared memory and engines -/

/-- A store record of the group's log. -/
def Sys2Proof.Tests.record : LogEntry :=
  { kind := .store, seq := 1, firstSeq := 1, addr := 0x1000004000, phys := 0x1000004000, home := homeOf 0x1000004000, mask := 0xFF, data := 7, aop := .add, ord := .none, gd := 1, slot := 0,
    scope := .device, cmp := 0, tag := 0, inRing := true, sent := false, egress := false }
def Sys2Proof.Tests.logged (l : List LogEntry) (s : State) : State := s.mapGrp fun g => { g with log := l, logTail := BitVec.ofNat 32 l.length }
/-- g1 holds the last doubleword of a page, or a row's worth before its end. -/
theorem witness_SharedLoadsAndAtomicsTakeATag :
    let s := mainPage 0x4000 (base.mapCore fun c => { c with tags := (List.range 7).map fun i => { load with tag := i, dest := .g 9 } })
    s.freeTag = some 7 ∧ s.awaitsAcquire = false ∧ reaches s 0x4FF8 8 ⟨true, false⟩ ((List.range 8).map fun i => (0x1000004FF8 + i, false)) ∧
      reaches s 0x4F80 128 ⟨true, false⟩ ((List.range 128).map fun i => (0x1000004F80 + i, false)) ∧ s.rowFree 3 = true ∧
      reaches s 0x4FF8 8 ⟨true, true⟩ ((List.range 8).map fun i => (0x1000004FF8 + i, false)) ∧ (logged (List.replicate 63 record) s).grp.logRoom 1 = true ∧
      ((List.range 8).map fun i => (0x1000004FF8 + i, false)).head?.map (·.1) = some 0x1000004FF8 ∧ 0x1000004FF8 % 8 = 0 := by
  unfold reaches; decide +kernel
/-- R262: the bytes of a store that nothing has acknowledged are forwarded, and its lines are not asked for; not once its home is known to
hold another byte (R263). -/
theorem test_forwarding :
    let bytes := (List.range 8).map (0x1000004000 + ·); let s := mainPage 0x4000 (reg 1 0x4000 (logged [record] base))
    let old := mainPage 0x4000 (reg 1 0x4000 (logged [{ record with passed := 0x80 }] base))
    (after (exec (.sld 2 1) s) (fun t => t.core.tags.map (fun x => (x.bytes == bytes, x.data, x.lines)) == [(true, some [7, 0, 0, 0, 0, 0, 0, 0], [])]) &&
     after (exec (.sld 2 1) old) (fun t => t.core.tags.map (fun x => (x.data, x.lines)) == [(none, [])]) &&
     after (exec (.sld 2 1) (mainPage 0x4000 (reg 1 0x4000 base))) (fun t => t.core.tags.map (fun x => (x.data, x.lines)) == [(none, [0x1000004000])])) = true := by
  decide +kernel
theorem witness_SharedStoresAppendRecords :
    let s := mainPage 0x4000 base
    (0x100#64).extractLsb' 8 56 ≠ 0 ∧ (0x80#64).extractLsb' 8 56 = 0 ∧ (0x80#64) ≠ 0 ∧
      reaches s 0x4008 8 ⟨false, true⟩ ((List.range 8).map fun i => (0x1000004008 + i, false)) ∧
      reaches s 0x4F78 128 ⟨false, true⟩ ((List.range 128).map fun i => (0x1000004F78 + i, false)) ∧ ((List.range 128).map (s.norm <| 0x1000004F78 + ·)).Nodup ∧
      s.rowFree 3 = true ∧ (logged (List.replicate 59 record) s).grp.logRoom 5 = true := by
  unfold reaches; decide +kernel
theorem witness_ReleasesAcquiresAndTlbInstructions :
    let s := logged [record] base; let full := logged (List.replicate 64 record) base
    let f := base.mapCore fun c => { c with frontier := [(0x500, 9)] }
    s.grp.logRoom 1 = true ∧ s.slot.progress = .none ∧ base.grp.released .device base.grp.logTail = true ∧ s.grp.released .pod s.grp.logTail = false ∧
      (∃ e ∈ s.grp.log, e.isRecord = true) ∧ full.grp.logRoom 1 = false ∧ (0x20000000000#64).extractLsb' 41 23 ≠ 0 ∧ (0x1FFFFFFFFFF#64).extractLsb' 41 23 = 0 ∧
      f.core.frontier.find? (fun e => decide (e.1 = 0x500)) = some (0x500, 9) ∧ seqUpTo 9 9 = true ∧ seqUpTo 10 9 = false ∧
      f.core.frontier.find? (fun e => decide (e.1 = 0x501)) = none := by decide +kernel
theorem witness_ReleasesAcquiresAndTlbInstructions_tlb :
    let s := mainPage 0x4000 base; let bad := page 0x4000 0 base
    let locked (n : Nat) (s : State) : State := s.mapGrp fun g => { g with locked := List.replicate n ⟨0x8000, 12⟩ }
    let e : TlbEntry := ⟨⟨0x4000, 12⟩, makeLeaf 0x1000004000 12, false⟩
    (0x1000000000000#64).extractLsb' 48 16 ≠ 0 ∧ (0x4FFF#64).extractLsb' 48 16 = 0 ∧ s.core.tlbFind 0x4FFF = some e ∧ leafValid e.leaf = true ∧
      (bad.core.tlbFind 0x4000).map (fun e => leafValid e.leaf) = some false ∧ (s.grp.locked.any fun p => p.holds 0x4FFF) = false ∧
      12 ≤ (locked 12 s).grp.locked.length ∧ ((locked 12 s).grp.locked.any fun p => p.holds 0x4FFF) = false ∧ (locked 11 s).grp.locked.length < 12 ∧
      (locked 1 s).grp.locked.find? (fun p => p.holds 0x8000) = some ⟨0x8000, 12⟩ ∧ ((locked 1 (mainPage 0x8000 s)).grp.locked.any fun p => p.holds 0x8000) = true ∧
      (locked 1 (mainPage 0x8000 s)).core.relocks 0x8000 ⟨0x8000, 12⟩ = true ∧ ((mainPage 0x8000 s).core.tlbFind 0x8000).isSome = true := by decide +kernel
/-- An A operand at 0x1000 and a B operand at 0x7F80, both the group's own; a block of a copy at 0x2000 that fills 0x3000 from
0x4000, and one of a two-dimensional copy; a block of a reduction of one word over the launch. -/
theorem witness_EngineInstructionsEnqueueJobs :
    let x : Word := 0x8010000000000000; let y : Word := 0x807F800000000000
    let s := launched; let j := s.stepJob false .hi x y; let blk := leBytes 24 (8 * 2 ^ 32 + 2 ^ 128)
    let two := leBytes 24 (2 + 8 * 2 ^ 32 + 16 * 2 ^ 64 + 16 * 2 ^ 96 + 2 ^ 128)
    let c := well 0x2000 (blk ++ leBytes 8 0x4030000000000000) s; let d := well 0x2000 (two ++ leBytes 8 0x4030000000000000) s
    let r := well 0x5000 (leBytes 16 (2 ^ 24 + 2 ^ 32 + 0x3000 * 2 ^ 64 + 0x3100 * 2 ^ 80)) s
    s.queueFree = true ∧ s.rowPending j.mask = false ∧ s.stepChecks j x y = none ∧ s.stepChecks (s.stepJob true .lo x y) x y = none ∧
      (∀ c ∈ s.others, c.at_ ≠ s.core.at_) ∧ (s.lendBoth s.core.at_ (s.grp.name, s.grp.jobSerial) j).isSome = true ∧
      (0x80000000#64).extractLsb' 32 32 = 0 ∧ s.rowPending 0x80000000 = false ∧ s.grp.checkLocal false 0x7C00 1024 8 0x7C00 = none ∧
      c.grp.checkLocal false 0x2000 24 8 0x2000 = none ∧ c.grp.checkLocal false 0x2000 (24 + 8 * (c.copyBlock 0x2000).ndest) 8 0x2000 = none ∧
      (c.copyBlock 0x2000).ok false = true ∧ (d.copyBlock 0x2000).ok true = true ∧
      c.endpointBad (c.copyBlock 0x2000) false 0x4030000000000000 [] 0x4040000000000000 = false ∧
      c.endpointFault (c.copyBlock 0x2000) 0x4030000000000000 [] [0x4030000000000000] = none ∧
      c.endpointRange 0x4040000000000000 1 0 8 = none ∧ c.endpointRange 0x4030000000000000 1 0 8 = none ∧
      d.endpointRange 0x4040000000000000 2 16 8 = none ∧ d.endpointFault (d.copyBlock 0x2000) 0x4030000000000000 [] [0x4030000000000000] = none ∧
      r.grp.checkLocal false 0x5000 16 8 0x5000 = none ∧ r.collBlockOk (r.collBlock 0x5000) true = true ∧ (0xFFFFFFFF00000000#64).extractLsb' 16 16 = 0 ∧
      checkOperand (some r.core) 0x3000 (0x3000 + (r.collBlock 0x5000).bytes) = none ∧ checkOperand (some r.core) 0x3100 0x3108 = none := by decide +kernel
/-- A copy within the group's own well translates nothing; one out of shared memory, whose first word was translated before a miss, either
misses the page of its second word or has it; nobody is leaving. -/
theorem witness_EngineInstructionsEnqueueJobs_copies :
    let x : Word := 0x8000000000004FF8; let ops := [x.toNat, 0x4030000000000000, 2, 8, 0, 8]
    let s := mainPage 0x4000 (base.mapSlot fun sl => { sl with progress := .translating ops [0x1000004FF8] }); let u := mainPage 0x5000 s
    let words : List (Nat × Need) := (wordsOf x 2 8 8).map fun a => (a, ⟨true, false⟩); let before := s.slot.translatedFor ops
    let outcome (s : State) : Option (List Nat × Option Nat) := match s.translateWords before (words.drop before.length) with | .inr (_, ps, m) => some (ps, m) | .inl _ => none
    wordsOf 0x4040000000000000 1 0 8 = [] ∧ base.endpointOwners [0x4040000000000000, 0x4030000000000000] = [0, 0] ∧ base.leaving base.core.at_ 0 = false ∧
      before = [0x1000004FF8] ∧ base.slot.translatedFor ops = [] ∧ outcome s = some ([0x1000004FF8], some 0x5000) ∧ outcome u = some ([0x1000005000, 0x1000004FF8], none) := by
  decide +kernel
def Sys2Proof.Tests.part (error : BitVec 4) : JobPart := { id := 7, serial := 0, rows := 0, done := true, error := error, publish := none }
def Sys2Proof.Tests.batch (state : BitVec 2) (error : BitVec 4) (s : State) : State :=
  s.mapGrp fun g => { g with records := [{ batch := true, id := 7, state := state, kind := 0, deliv := 0, parts := [part error] }] }
theorem witness_BatchesTileAndScalingInstructions :
    let o := base.mapGrp fun g => { g with openJobs := [part 0] }; let busy := base.mapGrp fun g => { g with busy := 1 }
    base.grp.openJobs = [] ∧ o.grp.openJobs.getLast? = some (part 0) ∧ (0x200#64).extractLsb' 9 55 ≠ 0 ∧ (0x107#64).extractLsb' 9 55 = 0 ∧
      ((batch 2 0 base).grp.record? true 7).isSome = true ∧ ((batch 2 0 base).grp.record? true 7).map (·.state) = some 2 ∧
      ((batch 3 0 base).grp.record? true 7).map (·.state) = some 3 ∧ (∀ p ∈ [part 0], p.publish = none) ∧
      (((batch 3 5 base).grp.record? true 7).map fun r => (r.word.extractLsb' 12 4).toNat) = some 5 ∧
      (((batch 3 0 base).grp.record? true 7).map fun r => (r.word.extractLsb' 12 4).toNat) = some 0 ∧ base.grp.record? true 7 = none ∧
      (base.grp.record? true 0).map (·.state) = some 3 ∧ (0x100#64).extractLsb' 9 55 = 0 ∧ (0x100#64) ≠ 0 ∧
      base.grp.busy = 0 ∧ base.rowPending (BitVec.allOnes 32) = false ∧ busy.grp.busy ≠ 0 ∧ base.getG 1 = 0 ∧
      (0x100000000#64).extractLsb' 32 32 ≠ 0 ∧ table.tablePending = false ∧ table.grp.searchable = true ∧ base.grp.searchable = false ∧
      (base.grp.rings.get 3).length < 16 := by decide +kernel
/-- R308, R313 to R315: 0x100 names the empty batch: kind 6, state 11. -/
theorem test_empty_batch :
    (after (exec (.jpoll 1 2) (reg 2 0x100 base)) (fun t => t.getG 1 == 0xC03) && after (exec (.jwait 2) (reg 2 0x100 base)) (fun t => !t.stalled)) = true := by
  decide +kernel

/-! ### Events of delivery -/

/-- A second group stands beside the first one, to its right. -/
def Sys2Proof.Tests.beside (s : State) : State :=
  { s with others := [{ s.core with at_ := { x := 5, y := 0 }, grp := { s.core.grp with self := 0x500 } }] }
/-- The pair locked for a swap, at a stage. -/
def Sys2Proof.Tests.swapping (k : SwapStage) : State :=
  let s := beside base; let d : Coord := { x := 5, y := 0 }
  { s with
    core := { s.core with swap := some ⟨d, 0, k, false⟩, held := [packet (.msg (msg 0 0x20)) (.core here)] }
    others := s.others.map fun c => { c with swap := some ⟨here, 0, k, false⟩ } }

def Sys2Proof.Tests.waiting (w : Option (BitVec 32)) : InjEntry := { id := 3, kind := .request, msg := msg 0 1, stage := .waiting w }
def Sys2Proof.Tests.injecting (e : InjEntry) : State := base.mapGrp fun g => { g with inj := [e] }
theorem witness_EntriesLeaveTheCoreAndAreAnswered :
    let r := injecting (waiting (some 0)); let b := injecting { waiting none with stage := .bounced }
    let q := queued 7 17 (chan 5 { Chan.closed with isOpen := true, kind := 1, queue := 7, credits := 16, peer := 0x500 } base)
    let n := min ((q.grp.queue 7).words.length - (q.grp.queue 7).injected) (min (q.grp.chan 5).credits 16)
    r.grp.inj[0]? = some (waiting (some 0)) ∧ r.core.vacant = false ∧ r.grp.stopped = false ∧ r.grp.twin = none ∧ r.grp.released .pod 0 = true ∧
      b.portHolds = false ∧ b.grp.twin = none ∧ b.grp.inj[0]?.map (·.stage) = some .bounced ∧
      (q.grp.queue 7).bound = true ∧ (q.grp.chan 5).isStream = true ∧ n = 16 ∧ q.portHolds = false ∧
      (flying (packet (.accept 0 3) (.core here)) base).net[0]? = some (packet (.accept 0 3) (.core here)) ∧ base.isHere 0 = true ∧
      (flying (packet (.accept 0 3) (.core here)) base).answerTurn 0 (packet (.accept 0 3) (.core here)) = true ∧
      4 ≤ (q.grp.chan 5).queue ∧ (packet (.nameUpdate 0x500 0 here) (.core here)).place = .core base.core.at_ ∧
      base.turnAt 0 (packet (.nameUpdate 0x500 0 here) (.core here)) = true ∧ (swapping .locked).portHolds = true := by decide +kernel
theorem test_entries_leave_and_streams_inject :
    let q := queued 7 17 (chan 5 { Chan.closed with isOpen := true, kind := 1, queue := 7, credits := 16, peer := 0x500 } base)
    (after (exec (.injection 0) (injecting (waiting (some 0)))) (fun t => t.net.length == 1 && !t.stalled) &&
     after (exec (.streamInjection 7) q) (fun t => (t.grp.chan 5).credits == 0 && (t.grp.queue 7).injected == 16 && !t.stalled)) = true := by decide +kernel
/-- A message in flight to the group. -/
def Sys2Proof.Tests.toHere (m : Msg) (s : State) : State := flying (packet (.msg m) (.core here)) s
/-- A handler of type 0x20 in slot 1. -/
def Sys2Proof.Tests.ready : State := handler 0x20 1 0x44 base
/-- A sequenced message of channel 5 of the class, with a sequence number. -/
def Sys2Proof.Tests.sequenced (cls : BitVec 3) (n : BitVec 16) : Msg := { msg cls 0x20 with seqd := true, seq := n, chan := 5 }
theorem witness_RequestsAreDeliveredKeptOrReturned :
    let m := msg 0 0x20; let s := toHere m ready; let k (n : BitVec 16) : Nat := (n.toNat + 2 ^ 16 - 7) % 2 ^ 16
    let u := toHere (sequenced 0 7) (handler 0x20 1 0x44 talk); let p := packet (.msg m) (.core here)
    arrives s 0 p m 0 ∧ m.rel = false ∧ m.seqd = false ∧ s.grp.freeMbox = some 0 ∧ handled s.grp 0x20 ∧
      (s.mapGrp fun g => { g with mbox := [.running] }).grp.freeMbox = none ∧
      s.turnAt 0 p = true ∧ s.firmwareCore = false ∧ ({ toHere m base with core := { base.core with at_ := { x := 0, y := 0 } } } : State).firmwareCore = true ∧
      ({ toHere m base with core := { base.core with at_ := { x := 0, y := 0 } } } : State).admits 0 = false ∧
      p.accepted = false ∧ arrives u 0 (packet (.msg (sequenced 0 7)) (.core here)) (sequenced 0 7) 0 ∧ (u.grp.chan 5).isMessage = true ∧ (u.grp.chan 5).peer = 0x500 ∧
      (u.grp.chan 5).rxseq = 7 ∧ k 7 = 0 ∧ u.grp.reorder = [] ∧ 0 < k 8 ∧ k 0x8006 = 32767 ∧ k 0x8007 = 32768 ∧
      8 ≤ (u.mapGrp fun g => { g with reorder := List.replicate 8 m }).grp.reorder.length ∧
      (s.mapCore fun c => { c with swap := some ⟨{ x := 5, y := 0 }, 0, .locked, false⟩ }).portHolds = true ∧ s.portHolds = false ∧
      (toHere { m with dest := 0x900 } base).isHere 0x900 = false ∧ base.pointer 0x900 = none ∧ p.copy = false ∧
      (base.mapCore fun c => { c with forwards := [⟨0x900, { x := 8, y := 8 }, 0⟩] }).pointer 0x900 = some { x := 8, y := 8 } ∧ m.fwd.toNat < 3 ∧
      s.grp.isSecondary = false ∧ (s.mapGrp fun g => { g with sealed := true }).grp.sealed = true := by
  unfold arrives handled; decide +kernel
theorem test_arrivals :
    (after (exec (.messageArrival 0) (toHere (msg 0 0x20) ready)) (fun t => t.grp.mbox == [.pending 0] && t.net.length == 1) &&
     after (exec (.messageArrival 0) (toHere (sequenced 0 0x8007) talk)) (fun t => t.grp.consumed == 1 && t.grp.reorder == []) &&
     after (exec (.messageArrival 0) (toHere (sequenced 0 0x8006) talk)) (fun t => t.grp.reorder.length == 1)) = true := by decide +kernel
theorem witness_RepliesStreamsFillsAndNoticesArrive :
    let r := { msg 1 0x20 with rslot := 0 }; let s := (toHere r ready).mapGrp fun g => { g with mbox := [.reserved 0x500] }
    let q := toHere (sequenced 2 7) (queued 3 0 (chan 5 { Chan.closed with isOpen := true, kind := 1, queue := 3, peer := 0x500, rxseq := 7 } base))
    arrives s 0 (packet (.msg r) (.core here)) r 1 ∧ r.rel = false ∧ s.grp.mbox[r.rslot.toNat]? = some (.reserved r.source) ∧ handled s.grp r.mtype ∧
      (toHere r base).grp.mbox[r.rslot.toNat]? ≠ some (.reserved r.source) ∧
      arrives q 0 (packet (.msg (sequenced 2 7)) (.core here)) (sequenced 2 7) 2 ∧ (q.grp.chan 5).isStream = true ∧ (q.grp.chan 5).queue < 4 ∧
      (q.grp.chan 5).peer = 0x500 ∧ (q.grp.chan 5).rxseq = 7 ∧ q.grp.reorder = [] := by
  unfold arrives handled; decide +kernel
/-- A register write before its row; one that waits, and is first of its row; a notice that comes to a group, and one that waits. -/
theorem witness_RepliesStreamsFillsAndNoticesArrive_writes :
    let f := { msg 3 0 with row := 31 }; let h := toHere f (base.mapGrp fun g => { g with hold := 0x80000000 })
    let n := { msg 2 0x20 with source := 0, dest := 0x500, otype := 0x11 }
    arrives h 0 (packet (.msg f) (.core here)) f 3 ∧ h.grp.hold.getLsbD 31 = true ∧ h.grp.busy.getLsbD 31 = false ∧ f.seqd = false ∧
      (h.mapGrp fun g => { g with busy := 0x80000000 }).grp.busy.getLsbD 31 = true ∧ (toHere f base).grp.hold.getLsbD 31 = false ∧
      (h.mapCore fun c => { c with fills := [packet (.msg f) (.core here)] }).core.fills[0]? = some (packet (.msg f) (.core here)) ∧
      (packet (.msg f) (.core here)).accepted = false ∧ h.core.fills = [] ∧ h.grp.stopped = false ∧ h.grp.twin = none ∧
      n.otype ≠ 0 ∧ handled ready.grp n.mtype ∧ ready.grp.mbox[n.rslot.toNat]? = none ∧ ready.grp.freeMbox = some 0 ∧ ready.portHolds = false ∧
      ready.grp.ended = false ∧ ready.grp.stopped = false ∧ ready.grp.noticeDue = false ∧ (swapping .locked).portHolds = true ∧
      (injecting { waiting none with stage := .notice n 5 }).grp.notices.map (·.2) = [5] ∧
      (∃ e ∈ (injecting { waiting none with stage := .sent }).grp.inj, e.id = 3) ∧
      (flying (packet (.notice n 3) (.core here)) ready).net[0]? = some (packet (.notice n 3) (.core here)) ∧ ready.isHere n.source = true ∧
      (flying (packet (.notice n 3) (.core here)) ready).answerTurn 0 (packet (.notice n 3) (.core here)) = true ∧
      (flying (packet (.notice n 3) (.core here)) ready).turnAt 0 (packet (.notice n 3) (.core here)) = true ∧ ready.ownEntry n 3 = false ∧
      (injecting { waiting none with stage := .sent }).ownEntry n 3 = true ∧ (packet (.notice n 3) (.core here)).copy = false ∧
      ready.ownEntry { n with source := 0x900 } 3 = false ∧ ready.isHere 0x900 = false ∧ ready.pointer 0x900 = none ∧ ready.grp.isSecondary = false ∧
      (base.mapCore fun c => { c with forwards := [⟨0x900, { x := 8, y := 8 }, 0⟩] }).pointer 0x900 = some { x := 8, y := 8 } ∧ n.fwd.toNat < 3 ∧
      (injecting { waiting none with stage := .notice n 5 }).grp.inj[0]?.map (·.stage) = some (.notice n 5) := by
  unfold arrives handled; decide +kernel
theorem test_replies_fills_and_notices :
    let r := { msg 1 0x20 with rslot := 0 }; let f := { msg 3 0 with row := 31, data := List.replicate 128 1, len := 128 }
    let n := { msg 2 0x20 with source := 0, dest := 0x500, otype := 0x11 }
    (after (exec (.replyArrival 0) ((toHere r ready).mapGrp fun g => { g with mbox := [.reserved 0x500] })) (fun t => t.grp.mbox == [.pending 0]) &&
     after (exec (.registerWriteArrival 0) (toHere f (base.mapGrp fun g => { g with hold := 0x80000000 })))
       (fun t => t.grp.hold == 0 && lane 8 (t.grp.row 31) 127 == 1) &&
     after (exec (.noticeArrival 0) (flying (packet (.notice n 3) (.core here)) (ready.mapGrp fun g => { g with inj := [{ waiting none with stage := .sent }] })))
       (fun t => t.grp.mbox == [.pending 0] && t.grp.inj == [])) = true := by decide +kernel
theorem witness_HandlerStartsTakeTheBestPendingEntry :
    let s := (well 0x800 (msg 0 0x20).image ready).mapGrp fun g => { g with mbox := [.pending 5] }
    s.grp.candidate 1 = some 0 ∧ s.grp.candidate 2 = none ∧ (s.grp.slot 1).active = false ∧ s.core.vacant = false ∧ s.grp.stopped = false ∧
      s.portHolds = false := by decide +kernel
/-! ### Events of the directory, of memory and of the log -/

def Sys2Proof.Tests.listed (e : DirEntry) (p : Packet) : State := flying p { base with directory := [e] }
def Sys2Proof.Tests.frame (g : Group) : SaveFrame := { name := g.name, base := 0x10000, cycle := 0, grp := g }
theorem witness_DirectoryAndSumpHandleMessages :
    let m := msg 0 0x20; let p := packet (.msg m) .directory; let e := entry false false
    let u := packet (.dirUpdate 0 here 2) .directory; let w := packet (.msg m) .sump
    let y := frame base.grp; let saved (l : Memory) : Group := ({ base with frames := [y], mem := l } : State).loadFrame y
    (listed e p).net[0]? = some p ∧ (listed e p).dirEntry m.dest = some e ∧ e.moving = false ∧ e.sealed = false ∧ e.residence = .resident here ∧
      (listed { e with moving := true } p).dirEntry m.dest = some { e with moving := true } ∧
      ({ e with residence := .parked } : DirEntry).residence = .parked ∧ (entry true false).sealed = true ∧ e.residence ≠ .released ∧ m.cls ≠ 1 ∧
      (flying p base).dirEntry m.dest = none ∧ (listed e u).net[0]? = some u ∧ w.place = .sump ∧ m.cls = 0 ∧
      ((List.replicate 256 (m.dest, w)).filter fun e => e.1 == m.dest && match e.2.body with | .msg x => x.cls == 0 | _ => false).length = 256 ∧
      ((List.replicate 255 (m.dest, w)).filter fun e => e.1 == m.dest && match e.2.body with | .msg x => x.cls == 0 | _ => false).length < 256 ∧
      ({ base with frames := [y] } : State).frames.find? (fun x => x.name = m.dest) = some y ∧
      (saved [(0x1000019200, 2)]).hold.getLsbD 1 = true ∧ (saved [(0x1000019200, 2)]).busy.getLsbD 1 = false ∧ (saved []).hold.getLsbD 1 = false ∧
      (saved [(0x1000019204, 2)]).busy.getLsbD 1 = true ∧ y.base + 0x10000 ≤ 2 ^ 39 := by decide +kernel
/-- Messages in turn at their place; an update of a move that is awaited, and one of an earlier move; a group that stands nowhere. -/
theorem witness_DirectoryAndSumpHandleMessages_turns :
    let m := msg 0 0x20; let p := packet (.msg m) .directory; let w := packet (.msg m) .sump; let e := { entry false false with moves := 2 }
    (listed e p).turnAt 0 p = true ∧ (listed e w).turnAt 0 w = true ∧ p.accepted = false ∧ ({ e with moves := 1, moving := true, awaits := 2 } : DirEntry).moves ≤ 2 ∧
      ({ e with moves := 1, moving := true, awaits := 2 } : DirEntry).awaits ≤ 2 ∧ 1 < e.moves ∧ e.moving = false ∧
      (listed { e with residence := .parked } w).dirEntry 0 = some { e with residence := .parked } ∧
      ({ e with residence := .released } : DirEntry).residence = .released := by decide +kernel
theorem test_directory :
    let p := packet (.msg (msg 0 0x20)) .directory
    (after (exec (.directoryArrival 0) (listed (entry false false) p)) (fun t => (t.net.map (·.place)) == [.core here, .core { x := 9, y := 9 }]) &&
     after (exec (.directoryArrival 0) (flying p base)) (fun t => match t.net with
       | [q] => (match q.body with | .notice m _ => m.mtype == 0xFE | _ => false) | _ => false)) = true := by decide +kernel
/-- A lease of four pages of main memory. -/
def Sys2Proof.Tests.leased : State :=
  { base with launches := base.launches.map fun (l : Launch) => { l with leases :=
      [{ kind := 2, module := 0, base := 0x4000, size := 0x4000, frames := [0x1000004000, 0x1000005000, 0x1000006000, 0x1000007000], image := [] }] } }
theorem witness_MissesLoadsAndFillsReturn :
    let m := leased.mapCore fun c => { c with misses := [{ slot := 0, addr := 0x7FFF, live := true }] }
    let x := { load with bytes := (List.range 8).map (0x1000004008 + ·) }
    let far := { load with bytes := (List.range 8).map (0x8008000000000 + ·), phys := (List.range 8).map (0x8008000000000 + ·) }
    let s := base.mapCore fun c => { c with tags := [x] }; let y := { x with lines := [0x1000004000] }
    m.core.misses.map (·.addr) = [0x7FFF] ∧ m.portClear = true ∧ m.core.misses.map (·.live) = [true] ∧ m.core.tlbFind 0x7FFF = none ∧
      ((mainPage 0x7000 m).core.tlbFind 0x7FFF).isSome = true ∧ (m.service 0x7FFF).isSome = true ∧ m.service 0x8000 = none ∧ m.grp.twin = none ∧ m.core.swap = none ∧
      s.core.tags.find? (fun t => t.tag == 0) = some x ∧ x.atomic = false ∧ s.core.awaitsOlder x = false ∧ x.data = none ∧ s.awaitsOwn x = false ∧
      s.isPoisoned x.bytes = false ∧ s.portClear = true ∧
      (x.unasked fun a => !x.kept.contains (a / 64 * 64)) = [] ∧ (y.unasked fun a => a / 64 * 64 == 0x1000004000) = [] ∧
      (far.unasked fun a => !far.kept.contains (a / 64 * 64)) ≠ [] ∧ (far.unasked fun a => a / 64 * 64 == 0x8008000000000) ≠ [] ∧ ({ x with data := some [] } : LoadTag).data = some [] ∧ s.core.missingLines y = [0x1000004000] ∧ s.core.missingLines x = [] ∧ s.loadAtPort 0 = false ∧ s.canTrap = true ∧
      (swapping .locked).canTrap = false ∧ (∀ j, (s.grp.slot j).errors = []) ∧ (s.grp.slot x.slot).atBoundary = true ∧ s.core.readsHome x 0x1000004040 = false ∧
      (∀ e ∈ [record], e.overlapsRange 0x1000004040 64 = false) ∧
      (((s.mapSlot fun sl => { sl with progress := .sealing }).grp.slot x.slot).atBoundary) = false := by decide +kernel
theorem test_loads_return :
    let x := { load with bytes := (List.range 8).map (0x1000004008 + ·) }
    let s := { base.mapCore fun c => { c with tags := [x] } with mem := [(0x1000004008, 5), (0x100000400F, 0x80)] }
    after (exec (.loadReply 0) s) (fun s => after (exec (.loadReply 0) s) fun t => t.getG 1 == 0x8000000000000005 && t.core.tags == []) = true := by
  decide +kernel
def Sys2Proof.Tests.flight (e : LogEntry) (stage : RecStage) (s : State) : State :=
  { s with records := [{ writer := base.grp.key, entry := e, stage := stage }] }
theorem witness_RecordsAreSentAppliedAndAcknowledged :
    let s := flight record .toHome (logged [record] base); let a := { record with kind := .atomic, mask := 0xFF000000 }
    let far := { record with addr := 0x8008000000000, phys := 0x8008000000000, home := homeOf 0x8008000000000 }; let v := (logged [{ record with inRing := false }] base).mapGrp fun g => { g with logLim := 64 }
    (logged [record] base).grp.nextSend = some 0 ∧ portModule record.phys = none ∧ portModule far.phys = some 1 ∧
      v.grp.spilled = true ∧ v.grp.ringCount < 64 ∧ v.grp.log.length - v.grp.ringCount ≤ v.grp.logCapacity - 64 ∧
      s.records[0]?.map (·.stage) = some .toHome ∧ record.addr % 32 = 0 ∧ s.norm record.addr = record.addr ∧ s.overtakes 0 = false ∧
      s.recordAtPort ⟨base.grp.key, record, .toHome⟩ = false ∧ s.isDuplicate ⟨base.grp.key, record, .toHome⟩ = false ∧
      ({ s with homeSeq := [(base.grp.key, homeOf record.addr, 1)] } : State).isDuplicate ⟨base.grp.key, record, .toHome⟩ = true ∧
      a.mask = 0xFF#32 <<< (8 * 3) ∧ s.isPoisoned ((List.range 8).map (record.addr + 8 * 3 + ·)) = false ∧
      ({ s with poisoned := [(record.addr + 24) / 8] } : State).isPoisoned ((List.range 8).map (record.addr + 8 * 3 + ·)) = true ∧
      s.portClear = true ∧ far.away = true ∧ s.recordAtPort ⟨base.grp.key, far, .toHome⟩ = false ∧ s.grp.key = base.grp.key ∧ s.core.vacant = false ∧ s.grp.twin = none ∧
      (base.mapCore fun c => { c with tags := [{ load with atomic := true, seq := 1 }] }).core.tags.find? (fun t => t.atomic && t.seq == record.seq) =
        some { load with atomic := true, seq := 1 } := by decide +kernel
/-- A REL that comes to issue with a full log, one that has found it full, and one whose marker stands; a record that has been applied and
replaced at its home. -/
theorem witness_ReleasesAcquiresAndTlbInstructions_waits :
    let s := logged [record] base; let full := logged (List.replicate 64 record) base
    let at_ (p : Progress) (s : State) : State := s.mapSlot fun sl => { sl with progress := p }
    full.slot.progress = .none ∧ full.grp.logRoom 1 = false ∧ (at_ (.rel 5 false) full).slot.progress = .rel 5 false ∧
      (at_ (.rel 1 true) s).slot.progress = .rel 1 true ∧ s.grp.released .pod 1 = false ∧ s.grp.released .pod 0 = true ∧ s.grp.logRoom 1 = true ∧
      (flight record .ack s).applied record = true ∧ record.touches (record.addr + 0) = true ∧ s.homeByte (record.addr + 0) ≠ record.byte 0 := by
  decide +kernel
/-- R278: a REL keeps the tail that it took when it first came to issue. -/
theorem test_rel_keeps_its_tail :
    let s := (logged [{ record with seq := 2, firstSeq := 2 }] base).mapGrp fun g => { g with logTail := 2 }
    after (exec (.rel .device) (s.mapSlot fun sl => { sl with progress := .rel 1 false })) (fun t => t.grp.logPub == 1 && !t.stalled) = true := by
  decide +kernel
theorem test_records :
    let s := flight record .toHome (logged [record] base)
    (after (exec (.recordApply 0) s) (fun t => t.mem == [(0x1000004000, 7)] &&
       after (exec (.recordAck 0) t) fun u => u.grp.log == [] && u.records == []) &&
     after (exec (.atomicExecute 0) (flight { record with kind := .atomic, aop := .add } .toHome { base with mem := [(0x1000004000, 0xFF)] }))
       (fun t => t.mem == [(0x1000004000, 6), (0x1000004001, 1)])) = true := by decide +kernel

/-! ### Events of the engines and the annealer -/

def Sys2Proof.Tests.job (running : Bool) (k : JobKind) : Job := { owner := 0, at_ := here, id := 7, serial := 0, running := running, error := 0, kind := k }
def Sys2Proof.Tests.octet (j : List Job) (s : State) : State := { s with octets := [{ Octet.empty (octetOf here) with jobs := j }] }
def Sys2Proof.Tests.copy : CopyJob :=
  { two := false, rows := 1, width := 16, sstride := 0, dstride := 0, fill := false, src := .well 0 0x4000, dests := [.well 0 0x3000], next := 1,
    failed := [false], tail := 0 }
def Sys2Proof.Tests.member : CollJob :=
  { block := { op := 0, fn := 0, type := 0, level := 1, count := 1, buf := 0x3000, res := 0x3100, tag := 5 }, launch := 0, unit := 0, number := 1, member := 0,
    parent := none, child := 0, nchild := 2, parts := [], sent := false, taken := false, result := none }
def Sys2Proof.Tests.vector : CollVector :=
  { block := member.block, owner := 0x500, launch := 0, unit := 0, number := 1, parent := 0, member := 1, child := 1, members := [1], vectors := [(1, [1, 2, 3, 4])] }
theorem witness_JobsStartMoveWordsAndComplete :
    let q := octet [job false (.tzero 1)] base; let r := octet [job true (.tzero 1)] base; let t := octet [job true (.dtload [])] base
    let x : StepJob := { (base.stepJob false .all 0x8010000000000000 0x8020000000000000) with lent := false }
    let e := octet [job true (.step x)] base; let c := octet [job true (.copy copy)] base; let o := octetOf here
    let v := octet [job true (.coll member)] { base with collVectors := [vector] }
    (∀ c ∈ q.others, c.at_ ≠ q.core.at_) ∧ (q.octet o).unitBusy .matrix = false ∧ q.pick .matrix (q.octet o) = some (job false (.tzero 1)) ∧
      (r.octet o).number = o ∧ (r.octet o).jobs.filter (fun j => j.running && j.kind.onUnit .matrix) = job true (.tzero 1) :: [] ∧
      (t.octet o).jobs.filter (fun j => j.running && j.kind.onUnit .matrix) = job true (.dtload []) :: [] ∧
      (e.octet o).jobs.filter (fun j => j.running && j.kind.onUnit .matrix) = job true (.step x) :: [] ∧ x.held = none ∧ (e.owner? here x.a.owner).isSome = true ∧
      (octet [job true (.copy { copy with next := 2 })] base).unacked (engineKey 0 o) = false ∧ ({ copy with next := 2 } : CopyJob).next = copy.words ∧
      (c.octet o).jobs.find? (fun j => j.running && j.kind.onUnit .copy && !j.kind.isColl) = some (job true (.copy copy)) ∧ copy.next < copy.words ∧
      c.copyAtPort (job true (.copy copy)) = false ∧ copy.unasked = none ∧ copy.dests = [.well c.grp.name 0x3000] ∧
      ({ copy with src := .shared [0x8008000000000, 0x8008000000008] } : CopyJob).unasked = some 1 ∧ portModule 0x8008000000008 = some 1 ∧
      c.grp.lentAt 0x3008 8 = false ∧ (base.mapGrp (Group.setFull 0x601 false)).grp.isFull (0x3008 / 8) = false ∧
      c.fetchWord (job true (.copy copy)) copy 1 = .word (List.replicate 8 0) ∧
      v.collVectors[0]? = some vector ∧ vector.member ≠ vector.parent ∧ member.parent ≠ some member.member ∧ member.number = vector.number ∧ vector.parent = member.member ∧ vector.child < member.nchild ∧
      ¬({ vector with child := 2 } : CollVector).child < member.nchild ∧ (v.coreAt here).map (·.grp.twin) = some none := by decide +kernel
theorem test_jobs :
    (after (exec (.jobComplete .matrix) (octet [job true (.tzero 0x80000000)] (row 31 5 (row 0 6 base)))) (fun t =>
       t.grp.row 31 == 0 && t.grp.row 0 == 6 && (t.octet (octetOf here)).jobs == []) &&
     after (exec .copyWordWrite (octet [job true (.copy copy)] (well 0x4008 [1, 2] base))) (fun t => t.grp.well.read 0x3009 == 2) &&
     after (exec (.collChildArrival 0) (octet [job true (.coll member)] { base with collVectors := [vector] })) (fun t => t.collVectors == [])) = true := by
  decide +kernel
def Sys2Proof.Tests.annealing (f : Annealer → Annealer) (s : State) : State := s.mapAnn f
theorem witness_AnnealingRoundsRunAndPairsDecide :
    let a := base.ann; let s := { base with cycle := 0x100000 }
    let w := chan 5 { Chan.closed with isOpen := true, peer := 0x500 } base
    let p (b : Traffic) : Packet := packet b (.core here)
    let r := annealing (fun a => { a with inRound := true, roundMode := .live, phase := 3 }) base
    let e := annealing (fun a => { a with inRound := true, roundMode := .live, phase := 4 }) base
    s.commitOver = false ∧ (∀ x ∈ s.others, x.at_ ≠ s.core.at_) ∧ w.portHolds = false ∧ w.grp.twin = none ∧
      w.turnAt 0 (p (.weight 0 0x500 5 3 here)) = true ∧ w.turnAt 0 (p (.position 0 0x500 5 here)) = true ∧ (swapping .locked).portHolds = true ∧ w.isHere 0x900 = false ∧
      r.updateOut (fun b => b.isWeight || b.isPosition) = false ∧ e.updateOut Traffic.isPosition = false ∧ a.inRound = false ∧ a.pendingRegs = [] ∧ a.pendingWeights = [] ∧ a.instant < s.cycle / a.period.toNat * a.period.toNat ∧
      (w.grp.chan 5).isOpen = true ∧ (w.grp.chan 5).peer = 0x500 ∧ w.grp.ann[(5#6).toNat]? = some AnnEntry.reset ∧ w.isHere 0 = true ∧
      (flying (p (.weight 0 0x500 5 3 here)) w).net[0]? = some (p (.weight 0 0x500 5 3 here)) ∧
      r.ann.inRound = true ∧ r.ann.phase < 4 ∧ r.ann.pairs = [] ∧ r.swapping = false ∧
      4 ≤ e.ann.phase ∧ e.swapping = false ∧ (annealing (fun a => { a with mode := .commit }) base).away = 0 ∧
      4096 ≤ (annealing (fun a => { a with mode := .commit, phases := 4096 }) base).ann.phases := by decide +kernel
/-- Writes that wait for the round's start, the later of two of one register; an end with a weight that waits; a commit that is over in the
middle of a round. -/
def Sys2Proof.Tests.pending : State :=
  annealing (fun a => { a with pendingRegs := [(0x35, 1), (0x30, 7), (0x35, 6)], pendingWeights := [(0, 5, 3), (0, 5, 9)], reloadTemp := true })
    { chan 5 { Chan.closed with isOpen := true, peer := 0x500 } base with cycle := 0x100000 }
theorem witness_AnnealingRoundsRunAndPairsDecide_pending :
    let s := pending; let c := annealing (fun a => { a with inRound := true, roundMode := .commit, mode := .commit, phase := 3 }) base
    s.ann.inRound = false ∧ s.ann.instant < s.cycle / s.ann.period.toNat * s.ann.period.toNat ∧ s.commitOver = false ∧ (∀ x ∈ s.others, x.at_ ≠ s.core.at_) ∧
      s.frames = [] ∧ s.core.vacant = false ∧ s.grp.twin = none ∧ s.grp.ended = false ∧ (s.grp.chan 5).isOpen = true ∧ s.grp.ann[(5#6).toNat]? = some AnnEntry.reset ∧
      c.ann.inRound = true ∧ c.ann.roundMode = .commit ∧ c.ann.mode = .commit ∧ c.away = 0 ∧ c.swapping = false ∧ c.ann.phase < 4 ∧
      (annealing (fun a => { a with inRound := true, roundMode := .live, phase := 3 }) base).commitStops = false := by decide +kernel
/-- R229 and R352: the latest writes take effect at the round's start, here those of dry run with weights written. -/
theorem test_pending_settings :
    after (exec .roundInstant pending) (fun t => t.ann.mode == .dryRun && t.ann.wsrc && t.ann.tempStart == 7 && t.ann.tempCurrent == 7 && t.ann.inRound &&
      t.ann.pendingRegs == [] && (t.grp.ann[5]?).map (·.w) == some 9 && t.net.length == 1) = true := by decide +kernel
/-- A pair that is skipped, one that is rejected and one that is accepted. -/
theorem witness_AnnealingRoundsRunAndPairsDecide_pairs :
    let d : Coord := { x := 5, y := 0 }
    let s (m : AnnMode) (delta : Int) : State := annealing (fun a =>
      { a with inRound := true, roundMode := m, phase := 1, pairs := [(here, delta)], shadow := [(0, here), (0x500, d)] }) (beside base)
    let accepted (delta : Int) : Bool := annealAccepts delta 0x4000 (annealDraw 0 0 0 here)
    (s .live 0).ann.pairs.find? (fun e => e.1 = here) = some (here, 0) ∧ upperOf 0 here = d ∧ ((s .live 0).groupAt here).isSome = true ∧
      ((s .live 0).groupAt d).isSome = true ∧ ((s .dryRun 0).groupAt here).map (·.name) = some 0 ∧ ((s .dryRun 0).groupAt d).map (·.name) = some 0x500 ∧
      (((s .live 0).groupAt here).bind fun g => ((s .live 0).groupAt d).map fun h => (s .live 0).skipped here d g h) = some false ∧
      (((s .dryRun 0).groupAt here).bind fun g => ((s .dryRun 0).groupAt d).map fun h => (s .dryRun 0).skipped here d g h) = some false ∧
      (s .live 0).skipped here d { base.grp with anchored := true } base.grp = true ∧ (s .live 0).inSwap here d = false ∧ accepted (-1) = true ∧ accepted (2 ^ 40) = false ∧
      (∀ x ∈ (s .live 0).others, x.at_ ≠ here) ∧ (s .live 0).core.asleep = none ∧ ((s .live 0).coreAt d).map (·.asleep) = some none := by decide +kernel
theorem witness_SwapsFreezeDrainInstallAndResume :
    let s := swapping .locked; let d : Coord := { x := 5, y := 0 }
    s.core.swap = some ⟨d, 0, .locked, false⟩ ∧ (s.coreAt d).map (·.at_) = some d ∧ d ≠ s.core.at_ ∧ (∀ x ∈ s.others, x.at_ ≠ s.core.at_) ∧ s.core.vacant = false ∧
      (s.coreAt d).map (·.vacant) = some (⟨d, 0, .locked, false⟩ : SwapState).single ∧ (true : Bool) ≠ (⟨d, 0, .locked, false⟩ : SwapState).single ∧ (s.coreAt d).map (·.swap.isSome) = some true ∧ s.core.quiet = true ∧ (s.coreAt d).map (·.quiet) = some true ∧
      (s.coreAt d).map (fun x => s.skippedIn false true here d s.grp x.grp) = some false ∧ s.grp.drained = true ∧ (s.coreAt d).map (·.grp.drained) = some true ∧
      s.cycle < 0 + 4096 ∧ 0 + 4096 ≤ ({ s with cycle := 4096 } : State).cycle ∧
      (base.mapCore fun c => { c with forwards := [⟨0x500, d, 0⟩] }).core.forwards[0]? = some ⟨0x500, d, 0⟩ := by decide +kernel
theorem test_swaps :
    let d : Coord := { x := 5, y := 0 }
    (after (exec .swapFreezeEnd (swapping .locked)) (fun t => t.core.swap == some ⟨d, 0, .frozen, false⟩) &&
     after (exec .swapInstall (swapping .drained)) (fun t => t.grp.self == 0x500 && (t.coreAt d).map (·.grp.self) == some 0) &&
     after (exec .swapResume (swapping .installed)) (fun t => t.core.swap == none && t.net.length == 1) &&
     after (exec .swapAbort { swapping .frozen with cycle := 4096 }) (fun t => t.core.swap == none && t.grp.self == 0)) = true := by decide +kernel

/-! ### Events of the host, the launches and the supervisor -/

/-- A queue with one packet at offset 0 of main memory, whose record at 0x1000 asks for one group with one word of code; the
packet's kind is given. -/
def Sys2Proof.Tests.hosted (kind : Nat) : State :=
  let m := Memory.writeN (Memory.writeN [] 0x1000000000 (leBytes 64
      (kind + 0x1000 * 2 ^ 64 + 0x3000 * 2 ^ 128 + 0x4000 * 2 ^ 192 + 0x5000 * 2 ^ 256 + 45056 * 2 ^ 320)))
    0x1000001000 (leBytes 32 (1 + 2 ^ 32 + 2 ^ 96 + 2 ^ 152 + 0x460 * 2 ^ 192 + 2 ^ 224))
  { State.reset with
    mem := Memory.writeN m 0x1000001060 (leBytes 32 (2 ^ 32))
    queues := [{ id := 3, part := 0, port := 0, fn := 0, page := 0, base := 0, log2 := 0, system := false, readIdx := 0, latched := 1, pending := false,
                 announced := 1, gated := false, stopped := false, pendingRel := [] }] }
theorem witness_HostWritesAndFirmwareUpdatesTakeEffect :
    let b := State.reset.board
    (State.queue? 3 (hosted 0)).isSome = true ∧ State.queue? 4 (hosted 0) = none ∧ 16 ≤ 16 ∧ State.reset.function? 0 0 = some (HostFunction.reset 0) ∧
      (HostFunction.reset 0).base + (HostFunction.reset 0).size < 2 ^ 39 - 8 + 8 ∧ (HostFunction.reset 0).base ≤ 0 ∧
      2 ^ 39 - 2 ^ 22 - 8 + 8 ≤ (HostFunction.reset 0).base + (HostFunction.reset 0).size ∧ 10000000000 % 1000000 = 0 ∧
      (∀ q ∈ (hosted 0).queues, q.port = 0 → q.fn = 0 → q.page ≠ 1) ∧ (∀ k, k < 1 → ∃ q ∈ (hosted 0).queues, q.port = 0 ∧ q.fn = 0 ∧ q.page = k) ∧
      counterOffset 0x3800030 = true ∧ b.method = .kernel ∧ ({ b with method := .patch } : Board).method = .patch ∧ (5 : Nat) ≠ b.kernel ∧
      (∀ f ∈ ([] : List Nat), Config.firmwareActive 0 f = false) ∧
      (∀ d ∈ [0, 63], d < 64) ∧ noRepeat [0, 63] = true ∧ (63 : Nat) ≠ State.reset.part0.id ∧ (∀ c ∈ State.reset.cores, c.vacant = true ∧ c.swap = none) ∧
      State.reset.cisternDies ++ State.reset.poolDies = [] ∧ b.failed = false ∧ Board.absent.failed = true ∧ State.reset.parts = [] ∧ ({ entries := [(1, 2)], role := .counters, signed := true } : PatchImage).signed = true := by
  refine ⟨?_, ?_, ?_, ?_, ?_, ?_, ?_, ?_, ?_, ?_, ?_, ?_, ?_, ?_, by simp, ?_⟩ <;> decide +kernel
/-- The free value of firmware that is at work (log 85) is either: both forms of the hot patch are met. -/
theorem witness_HostWritesAndFirmwareUpdatesTakeEffect_patch :
    (∃ f ∈ [7], Config.firmwareActive 0 f = true) ∨ ∀ f ∈ [7], Config.firmwareActive 0 f = false := by
  cases h : Config.firmwareActive 0 7 <;> simp [h]
/-- A launch not yet admitted, and one that is. -/
def Sys2Proof.Tests.asked (admitted : Bool) (unplaced : List Nat) : State :=
  { State.reset with launches := [{ codeLaunch 1 0 0 with admitted := admitted, unplaced := unplaced, leases := [] }], nextLaunch := 2 }
theorem witness_LaunchesAreTakenAdmittedAndEnded :
    let s := hosted 1
    (s.packetDue 3).map (fun x => (x.1.overrun, x.2.ok 1, s.offsetsOk 0 x.2 && s.saveOk x.2, x.1.fenced x.2, x.2.kind)) = some (false, true, true, false, 1) ∧
      ((hosted 0).packetDue 3).map (fun x => (x.1.overrun, x.2.ok 1, (hosted 0).offsetsOk 0 x.2 && (hosted 0).saveOk x.2, x.1.fenced x.2, x.2.kind)) =
        some (false, true, true, false, 0) ∧ ((hosted 3).packetDue 3).map (fun x => (x.2.ok 1, decide (x.2.completion + 32 ≤ 2 ^ 39))) = some (false, true) ∧
      (hosted 0).unstarted 3 = false ∧ ({ hosted 0 with launches := [{ codeLaunch 1 0 3 with admitted := false }] } : State).unstarted 0 = true ∧
      (s.partById 0).gang.gangs = 1 ∧ ((s.packetDue 3).bind fun x => s.parseLaunch x.1 x.2).map (·.groups) = some 1 ∧
      (({ s with mem := s.mem.write 0x1000001004 0 } : State).packetDue 3).bind (fun x => ({ s with mem := s.mem.write 0x1000001004 0 } : State).parseLaunch x.1 x.2) = none ∧
      (({ s with queues := s.queues.map fun q => { q with announced := 2 } } : State).packetDue 3).map (·.1.overrun) = some true := by decide +kernel
theorem witness_LaunchesAreTakenAdmittedAndEnded_admission :
    let s := asked false []; let l := { codeLaunch 1 0 0 with admitted := false, unplaced := [], leases := [] }
    s.launches.find? (fun x => x.id = 1) = some l ∧ l.ended = false ∧ (∀ x ∈ s.launches, x.queue = l.queue → x.id < l.id → x.admitted = true ∨ x.ended = true) ∧
      (s.partById l.part).gang.changing = false ∧ l.gang = (s.partById l.part).gang.current ∧ s.resumesFirst l.part = false ∧
      s.issueNames 1 = some (0, 1) ∧ s.backLeases l (s.poolUsed l) s.memUsed 0 l.leases = some [] ∧ l.mbox ≠ 0 ∧ (2 ^ 32 - 1 : Nat) < 2 ^ 32 := by decide +kernel
theorem witness_LaunchesAreTakenAdmittedAndEnded_places :
    let s := asked true [0]; let l := { codeLaunch 1 0 0 with admitted := true, unplaced := [0], leases := [] }
    s.gangRuns l = true ∧ s.resumesFirst l.part = false ∧ s.nextPlaced l = some 0 ∧ s.frames.find? (fun x => x.name = l.name s.board.module 0) = none ∧
      s.lastSweep < ({ s with cycle := 65536 } : State).cycle / 65536 * 65536 ∧ (∀ l ∈ s.launches, l.sample = none) ∧
      (true, 3, 3).1 = true ∧ ((true, 3, 3) : Bool × Nat × Nat).2.1 = 3 := by decide +kernel
/-- A partition without dies has no octet; a launch without levels asks for none. -/
theorem witness_LaunchesAreTakenAdmittedAndEnded_instances :
    let s := asked false []; let l := codeLaunch 1 0 0
    s.instancesFor 9 1 [⟨1, 0, 0⟩] = none ∧ s.instancesFor l.part l.groups [] = some [] ∧ l.completion + 32 ≤ 2 ^ 39 := by decide +kernel
/-- Whichever place in main memory the scheduler prefers (log 11), the group's private areas find one. -/
theorem witness_LaunchesAreTakenAdmittedAndEnded_room :
    let s := asked true [0]; let l := { codeLaunch 1 0 0 with admitted := true, unplaced := [0], leases := [] }
    (s.placeNew l 0 false).isSome = true := by
  intro s l
  have used : s.memUsed = [(0x1000000000 + (2 ^ 39 - 2 ^ 22), 2 ^ 22), (0x1000000000, 0)] := by decide +kernel
  have seat : (s.seat l 0 false).isSome = true := by decide +kernel
  obtain ⟨a, first, ⟨x, rfl⟩, high⟩ : ∃ a, s.newArea l (2 ^ 20) 0 0x8000 0x8000 = some (a, { s with areas := s.areas ++ [(l.id, a, 0x8000)] }) ∧
      (∃ x, a = 0x1000000000 + x * 0x8000) ∧ a + 0x8000 ≤ 0x9000000000 := by
    obtain ⟨i, hi, hx⟩ : ∃ i, i ≤ 128 ∧ (Config.preferred l.id (2 ^ 20) 0 % 2 ^ 24 + i) % 2 ^ 24 < 2 ^ 24 - 128 := by
      have h := Nat.mod_lt (Config.preferred l.id (2 ^ 20) 0) (show 0 < 2 ^ 24 by decide)
      rcases Nat.lt_or_ge (Config.preferred l.id (2 ^ 20) 0 % 2 ^ 24) (2 ^ 24 - 128) with g | g
      · exact ⟨0, by omega, by omega⟩
      · exact ⟨2 ^ 24 - Config.preferred l.id (2 ^ 20) 0 % 2 ^ 24, by omega, by omega⟩
    refine newArea_some i (by rw [used]; simp; omega) (by omega) ?_
    rw [used]; intro u hu; simp only [List.mem_cons, List.not_mem_nil, or_false] at hu
    rcases hu with rfl | rfl <;> simp only [overlaps, Bool.and_eq_false_iff, decide_eq_false_iff_not] <;> omega
  obtain ⟨b, second, -⟩ : ∃ b, State.newArea l (2 ^ 20 + 1) 0 (Config.logPages l.id % (2 ^ 18 + 1) * 4096) 4096
      { s with areas := s.areas ++ [(l.id, 0x1000000000 + x * 0x8000, 0x8000)] } = some b ∧ True := by
    have more : State.memUsed { s with areas := s.areas ++ [(l.id, 0x1000000000 + x * 0x8000, 0x8000)] } =
      (0x1000000000 + x * 0x8000, 0x8000) :: s.memUsed := rfl
    have h := Nat.mod_lt (Config.preferred l.id (2 ^ 20 + 1) 0) (show 0 < 2 ^ 27 by decide)
    have k := Nat.mod_lt (Config.logPages l.id) (show 0 < 2 ^ 18 + 1 by decide)
    generalize hn : Config.logPages l.id % (2 ^ 18 + 1) = n at *
    obtain ⟨i, near, fits, low, clear⟩ : ∃ i, i < 4 * n + 1039 ∧
        (Config.preferred l.id (2 ^ 20 + 1) 0 % 2 ^ 27 + i) % 2 ^ 27 + n ≤ 2 ^ 27 - 1024 ∧ x * 8 + 8 ≤ 2 ^ 27 ∧
        ((Config.preferred l.id (2 ^ 20 + 1) 0 % 2 ^ 27 + i) % 2 ^ 27 + n ≤ 8 * x ∨ 8 * x + 8 ≤ (Config.preferred l.id (2 ^ 20 + 1) 0 % 2 ^ 27 + i) % 2 ^ 27) := by
      generalize Config.preferred l.id (2 ^ 20 + 1) 0 % 2 ^ 27 = p at *
      by_cases good : p + n ≤ 2 ^ 27 - 1024 ∧ (p + n ≤ 8 * x ∨ 8 * x + 8 ≤ p)
      · exact ⟨0, by omega, by omega, by omega, by omega⟩
      · by_cases behind : p < 8 * x + 8 ∧ 8 * x + 8 + n ≤ 2 ^ 27 - 1024
        · exact ⟨8 * x + 8 - p, by omega, by omega, by omega, by omega⟩
        · by_cases start : n ≤ 8 * x
          · exact ⟨2 ^ 27 - p, by omega, by omega, by omega, by omega⟩
          · exact ⟨2 ^ 27 - p + 8 * x + 8, by omega, by omega, by omega, by omega⟩
    obtain ⟨a, h, -⟩ := newArea_some (l := l) (which := 2 ^ 20 + 1) (part := 0) (size := n * 4096) (align := 4096)
      (s := { s with areas := s.areas ++ [(l.id, 0x1000000000 + x * 0x8000, 0x8000)] }) i
      (by rw [more, used]; simp; omega) (by omega) (by
        rw [more, used]; intro u hu; simp only [List.mem_cons, List.not_mem_nil, or_false] at hu
        rcases hu with rfl | rfl | rfl <;> simp only [overlaps, Bool.and_eq_false_iff, decide_eq_false_iff_not] <;> omega)
    exact ⟨_, h, trivial⟩
  unfold State.placeNew
  obtain ⟨⟨c, d⟩, hc⟩ := Option.isSome_iff_exists.mp seat
  simp only [hc, first, second]
  rfl
/-- A blocked group on the one octet where a waiting group could stand. -/
theorem witness_LaunchesAreTakenAdmittedAndEnded_parks :
    let l := { codeLaunch 1 0 0 with unplaced := [5], levels := [⟨8, 0, 0⟩], instances := [2], part := 9, groups := 8 }
    let s := { base.mapGrp (fun g => { g with blockedFor := 4096, launch := 1 }) with launches := [l] }
    s.gangRuns l = true ∧ s.nextPlaced l = none ∧ (∀ c ∈ s.groupsOf l.id, 4096 ≤ c.grp.blockedFor ∧ (c.grp.sysact = true → c.grp.preempt = some true)) ∧
      ((l.unserved l.unplaced (((s.groupsOf l.id).filter fun c => c.grp.preempt == some true).map (·.at_))).findSome? (s.toPark l)).isSome = true := by
  decide +kernel
theorem test_launch :
    (after (exec (.launchPacket 3) (hosted 1)) (fun t => t.launches.length == 1 && t.nextLaunch == 2) &&
     after (exec (.launchPacket 3) (hosted 0)) (fun t => t.interrupts == [{ port := 0, fn := 0, vector := 0 }] && t.launches == []) ) = true := by
  decide +kernel
def Sys2Proof.Tests.sleeping : State := (base.mapCore fun c => { c with asleep := some 5 }).mapSlot fun sl => { sl with progress := .sleeping false }
def Sys2Proof.Tests.twinned : State :=
  base.mapGrp fun g => { g with twin := some { primary := true, partner := { x := 9, y := 9 }, made := 1, matched := 0, hashes := [(7, 0)], waiting := [],
                                               records := [], suspects := [] } }
theorem witness_KillsRestartsAndConfirmationsHappen :
    let s := handler 0xF1 3 0x77 (base.mapGrp fun g => { g with trapQueue := [0] })
    let k := base.mapGrp fun g => { g with stopped := true, sealed := true }
    let r := { { k with directory := [entry true false] }.mapPart 0 (fun p => { p with kills :=
      [{ name := 0, launch := 0, ordinal := 0, cause := 0x45, restarted := true, lostWrites := false, lostState := false, slots := 1, oldCore := here,
         newCore := some here, cycle := 0, value := 0, logTail := 0, logPub := 0, replayed := 0, lost := 0 }] }) with ticks := 0 }
    let h := flying (packet (.twinHash 7) (.core here)) twinned
    s.grp.trapQueue = 0 :: [] ∧ s.core.vacant = false ∧ s.grp.stopped = false ∧ (s.grp.slot 3).active = false ∧ s.core.swap = none ∧ s.grp.sysact = false ∧
      (s.grp.handler 0xF1).testBit 31 = true ∧ base.alive = true ∧ base.grp.twin = none ∧
      ((base.mapSlot fun sl => { sl with progress := .sealing }).grp.slot 0).progress = .sealing ∧ base.portClear = true ∧
      ((base.mapSlot fun sl => { sl with progress := .arrived 1 }).grp.slot 0).progress = .arrived 1 ∧ base.unitArrived 1 = true ∧
      sleeping.core.asleep = some 5 ∧ (sleeping.grp.slot 0).progress = .sleeping false ∧ (5#64).toNat ≤ ({ sleeping with cycle := 5 } : State).cycle ∧
      r.isHere 0 = true ∧ r.mayRestart r.grp.launch = true ∧ (∀ c ∈ r.others, c.vacant = true ∨ c.grp.name ≠ 0) ∧
      ({ r with launches := r.launches.map fun (l : Launch) => { l with gang := 1 } } : State).mayRestart r.grp.launch = false ∧ r.grp.stopped = true ∧ r.grp.ended = false ∧ r.grp.log = [] ∧ r.dirEntry 0 = some (entry true false) ∧
      (r.lastKill (r.killPart r.grp) 0).bind (·.newCore) = some r.core.at_ ∧ (r.grp.slot 0).active = true ∧
      h.net[0]? = some (packet (.twinHash 7) (.core here)) ∧ h.grp.twin.map (·.hashes) = some [(7, 0)] ∧ h.grp.twin.map (·.partner) ≠ some h.core.at_ ∧ h.alive = true ∧ h.core.swap = none ∧
      0 + 65536 ≤ ({ h with cycle := 65536 } : State).cycle := by decide +kernel
theorem test_kills :
    (after (exec (.groupKill .coreError true) base) (fun t => t.grp.stopped && !t.grp.ended && t.grp.sealed && t.part.kills.length == 1) &&
     after (exec (.groupKill .killInstr false) base) (fun t => t.grp.ended && !(t.grp.slot 0).active) &&
     after (exec .sleepcWake { sleeping with cycle := 5 }) (fun t => t.core.asleep == none && (t.grp.slot 0).pc == 1) &&
     after (exec (.twinHashArrival 0) (flying (packet (.twinHash 7) (.core here)) twinned)) (fun t => (t.grp.twin.map (·.matched)) == some 1)) = true := by
  decide +kernel
/-- A header with its check, by the CRC-32C of its bits (R356). -/
def Sys2Proof.Tests.header (n : Nat) : BitVec 256 := BitVec.ofNat 256 n ||| (headerCheck (BitVec.ofNat 256 n)).setWidth 256 <<< 224
theorem witness_ErrorsAndAgeingAreHandled :
    let p := packet (.msg (msg 0 0x20)) .directory; let s := logged [record] base; let e := base.mapCore fun c => { c with evacuating := some 0 }
    let k := s.mapGrp fun g => { g with stopped := true, sealed := true }
    (flying p base).net[0]? = some p ∧ p.stomped = false ∧ ({ p with stomped := true } : Packet).stomped = true ∧ headerOk (header 0x1234) = true ∧
      headerOk (header 0x1234 ^^^ 1) = false ∧ header 0x1234 ^^^ 1 ≠ (msg 0 0x20).wire ∧ base.core.retired = false ∧ s.alive = true ∧ s.grp.twin = none ∧ s.core.swap = none ∧
      0 < s.grp.log.length ∧ s.killPart s.grp = s.part.id ∧ e.core.evacuating = some 0 ∧ e.core.vacant = false ∧ e.grp.stopped = false ∧ e.grp.ended = false ∧
      0 + 2700000000 ≤ ({ base with cycle := 2700000000 } : State).cycle ∧ k.core.vacant = false ∧ k.grp.stopped = true ∧ k.grp.ended = false ∧
      ((octet [job true (.tzero 1)] base).octet (octetOf here)).jobs.find? (fun j => j.running && j.kind.onUnit .matrix) = some (job true (.tzero 1)) ∧
      ((octet [job true (.copy copy)] base).octet (octetOf here)).jobs.find? (·.running) = some (job true (.copy copy)) ∧
      ((octet [job true (.copy copy)] base).octet (octetOf here)).number = octetOf here ∧
      (∀ x ∈ base.others, x.at_ ≠ base.core.at_) ∧ 4 * base.board.fwWidth ≤ here.x ∧ base.board.failed = false ∧ 650000 < base.placeableCount := by decide +kernel
/-- The table of CRC-32C gives 8A9136AA for 32 bytes of zero. -/
theorem test_crc : ~~~((upTo 256).foldl (fun c _ => crcBit false c) (BitVec.allOnes 32)) = 0x8A9136AA#32 := by decide +kernel
theorem witness_DirectoryErrorAndAgeingEventsComplete :
    let p := packet (.msg (msg 0 0x20)) .directory; let w := packet (.msg (msg 0 0x20)) .sump; let u := packet (.dirUpdate 0 here 1) .directory
    let e := base.mapCore fun c => { c with evacuating := some 0 }
    (flying p base).net[0]? = some p ∧ (flying p base).turnAt 0 p = true ∧ (flying w base).turnAt 0 w = true ∧ u.body = .dirUpdate 0 here 1 ∧
      (flying u base).net[0]? = some u ∧ headerOk (header 0x1234 ^^^ 1) = false ∧ header 0x1234 ^^^ 1 ≠ (msg 0 0x20).wire ∧ e.core.vacant = false ∧ e.grp.stopped = false ∧ e.grp.ended = false ∧
      e.grp.twin = none ∧ e.core.swap = none ∧ e.core.evacuating = some 0 := by decide +kernel
/-- KILL of a group on another core and of one that is saved, with the restart bit and without it. -/
theorem witness_PrivilegedInstructionsActOrTrap_kills :
    let e := { entry false false with name := 0x500 }; let g := { base.grp with self := 0x500 }
    let s : State := { system base with directory := [e], others := [{ base.core with at_ := { x := 5, y := 0 }, grp := g }] }
    let f : State := { system base with directory := [e], frames := [frame g] }
    (0x8000000000000500#64).extractLsb' 40 23 = 0 ∧ (0x10000000500#64).extractLsb' 40 23 ≠ 0 ∧ (0x8000000000000500#64).getLsbD 63 = true ∧
      s.systemLevel = true ∧ s.slot.progress ≠ .sealing ∧ s.dirEntry 0x500 = some e ∧ e.residence ≠ .released ∧ Safety.apart (s.cores.map (·.at_)) = true ∧
      s.isKilled 0x500 = false ∧ s.isHere 0x500 = false ∧ (s.holder 0x500).map (fun c => (c.grp.twin.isNone, c.swap.isNone)) = some (true, true) ∧
      f.systemLevel = true ∧ f.dirEntry 0x500 = some e ∧ f.isKilled 0x500 = false ∧ f.isHere 0x500 = false ∧ f.holder 0x500 = none ∧
      f.frames.find? (fun x => x.name = 0x500) = some (frame g) ∧ ({ e with residence := .released } : DirEntry).residence = .released := by decide +kernel
/-- R350: KILL with the restart bit stops the group on the other core, whose slots it leaves, and waits for the confirmation. -/
theorem test_kill_of_another :
    let s : State := { system base with directory := [{ entry false false with name := 0x500 }], others := [{ base.core with at_ := { x := 5, y := 0 }, grp := { base.grp with self := 0x500 } }] }
    (after (exec (.kill 1) (reg 1 0x8000000000000500 s)) (fun t => t.stalled && t.slot.progress == .sealing && !t.grp.sealed &&
      (t.coreAt { x := 5, y := 0 }).map (fun c => c.grp.sealed && c.grp.stopped && !c.grp.ended && (c.grp.slot 0).active) == some true)) = true := by decide +kernel
theorem witness_GroupsArePreemptedAndResumed :
    let r := base.mapGrp fun g => { g with preempt := some false }; let s := r.mapGrp fun g => { g with sysact := true }
    let l := { codeLaunch 0 0 0 with saveBase := 0x7FFFFF0000, saveSize := 45056 }; let u := { s with launches := [l] }
    let v := { State.reset with launches := [l], frames := [frame base.grp] }; let g := base.part.gang
    base.alive = true ∧ base.grp.isSecondary = false ∧ base.grp.preempt = none ∧ r.grp.preempt = some false ∧ r.grp.sysact = false ∧ r.core.swap = none ∧
      r.grp.trapact = false ∧ r.grp.trapQueue = [] ∧ (r.grp.slot 3).active = false ∧ r.jobsTouch r.grp = false ∧ r.core.asleep = none ∧
      u.grp.sysact = true ∧ u.core.quiet = true ∧ u.grp.drained = true ∧ u.launch? = some l ∧ u.freeFrame l = some 0x7FFFFF0000 ∧ u.grp.imageFits = true ∧ u.core.held = [] ∧ u.core.fills = [] ∧ u.grp.twin = none ∧ 0x7FFFFF0000 + 0x8000 ≤ 2 ^ 39 ∧
      v.frames.find? (fun y => y.name = 0) = some (frame base.grp) ∧ v.launches.find? (fun l => l.id = base.grp.launch) = some l ∧
      l.isTwin base.grp.ordinal = false ∧ base.grp.stopped = false ∧ v.gangRuns l = true ∧ l.unplaced.contains base.grp.ordinal = false ∧
      v.isFree l.part here = true ∧ l.mayStand base.grp.ordinal here = true ∧ (∀ q ∈ v.sump, q.1 ≠ 0) ∧ v.hasRoom l base.grp.ordinal false = true ∧ v.mem.wf = true ∧
      (∀ p ∈ v.net, p.place = .sump → p.isFor 0 = false) ∧ (v.loadFrame (frame base.grp)).reorder = [] ∧
      g.changing = false ∧ g.slice < ({ base with cycle := 50000000000 } : State).sliceNow g ∧ (∀ c ∈ base.cores, base.outgoing c = false) ∧ base.inProcessing = false ∧ (asked false []).inProcessing = true ∧
      ({ base with launches := base.launches.map fun (l : Launch) => { l with gang := 1 } } : State).outgoing base.core = true := by decide +kernel
theorem test_preemption :
    let l := { codeLaunch 0 0 0 with saveBase := 0x1000, saveSize := 45056 }
    (after (exec .preemptionStart { base.mapGrp (fun g => { g with preempt := some false, sysact := true }) with launches := [l] })
       (fun t => t.core.vacant && t.frames.length == 1) &&
     after (exec (.resumption 0 here) { State.reset with launches := [l], frames := [frame base.grp] }) (fun t => !t.core.vacant && t.frames == [])) = true := by
  decide +kernel
/-- R365: the origin t0 is the first instant. -/
theorem test_slices :
    after (exec .sliceInstant (base.mapPart 0 fun p => { p with gang := { p.gang with slice := -1 } })) (fun t => t.part.gang.changing && t.part.gang.slice == 0 && after (exec .sliceInstant t) fun u => u.stalled) = true := by
  decide +kernel

/-! ### Events of the fabric, and the machine -/

def Sys2Proof.Tests.flit (n : Nat) : Flit := { vc := 0, module := 0, flow := 47, number := n, count := 1, returns := [], packet := packet (.msg (msg 0 0x20)) .directory }
def Sys2Proof.Tests.port (f : FabricPort → FabricPort) : State :=
  { State.reset with ports := State.reset.ports.map f, board := { State.reset.board with pod := [0, 1] } }
theorem witness_FabricCollectivesAndCountersHappen :
    let x := { FabricPort.reset with incoming := [flit 3], taken := [(0, 0, 3)] }; let s := port fun _ => x
    let y := { FabricPort.reset with incoming := [flit 2], taken := [(0, 0, 3)] }
    let m := { msg 0 0x20 with dest := 0x10000500 }
    let o := { port id with net := [packet (.msg m) (.fabric 1)] }; let hit := (upTo 48).find? fun n => (o.outbound n 0).isSome
    let k : Chunk := { coll := 5, edge := none, number := 0, data := [1], ack := false }
    s.ports[47]? = some x ∧ x.failed = false ∧ x.incoming.find? (fun f => f.vc = 0) = some (flit 3) ∧ s.flowTaken (flit 3) < (flit 3).number + (flit 3).count ∧
      (flit 2).number + (flit 2).count ≤ (port fun _ => y).flowTaken (flit 2) ∧ [flit 2].findIdx? (fun f => f.vc == 0) = some 0 ∧
      FabricPort.reset.again.findIdx? (fun f => f.vc == 0) = none ∧ (flit 2).count ≤ FabricPort.reset.credit 0 ∧ ({ FabricPort.reset with credits := Vector.replicate 8 0 } : FabricPort).credit 0 < (flit 2).count ∧ (∀ f ∈ [flit 2], 1 ≤ f.count) ∧ FabricPort.reset.credit 0 < 129 ∧ hit.isSome = true ∧ (hit.bind fun n => o.outbound n 0).map (·.2.2) = some 1 ∧
      o.board.pod.contains 1 = true ∧ o.resends 0 1 = false ∧ (port fun _ => { FabricPort.reset with again := [flit 2] }).resends 0 0 = true ∧ (hosted 2).unstarted 3 = false ∧ (packet (.msg m) (.fabric 1)).fabricFlits ≤ FabricPort.reset.credit 0 ∧ State.reset.board.pod.contains 1 = false ∧
      m.cls ≠ 1 ∧ (1 : Nat) ≠ o.board.module ∧
      ((hosted 2).packetDue 3).map (fun x => (x.1.overrun, x.2.ok 1, x.1.fenced x.2, x.2.kind)) = some (false, true, false, 2) ∧
      ((hosted 2).packetDue 3).map (fun x => (hosted 2).offsetsOk 0 x.2) = some true ∧ (hosted 2).unitQuiet = true ∧ (hosted 2).colls = [] ∧
      ({ State.reset with chunks := [k] } : State).chunks[0]? = some k ∧ k.ack = false ∧ ({ State.reset with collsDone := [5] } : State).collsDone.contains k.coll = true ∧ State.reset.colls.find? (fun c => c.id = k.coll) = none ∧
      (let ctr := { State.reset.part.ctr with ctl := 20, latched := [{ cycle := 2 ^ 20, ctl := 20, sel := Vector.replicate 4 0, cores := [], absent := Counters.zero, dies := [], retired := [] }] }
       ctr.ctl.toNat % 64 ≠ 0 ∧ ctr.latched ≠ [] ∧ State.reset.board.failed = false ∧ ctr.pending = [] ∧ (ctr.marks 1048575 1).map (·.1) = [1048576]) ∧ State.reset.part.ctr.latched = [] ∧
      State.reset.part.ctr.ctl.toNat % 64 = 0 ∧ ({ State.reset.part.ctr with pending := [(8, 1)] } : CounterPage).pending ≠ [] := by decide +kernel
/-- Slot 1 alone can issue; the other active slot is held back by the turn. -/
theorem witness_StepRunsTheDecodedInstruction :
    let s := State.placeWord 0x04200005 (grpSet (fun g => g.mapSlot 1 id) State.reset)
    let u := { (s.mapGrp fun g => g.mapSlot 1 fun sl => { sl with active := true }) with agenda := [⟨s.core.at_, 0b0010, 0b1000, none⟩] }
    s.agenda = ⟨s.core.at_, 0, 0, none⟩ :: [] ∧ u.issues = true ∧ (0b0010#4).getLsbD 0 = false ∧ (u.grp.slot 0).active = true ∧ (u.grp.slot 0).susp = false ∧ (u.grp.slot 0).yielded = false ∧ (0b1000#4).getLsbD 0 = false ∧ s.colls = [] ∧
      (∀ c ∈ s.cores, c.evacuating = none ∧ ∀ j, (c.grp.slot j).errors = []) ∧
      (∀ j : SlotId, j ≠ 0 → (u.grp.slot j).active = false ∨ (u.grp.slot j).susp = true ∨ (0b0010#4).getLsbD j.toNat = true) ∧
      u.nextWord 0 = some 0x04200005 ∧ reads 0x04200005 (.addi 1 0 5) = true ∧ u.hazard (.addi 1 0 5) 0 = false ∧
      after (exec (.addi 1 0 5) (u.aim 0)) (fun v => !v.stalled) = true ∧ after (exec .wfe (u.aim 0)) (fun v => v.stalled) = true ∧
      isEvent .sweepStart = true ∧ Instr.sweepStart.wellFormed = true ∧ (∀ c ∈ s.others, c.at_ ≠ s.core.at_) := by decide +kernel
theorem witness_FetchesTrapAtMissingAndReservedWords :
    let s := State.placeWord 0xB0000000 State.reset; let e := s.mapSlot fun sl => { sl with pc := 1 }
    s.launch?.map (·.code) = some [0xB0000000] ∧ (s.grp.slot 0).pc.toNat < 1 ∧ 1 ≤ (e.grp.slot 0).pc.toNat ∧ s.nextWord 0 = some 0xB0000000 ∧
      rejects 0xB0000000 .major = true ∧ s.nextInstr 0 = .reservedInstruction 0xB0000000 ∧ e.nextInstr 0 = .instructionAddressTrap := by decide +kernel
theorem witness_TheChoiceFollowsWaitLevelAndAge :
    let g := base.grp; let w := g.mapSlot 1 fun sl => { sl with wait := 256 }
    g.choose [0, 1, 2, 3] = some 3 ∧ g.choose [0, 1] = some 0 ∧ w.choose [0, 1, 2, 3] = some 1 ∧ g.choose [] = none := by decide +kernel
theorem witness_DecodingAnEncodedInstructionGivesItBack :
    encode (.addi 1 0 5) = some 0x04200005 ∧ (Instr.addi 1 0 5).wellFormed = true ∧ reads 0x04200005 (.addi 1 0 5) = true := by decide +kernel
theorem witness_EveryStepKeepsTheInvariant : Safety.inv base = true ∧ Safety.inv (swapping .locked) = true := by decide +kernel

/-! ### What holds an instruction or an event off -/

def Sys2Proof.Tests.tagged (x : LoadTag) (s : State) : State := s.mapCore fun c => { c with tags := x :: c.tags }
/-- The instruction waits. -/
def Sys2Proof.Tests.stalls (i : Instr) (s : State) : Bool := after (exec i s) fun t => decide (t = s.stall)
/-- A trap activation that handles slot 0, whose access to g1 is outstanding. -/
def Sys2Proof.Tests.owed : State :=
  inSlot 3 (tagged load (base.mapGrp fun g => { (g.mapSlot 0 fun sl => { sl with susp := true }) with trapact := true, trapSlot := 0 }))
theorem witness_ActivationControlCompletes_waits :
    ¬((tagged load base).k = 3 ∧ (tagged load base).grp.trapact = true) ∧ ∃ x ∈ (tagged load base).core.tags, x.slot = (tagged load base).k := by decide +kernel
theorem witness_PrivilegedRegistersAreGuardedAndReached_owed :
    (owed.grp.slot 0).susp = true ∧ (∃ x ∈ owed.core.tags, x.slot = owed.grp.trapSlot ∧ x.dest = .g 1) ∧
      ∀ x ∈ owed.core.tags, ¬(x.slot = owed.grp.trapSlot ∧ x.dest = .g 2) := by decide +kernel
/-- R25: the stopped slot's g1 waits for the access that is to write it. -/
theorem test_owed_register : (stalls (.mfsp 1 3 0x41) owed && stalls (.mtsp 1 3 0x41) owed && !stalls (.mfsp 1 3 0x42) owed) = true := by decide +kernel
theorem witness_SendsTakeAnEntryTrapOrWait_mailbox :
    let s := talk.mapGrp fun g => { g with mbox := [.running] }
    s.grp.freeMbox = none ∧ s.grp.injFree .request = true ∧ s.target descriptor 0 = some (0x500, some 5) := by decide +kernel
/-- A notice of a register write, one of a request that waits for a reply, and what each lacks. -/
def Sys2Proof.Tests.noted (cls : BitVec 3) (rslot : BitVec 8) : State :=
  reg 1 0x8000000000000000 (reg 2 0x1000 (well 0x1000 { msg cls 0xFD with source := base.grp.name, otype := 0x11, rslot := rslot }.image
    (base.mapGrp fun g => { g with mbox := [.running, .free] })))
theorem witness_NoticesAreResentAndRepliesAnswer_forms :
    let m (s : State) : Msg := Msg.ofImage (leNat (s.localBytes 0x1000 32)) (s.localBytes (0x1000 + 32) 128); let w := noted 3 0xFF; let r := noted 0 4
    (m w).cls = 3 ∧ (m w).mtype = 0xFD ∧ (m w).source = w.grp.name ∧ (m w).rslot = 0xFF ∧ w.grp.injFree .register = true ∧
      (filled .register 8 w).grp.injFree .register = false ∧ (m r).cls = 0 ∧ (m r).rslot ≠ 0xFF ∧ r.grp.freeMbox = some 1 ∧ r.grp.injFree .request = true ∧
      (r.mapGrp fun g => { g with mbox := [.running] }).grp.freeMbox = none ∧ (filled .reply 16 base).grp.injFree .reply = false := by decide +kernel
/-- R192: a resent request takes a new mailbox entry for its reply, and SENDR answers the entry's address. -/
theorem test_resend :
    (after (exec (.noticeResend true 3 1 2) (noted 0 4)) (fun t => t.grp.inj.map (·.msg.rslot) == [1] && t.getG 3 == 0x8A0) &&
     stalls (.noticeResend false 3 1 2) ((noted 0 4).mapGrp fun g => { g with mbox := [.running] }) && stalls (.noticeResend true 3 1 2) (filled .register 8 (noted 3 0xFF))) = true := by
  decide +kernel
theorem witness_RegisterWritesAndHolds_waits :
    let s := chan 5 { Chan.closed with isOpen := true, kind := 2, peer := 0x500 } base; let w : Word := 0x11401F0000000000
    s.target w 2 = some (0x500, some 5) ∧ (s.mapGrp fun g => { g with busy := 0x80000000 }).rowFree 31 = false ∧ (filled .register 8 s).rowFree 31 = true ∧
      (filled .register 8 s).grp.injFree .register = false ∧ w.getLsbD 62 = false ∧ (w ||| 0x4000000000000000).getLsbD 62 = true ∧
      (s.mapGrp fun g => { g with busy := 0x80000000 }).grp.busy.getLsbD 31 = true ∧ ∃ t ∈ (tagged { load with dest := .v 31 } s).core.tags, t.dest = .v 31 := by decide +kernel
theorem witness_QueueAndChannelInstructions_uses :
    let s := (chan 5 { Chan.closed with isOpen := true, peer := 0x500 } base).mapGrp fun g =>
      { g with inj := [{ waiting none with msg := { msg 0 1 with seqd := true, chan := 5 } }] }
    (5#64).extractLsb' 6 58 = 0 ∧ (s.grp.chan 5).isOpen = true ∧ ∃ x ∈ s.grp.inj, x.msg.seqd = true ∧ x.msg.chan = 5 := by decide +kernel
theorem test_channel_close :
    let s := reg 1 5 (chan 5 { Chan.closed with isOpen := true, peer := 0x500 } base)
    (after (exec (.chclose 1) s) (fun t => t.grp.well.readN 80 16 == List.replicate 16 0 && t.slot.pc == 1) &&
     stalls (.chclose 1) (s.mapGrp fun g => { g with inj := [{ waiting none with msg := { msg 0 1 with seqd := true, chan := 5 } }] })) = true := by decide +kernel
theorem witness_BarriersArriveAndWait_log :
    let s := logged [record] launched
    s.level? 1 = some { count := 3, domain := 0, fence := 1 } ∧ s.slot.progress = .none ∧ s.grp.released .pod s.grp.logTail = false := by decide +kernel
def Sys2Proof.Tests.lanesBusy (v : VReg) : State := base.mapGrp fun g => { g with busy := 1#32 <<< v.toNat }
/-- An unbound queue, a queue with too few words, and a row that is busy or still to be written, for each operand. -/
theorem witness_sourceHolds :
    let w := lanesBusy 1; let x := tagged { load with dest := .v 1 } base
    (base.grp.queue 3).bound = false ∧ ((queued 3 15 base).grp.queue 3).bound = true ∧ ((queued 3 15 base).grp.queue 3).words.length < 16 ∧
      (∃ v ∈ [1, 2], w.rowFree v = false) ∧ (∃ v ∈ [1], x.rowFree v = false) ∧ w.rowFree 3 = true ∧ (lanesBusy 3).rowFree 3 = false := by decide +kernel
/-- R125 and R122: the illegal-operand trap of an unbound queue comes before the wait for a row. -/
theorem test_vector_waits :
    (after (exec (.vaddF .f32 1 2 3 0 15) (lanesBusy 1)) (fun t => t.grp.ended) && stalls (.vaddF .f32 1 2 3 0 15) (queued 3 15 base) &&
     stalls (.vrsumI .i32 1 3 0 14) (lanesBusy 3) && stalls (.vceqF .f32 1 2 3 0 14) (tagged { load with dest := .v 2 } base)) = true := by decide +kernel
theorem witness_ConversionsFillTheLowLanes_waits :
    (lanesBusy 1).rowFree 1 = false ∧ (octet [job false (.dtload [])] table).tablePending = true ∧ (3#5).toNat ≤ 3 := by decide +kernel
/-- Accesses to a page that the TLB lacks, whole or from its second page on; with every tag taken, behind an acquire, and with a full log. -/
def Sys2Proof.Tests.tagsTaken (s : State) : State := s.mapCore fun c => { c with tags := (List.range 8).map fun i => { load with tag := i, dest := .g 9 } }
theorem witness_SharedLoadsAndAtomicsTakeATag_waits :
    let s := mainPage 0x4000 base
    (∃ m, base.core.translate ⟨true, false⟩ 0x4008 8 = .miss m) ∧ (∃ m, s.core.translate ⟨true, false⟩ 0x4FF0 128 = .miss m) ∧
      (∃ m, base.core.translate ⟨true, true⟩ 0x4008 8 = .miss m) ∧ (∃ m, base.core.translate ⟨false, true⟩ 0x4008 128 = .miss m) ∧
      reaches (tagsTaken s) 0x4FF8 8 ⟨true, false⟩ ((List.range 8).map fun i => (0x1000004FF8 + i, false)) ∧ (tagsTaken s).freeTag = none ∧
      (tagged { load with dest := .g 9, acquires := true } s).awaitsAcquire = true ∧ (logged (List.replicate 64 record) s).grp.logRoom 1 = false ∧
      (logged (List.replicate 60 record) s).grp.logRoom 5 = false ∧ (lanesBusy 3).rowFree 3 = false ∧
      (0xFF#64).extractLsb' 8 56 = 0 ∧ (0xFF#64) ≠ 0 := by
  refine ⟨⟨0x4008, ?_⟩, ⟨0x5000, ?_⟩, ⟨0x4008, ?_⟩, ⟨0x4008, ?_⟩, ?_⟩ <;> (try unfold reaches) <;> decide +kernel
/-- R247: a miss waits for the service, and takes neither a tag nor room in the log. -/
theorem test_misses :
    let s := reg 1 0x4008 (reg 2 7 (reg 3 3 base)); let missed (i : Instr) : Bool := after (exec i s) fun t => t.stalled && t.core.misses.any (·.live) && decide (t.grp = s.grp)
    (missed (.sld 4 1) && missed (.sstv 3 1) && missed (.atomAdd .none 4 1 2) && missed (.tlblk 1)) = true := by decide +kernel
theorem witness_ReleasesAcquiresAndTlbInstructions_miss :
    base.core.tlbFind 0x4FFF = none ∧ (base.grp.locked.any fun p => p.holds 0x4FFF) = false ∧ base.grp.locked.length < 12 := by decide +kernel
/-- A lease that does not reach the range, and a word whose page the TLB lacks. -/
theorem witness_EngineInstructionsEnqueueJobs_ranges :
    let sw := wordsOf (0x8000000000004FF8#64) 2 8 8; let s := mainPage 0x4000 base; let bad := page 0x5000 0 s; let u := mainPage 0x5000 s
    let outcome (s : State) : Option (List Nat × Option Nat) := match s.checkRanges sw [] [] with | .inr (_, ps, m) => some (ps, m) | .inl _ => none
    sw = [0x4FF8, 0x5000] ∧ outcome s = some ([0x1000004FF8], some 0x5000) ∧ outcome u = some ([0x1000005000, 0x1000004FF8], none) ∧ outcome bad = none := by
  decide +kernel
/-- Outputs of a primary and of a secondary; a credit for both. -/
def Sys2Proof.Tests.replica (primary : Bool) (at_ : Coord) (s : State) : State :=
  s.mapGrp fun g => { g with twin := some { primary := primary, partner := at_, made := 1, matched := 0, hashes := [(7, 0)], waiting := [], records := [], suspects := [] } }
def Sys2Proof.Tests.streaming : State := queued 7 17 (chan 5 { Chan.closed with isOpen := true, kind := 1, queue := 7, credits := 16, peer := 0x500 } base)
def Sys2Proof.Tests.credited : State :=
  let s := replica true { x := 9, y := 9 } streaming
  flying (packet (.credit 0 5 7) (.core here)) { s with others := [{ s.core with at_ := { x := 9, y := 9 }, grp := (replica false here streaming).grp }] }
theorem witness_EntriesLeaveTheCoreAndAreAnswered_twins :
    (∀ b, (replica b here (injecting (waiting none))).grp.twin.map (·.primary) = some b) ∧ credited.isHere 0 = true ∧ credited.net[0]? = some (packet (.credit 0 5 7) (.core here)) ∧
      credited.answerTurn 0 (packet (.credit 0 5 7) (.core here)) = true ∧ credited.grp.twin.map (·.partner) = some { x := 9, y := 9 } ∧
      Safety.apart (credited.cores.map (·.at_)) = true ∧ (credited.coreAt { x := 9, y := 9 }).isSome = true ∧ (credited.grp.chan 5).isStream = true ∧
      4 ≤ (credited.grp.chan 5).queue := by decide +kernel
/-- R357: of a replica only a hash leaves, and a credit serves both. -/
theorem test_twin_outputs :
    let hash (t : State) : Bool := match t.net with | [p] => (match p.body with | .twinHash _ => decide (p.place = .core { x := 9, y := 9 }) | _ => false) | _ => false
    let r (b : Bool) := replica b { x := 9, y := 9 } (injecting (waiting none))
    (after (exec (.injection 0) (r true)) (fun t => hash t && (t.grp.twin.map fun u => u.waiting.length) == some 1) &&
     after (exec (.injection 0) (r false)) (fun t => hash t && (t.grp.twin.map fun u => u.waiting.length) == some 0) &&
     after (exec (.creditReturn 0) credited) (fun t => (t.grp.chan 5).credits == 23 && (t.coreAt { x := 9, y := 9 }).map (fun c => (c.grp.chan 5).credits) == some 23)) = true := by
  decide +kernel
/-- A notice that finds its sender's secondary goes on. -/
theorem witness_RepliesStreamsFillsAndNoticesArrive_secondary :
    let n := { msg 2 0x20 with source := 0, dest := 0x500, otype := 0x11 }; let p := packet (.notice n 3) (.core here); let s := flying p (replica false { x := 9, y := 9 } base)
    s.net[0]? = some p ∧ s.ownEntry n 3 = false ∧ s.turnAt 0 p = true ∧ p.copy = false ∧ s.portHolds = false ∧ s.grp.isSecondary = true ∧ s.pointer n.source = none := by
  decide +kernel
theorem test_notice_at_secondary :
    let n := { msg 2 0x20 with source := 0, dest := 0x500, otype := 0x11 }
    after (exec (.noticeArrival 0) (flying (packet (.notice n 3) (.core here)) (replica false { x := 9, y := 9 } base))) (fun t => t.net.map (·.place) == [.directory]) = true := by
  decide +kernel
theorem witness_DirectoryAndSumpHandleMessages_updates :
    let u := packet (.dirUpdate 0 here 2) .directory; (listed (entry false false) u).turnAt 0 u = true := by decide +kernel
/-- A step under .wf whose operands are lent and which ends its batch; one that holds its operands; a copy that finds a lent word. -/
def Sys2Proof.Tests.stepping (x : StepJob) : State :=
  octet [job true (.step x)] (base.mapGrp fun g =>
    { g with records := [{ batch := true, id := 7, state := 2, kind := 0, deliv := 0, parts := [{ part 0 with done := false }] }]
             lent := [{ lo := 0x1000, hi := 0x1400, jobs := [(0, 0)] }, { lo := 0x2000, hi := 0x2400, jobs := [(0, 0)] }] })
theorem witness_JobsStartMoveWordsAndComplete_steps :
    let x : StepJob := { (base.stepJob true .all 0x8010000000000000 0x8020000000000000) with lent := true }
    let h : StepJob := { x with held := some (x.a.rowsIn base.grp.well, x.b.rowsIn base.grp.well) }; let s := stepping x
    let c := (octet [job true (.copy copy)] base).mapGrp fun g => { g with lent := [{ lo := 0x3000, hi := 0x3010, jobs := [(0, 0)] }] }
    (s.octet (octetOf here)).jobs.filter (fun j => j.running && j.kind.onUnit .matrix) = [job true (.step x)] ∧ x.wf = true ∧ x.a.owner = s.grp.name ∧ s.grp.name = (job true (.step x)).owner ∧
      x.held = none ∧ h.held.isSome = true ∧ (s.owner? here x.a.owner).isSome = true ∧ (∃ r ∈ s.grp.records, r.batch = true ∧ r.state ≠ 3 ∧ (∃ p ∈ r.parts, p.serial = 0) ∧
        ∀ p ∈ r.parts, p.serial = 0 ∨ p.done = true) ∧ c.grp.lentAt 0x3008 8 = true ∧ c.fetchWord (job true (.copy copy)) copy 1 = .word (List.replicate 8 0) := by decide +kernel
/-- R295, R296: the end of the batch's last job ends the lending, and .wf empties the words of the step's operands. -/
theorem test_step_ends_batch :
    let x : StepJob := { (base.stepJob true .all 0x8010000000000000 0x8020000000000000) with lent := true }
    (after (exec (.jobComplete .matrix) (stepping x)) (fun t => t.grp.lent == [] && !t.grp.isFull 0x200 && !t.grp.isFull 0x400 && t.grp.isFull 0x600) &&
     stalls .copyWordWrite ((octet [job true (.copy copy)] base).mapGrp fun g => { g with lent := [{ lo := 0x3000, hi := 0x3010, jobs := [(0, 0)] }] })) = true := by
  decide +kernel
/-- Members in two octets: the root's job in one, its child's and a copy in another. -/
def Sys2Proof.Tests.members : State :=
  { base with collVectors := [vector], octets := [{ Octet.empty (octetOf here) with jobs := [job true (.coll member)] },
      { Octet.empty (octetOf { x := 9, y := 9 }) with jobs := [{ job true (.coll { member with member := 1, parent := some 0, child := 1, nchild := 0, sent := true }) with owner := 0x500, at_ := { x := 9, y := 9 } },
        { job true (.copy copy) with serial := 1, owner := 0x500, at_ := { x := 9, y := 9 } }] }] }
theorem witness_JobsStartMoveWordsAndComplete_collectives :
    (members.octets.map (·.number)).Nodup ∧ (∀ y ∈ members.octets, (y.jobs.map fun k => (k.owner, k.serial)).Nodup) ∧
      members.memberJobs vector.coll vector.parent = [(octetOf here, job true (.coll member), member)] ∧ (members.coreAt here).map (·.grp.twin) = some none := by decide +kernel
theorem test_child_vector :
    after (exec (.collChildArrival 0) members) (fun t => t.octets.map (fun o => o.jobs.map fun j => match j.kind with | .coll y => (y.parts.length, y.taken) | _ => (9, false)) ==
      [[(1, false)], [(0, true), (9, false)]]) = true := by decide +kernel
/-- A drained swap whose other core has fallen vacant, and an evacuation's. -/
def Sys2Proof.Tests.drainedAlone (single : Bool) : State :=
  let s := swapping .drained
  { s with core := { s.core with swap := some ⟨{ x := 5, y := 0 }, 0, .drained, single⟩ }
           others := [{ Core.empty { x := 5, y := 0 } with swap := some ⟨here, 0, .drained, single⟩ }] }
theorem witness_SwapsFreezeDrainInstallAndResume_vacant :
    ∀ single, let s := drainedAlone single; let d : Coord := { x := 5, y := 0 }
      s.core.swap = some ⟨d, 0, .drained, single⟩ ∧ (s.coreAt d).map (·.at_) = some d ∧ d ≠ s.core.at_ ∧ (∀ x ∈ s.others, x.at_ ≠ s.core.at_) ∧ s.core.vacant = false ∧
        (s.coreAt d).map (·.swap.isSome) = some true ∧ (s.coreAt d).map (·.vacant) = some true ∧ s.cycle < 0 + 4096 := by decide +kernel
theorem test_swap_to_a_vacant_core :
    after (exec .swapInstall (drainedAlone false)) (fun t => t.core.vacant && (t.coreAt { x := 5, y := 0 }).map (fun c => !c.vacant && c.grp.self == 0) == some true) = true := by decide +kernel
theorem witness_LaunchesAreTakenAdmittedAndEnded_arguments :
    (codeLaunch 1 0 0).args = [] ∧ ({ codeLaunch 1 0 0 with args := [7] } : Launch).args ≠ [] := by decide +kernel
/-- R233: the entry of a launch with an argument block of one byte, and of one with an empty block. -/
theorem test_launch_argument :
    let e (args : List Byte) : List Byte := (({ codeLaunch 1 0 0 with args := args } : Launch).newGroup 0 0 here 0 0 0 0 0).well.readN 0x800 160
    (decide (e [7] ≠ List.replicate 160 0) && e [] == List.replicate 160 0) = true := by decide +kernel
/-- R376: an access to this module's own remote window, with no port left, comes back in error. -/
theorem test_unreachable_module :
    after (exec (.fabricUnreachable 0) { base with net := [{ packet (.msg (msg 0 0x20)) .directory with place := .fabric 0 }] }) (fun t => !t.stalled && t.net.length == 1) = true := by decide +kernel
/-- An ANRUN whose commit has come to its end. -/
theorem witness_StepRunsTheDecodedInstruction_commit :
    let s := State.placeWord 0x04200005 State.reset; let u := s.mapGrp fun g => g.mapSlot 0 fun sl => { sl with progress := .committing }
    (u.grp.slot 0).progress = .committing ∧ (s.grp.slot 0).progress ≠ .committing := by decide +kernel
end

section
/-! SUPPORT. Proofs of the statements on the integer register and immediate operations (spec 06 R95, R96; spec 03 R31, R49):
what the operations of the model on 64-bit values compute, and the two statements assembled from that. -/

open Sys2Proof.Frame

namespace Sys2Proof.Machine

/-! ## An instruction that writes one register -/

/-- The value that an instruction writes may be given in another form. -/
theorem gives_of_result_eq {i : Instr} {s : State} {d : GReg} {v w : Word} (h : exec i s = .next (s.result d v))
    (hl : lag i = 1) (hv : v = w) : gives i s d w :=
  hv ▸ gives_of_result h hl

section
variable {i : Instr} {s : State} {d a : GReg} {imm : BitVec 16} {f : Word → Nat → Word}

/-- R49: an immediate whose bits [15:6] are zero shifts by its bits [5:0]. -/
theorem gives_of_shiftImm (h : exec i s = .next (s.shiftImm d a imm f)) (hl : lag i = 1) (zero : imm.extractLsb' 6 10 = 0) :
    gives i s d (f (s.getG a) (imm.extractLsb' 0 6).toNat) := by
  have amount : imm.toNat % 64 = (imm.extractLsb' 0 6).toNat := by rw [BitVec.extractLsb'_toNat, Nat.shiftRight_zero]
  rw [State.shiftImm, if_neg (not_not_intro zero), amount] at h
  exact gives_of_result h hl
/-- R49: an immediate with a one among its bits [15:6] is an illegal operand. -/
theorem traps_of_shiftImm (h : exec i s = .next (s.shiftImm d a imm f)) (nonzero : imm.extractLsb' 6 10 ≠ 0) :
    traps i s 0x03 (s.ir.setWidth 64) := by
  rw [State.shiftImm, if_pos nonzero] at h
  exact h

end

/-! ## Compares, minima and maxima -/

theorem ofBool_eq_ite {b : Bool} {p : Prop} [Decidable p] (h : b = true ↔ p) : ofBool b = if p then 1 else 0 :=
  ite_congr (propext h) (fun _ => rfl) (fun _ => rfl)
theorem ofBool_bne (x y : Word) : ofBool (x != y) = if x = y then 0 else 1 :=
  (ofBool_eq_ite bne_iff_ne).trans (ite_not ..)

/-- A strict and a weak test of an order choose alike between two words that are equal at a tie. -/
theorem ite_lt_eq_ite_le {α : Type} [LinearOrder α] {m n : α} {v w : Word} (tie : m = n → v = w) :
    (if m < n then v else w) = if m ≤ n then v else w := by
  rcases lt_trichotomy m n with below | equal | above
  · rw [if_pos below, if_pos below.le]
  · rw [tie equal, ite_self, ite_self]
  · rw [if_neg above.not_gt, if_neg above.not_ge]
theorem ite_slt_eq_ite_toInt_le {x y v w : Word} (tie : x = y → v = w) :
    (if x.slt y then v else w) = if x.toInt ≤ y.toInt then v else w := by
  simp only [BitVec.slt_iff_toInt_lt]
  exact ite_lt_eq_ite_le fun h => tie (BitVec.toInt_inj.mp h)
theorem ite_ult_eq_ite_toNat_le {x y v w : Word} (tie : x = y → v = w) :
    (if x.ult y then v else w) = if x.toNat ≤ y.toNat then v else w := by
  simp only [BitVec.ult_iff_toNat_lt]
  exact ite_lt_eq_ite_le fun h => tie (BitVec.eq_of_toNat_eq h)

/-! ## The high halves of products -/

/-- The exact signed product lies between `-2 ^ 126` and `2 ^ 126`, so that its high half is a signed word. -/
theorem toInt_mulHigh (x y : Word) : (BitVec.ofInt 64 (x.toInt * y.toInt / 2 ^ 64)).toInt = x.toInt * y.toInt / 2 ^ 64 := by
  have lower : -2 ^ 126 ≤ x.toInt * y.toInt := BitVec.le_toInt_mul_toInt
  have upper : x.toInt * y.toInt ≤ 2 ^ 126 := BitVec.toInt_mul_toInt_le
  exact BitVec.toInt_ofInt_eq_self (by decide) (by omega) (by omega)
theorem toNat_mulHigh (x y : Word) : (BitVec.ofNat 64 (x.toNat * y.toNat / 2 ^ 64)).toNat = x.toNat * y.toNat / 2 ^ 64 := by
  have product : x.toNat * y.toNat < 2 ^ 64 * 2 ^ 64 := Nat.mul_lt_mul'' x.isLt y.isLt
  rw [BitVec.toNat_ofNat, Nat.mod_eq_of_lt (Nat.div_lt_of_lt_mul product)]

/-! ## Quotients and remainders (R31) -/

theorem divS_zero (x : Word) : divS x 0 = BitVec.allOnes 64 := if_pos rfl
theorem remS_zero (x : Word) : remS x 0 = x := if_pos rfl
theorem divU_zero (x : Word) : divU x 0 = BitVec.allOnes 64 := if_pos rfl
theorem remU_zero (x : Word) : remU x 0 = x := if_pos rfl
theorem divS_of_ne_zero (x : Word) {y : Word} (hy : y ≠ 0) : divS x y = BitVec.ofInt 64 (x.toInt.tdiv y.toInt) := if_neg hy

/-- Off zero the remainder of R31 is the library's, so that it keeps the exact remainder. -/
theorem toInt_remS (x : Word) {y : Word} (hy : y ≠ 0) : (remS x y).toInt = x.toInt.tmod y.toInt := by
  have library : remS x y = x.srem y := by
    rw [remS, if_neg hy, ← BitVec.toInt_srem, BitVec.ofInt_toInt]
  rw [library, BitVec.toInt_srem]
/-- The exact quotient is a signed word but for the one overflow, `-2 ^ 63 / -1`. -/
theorem toInt_divS {x y : Word} (hy : y ≠ 0) (noOverflow : ¬(x.toInt = -2 ^ 63 ∧ y.toInt = -1)) :
    (divS x y).toInt = x.toInt.tdiv y.toInt := by
  have library : (divS x y).toInt = (x.sdiv y).toInt := by
    rw [divS_of_ne_zero x hy, BitVec.toInt_ofInt, BitVec.toInt_sdiv]
  rw [library]
  refine BitVec.toInt_sdiv_of_ne_or_ne x y (not_and_or.mp fun ⟨hx, hy'⟩ => noOverflow ⟨?_, ?_⟩)
  · rw [hx]; decide
  · rw [hy']; decide
theorem ne_zero_of_toInt_eq_neg_one {y : Word} (hy : y.toInt = -1) : y ≠ 0 := by
  rintro rfl
  exact absurd hy (by decide)
theorem divS_overflow {x y : Word} (hx : x.toInt = -2 ^ 63) (hy : y.toInt = -1) : divS x y = x := by
  rw [divS_of_ne_zero x (ne_zero_of_toInt_eq_neg_one hy), ← BitVec.toInt_inj, BitVec.toInt_ofInt, hx, hy]
  decide
theorem remS_neg_one (x : Word) {y : Word} (hy : y.toInt = -1) : remS x y = 0 := by
  rw [← BitVec.toInt_inj, toInt_remS x (ne_zero_of_toInt_eq_neg_one hy), hy, Int.tmod_neg, Int.tmod_one]
  rfl

/-- R31: the signed quotient and remainder, in the three cases of the rule. -/
theorem divS_remS_cases (x y : Word) :
    if y = 0 then (divS x y).toInt = -1 ∧ remS x y = x
    else if x.toInt = -(2 ^ 63) ∧ y.toInt = -1 then divS x y = x ∧ remS x y = 0
    else (divS x y).toInt = x.toInt.tdiv y.toInt ∧ (remS x y).toInt = x.toInt - (divS x y).toInt * y.toInt := by
  split_ifs with zero overflow
  · rw [zero, divS_zero, remS_zero]
    exact ⟨rfl, rfl⟩
  · obtain ⟨minimum, minusOne⟩ := overflow
    exact ⟨divS_overflow minimum minusOne, remS_neg_one x minusOne⟩
  · have quotient := toInt_divS zero overflow
    refine ⟨quotient, ?_⟩
    rw [toInt_remS x zero, quotient, Int.tmod_def, Int.mul_comm]
/-- R31: the unsigned quotient and remainder. -/
theorem divU_remU_cases (x y : Word) :
    if y = 0 then divU x y = BitVec.allOnes 64 ∧ remU x y = x
    else (divU x y).toNat = x.toNat / y.toNat ∧ (remU x y).toNat = x.toNat - (divU x y).toNat * y.toNat := by
  split_ifs with zero
  · rw [zero]
    exact ⟨divU_zero x, remU_zero x⟩
  · have quotient : (divU x y).toNat = x.toNat / y.toNat := by rw [divU, if_neg zero, BitVec.toNat_udiv]
    refine ⟨quotient, ?_⟩
    rw [quotient, remU, if_neg zero, BitVec.toNat_umod, Nat.mod_eq_sub_div_mul]

/-! ## Shifts and rotations, bit by bit (R95) -/

theorem shamt_lt (b : Word) : shamt b < 64 := Nat.mod_lt _ (by decide)
theorem getLsbD_shiftLeft_word (x : Word) (n : Nat) {i : Nat} (hi : i < 64) :
    (x <<< n).getLsbD i = (decide (n ≤ i) && x.getLsbD (i - n)) := by
  rw [BitVec.getLsbD_shiftLeft, decide_eq_true hi, Bool.true_and, ← decide_not, decide_eq_decide.mpr Nat.not_lt]
theorem getLsbD_ushiftRight_word (x : Word) (n i : Nat) : (x >>> n).getLsbD i = x.getLsbD (i + n) := by
  rw [BitVec.getLsbD_ushiftRight, Nat.add_comm]
theorem getLsbD_sshiftRight_word (x : Word) (n : Nat) {i : Nat} (hi : i < 64) :
    (x.sshiftRight n).getLsbD i = if i + n < 64 then x.getLsbD (i + n) else x.getLsbD 63 := by
  rw [BitVec.getLsbD_sshiftRight, decide_eq_false (Nat.not_le.mpr hi), Nat.add_comm, BitVec.msb_eq_getLsbD_last]
  rfl
/-- A rotation to the left moves bit i to bit i + n, around the end of the word. -/
theorem getLsbD_rotateLeft_add_mod (x : Word) {n i : Nat} (hn : n < 64) (hi : i < 64) :
    (x.rotateLeft n).getLsbD ((i + n) % 64) = x.getLsbD i := by
  rw [BitVec.getLsbD_rotateLeft, Nat.mod_eq_of_lt hn]
  rcases Nat.lt_or_ge (i + n) 64 with inside | around
  · rw [Nat.mod_eq_of_lt inside]
    simp [inside]
  · have wrapped : (i + n) % 64 = i + n - 64 := by omega
    have low : i + n - 64 < n := by omega
    have source : 64 - n + (i + n - 64) = i := by omega
    simp [wrapped, low, source]
/-- A rotation to the right takes bit i from bit i + n, around the end of the word. -/
theorem getLsbD_rotateRight_word (x : Word) {n i : Nat} (hn : n < 64) (hi : i < 64) :
    (x.rotateRight n).getLsbD i = x.getLsbD ((i + n) % 64) := by
  rw [BitVec.getLsbD_rotateRight, Nat.mod_eq_of_lt hn]
  rcases Nat.lt_or_ge i (64 - n) with inside | around
  · have source : (i + n) % 64 = n + i := by omega
    simp [inside, source]
  · have source : (i + n) % 64 = i - (64 - n) := by omega
    simp [hi, source, Nat.not_lt.mpr around]

/-! ## Immediates (R96) -/

/-- A signed compare with the extended immediate is one with the immediate's own value. -/
theorem slt_signExtend_iff (x : Word) (imm : BitVec 16) : x.slt (imm.signExtend 64) = true ↔ x.toInt < imm.toInt := by
  rw [BitVec.slt_iff_toInt_lt, BitVec.toInt_signExtend_of_le (by decide)]
/-- The immediate above sixteen zeros is the immediate shifted. -/
theorem append_zero_eq_shiftLeft (imm : BitVec 16) : imm ++ (0 : BitVec 16) = imm.setWidth 32 <<< 16 := by
  rw [BitVec.append_def, BitVec.shiftLeftZeroExtend_eq]
  simp

/-! ## The statements -/

/-- Settles O1: the operations write what the model's functions on words compute, and those are the values of R95 and R31. -/
theorem registerOperationsProductsAndQuotients : Obligations.RegisterOperationsProductsAndQuotients := by
  unfold Obligations.RegisterOperationsProductsAndQuotients
  refine ⟨fun s d a b => ⟨?add, ?sub, ?and, ?or, ?xor, ?andn, ?orn, ?mul, ?min, ?max, ?minu, ?maxu, ?slt, ?sltu, ?seq, ?sne⟩,
    fun s d a b => ⟨?mulh, ?mulhu, ?signed, ?unsigned⟩⟩
  case add | sub | and | or | xor | andn | orn | mul => exact gives_of_result rfl rfl
  case min => exact gives_of_result_eq rfl rfl (ite_slt_eq_ite_toInt_le id)
  case max => exact gives_of_result_eq rfl rfl (ite_slt_eq_ite_toInt_le Eq.symm)
  case minu => exact gives_of_result_eq rfl rfl (ite_ult_eq_ite_toNat_le id)
  case maxu => exact gives_of_result_eq rfl rfl (ite_ult_eq_ite_toNat_le Eq.symm)
  case slt => exact gives_of_result_eq rfl rfl (ofBool_eq_ite BitVec.slt_iff_toInt_lt)
  case sltu => exact gives_of_result_eq rfl rfl (ofBool_eq_ite BitVec.ult_iff_toNat_lt)
  case seq => exact gives_of_result_eq rfl rfl (ofBool_eq_ite beq_iff_eq)
  case sne => exact gives_of_result_eq rfl rfl (ofBool_bne _ _)
  case mulh => exact ⟨_, gives_of_result rfl rfl, toInt_mulHigh _ _⟩
  case mulhu => exact ⟨_, gives_of_result rfl rfl, toNat_mulHigh _ _⟩
  case signed => exact ⟨_, _, gives_of_result rfl rfl, gives_of_result rfl rfl, divS_remS_cases _ _⟩
  case unsigned => exact ⟨_, _, gives_of_result rfl rfl, gives_of_result rfl rfl, divU_remU_cases _ _⟩

/-- Settles O2: the shifts bit by bit, and the immediate operations with the trap of R49. -/
theorem shiftsAndImmediateOperations : Obligations.ShiftsAndImmediateOperations := by
  unfold Obligations.ShiftsAndImmediateOperations
  refine ⟨fun s d a b => ⟨?sll, ?srl, ?sra, ?rol, ?ror⟩,
    fun s d a imm => ⟨?addi, ?andi, ?ori, ?xori, ?slti, ?sltiu, ?lih, fun zero => ?shifts, fun nonzero => ?traps⟩⟩
  case sll => exact ⟨_, gives_of_result rfl rfl, fun i hi => getLsbD_shiftLeft_word _ _ hi⟩
  case srl => exact ⟨_, gives_of_result rfl rfl, fun i _ => getLsbD_ushiftRight_word _ _ i⟩
  case sra => exact ⟨_, gives_of_result rfl rfl, fun i hi => getLsbD_sshiftRight_word _ _ hi⟩
  case rol => exact ⟨_, gives_of_result rfl rfl, fun i hi => getLsbD_rotateLeft_add_mod _ (shamt_lt _) hi⟩
  case ror => exact ⟨_, gives_of_result rfl rfl, fun i hi => getLsbD_rotateRight_word _ (shamt_lt _) hi⟩
  case addi | andi | ori | xori => exact gives_of_result rfl rfl
  case slti => exact gives_of_result_eq rfl rfl (ofBool_eq_ite (slt_signExtend_iff _ imm))
  case sltiu => exact gives_of_result_eq rfl rfl (ofBool_eq_ite BitVec.ult_iff_toNat_lt)
  case lih => exact gives_of_result_eq rfl rfl (congrArg (BitVec.signExtend 64) (append_zero_eq_shiftLeft imm))
  case shifts =>
    exact ⟨gives_of_shiftImm rfl rfl zero, gives_of_shiftImm rfl rfl zero, gives_of_shiftImm rfl rfl zero,
      gives_of_shiftImm rfl rfl zero⟩
  case traps =>
    exact ⟨traps_of_shiftImm rfl nonzero, traps_of_shiftImm rfl nonzero, traps_of_shiftImm rfl nonzero,
      traps_of_shiftImm rfl nonzero⟩

end Sys2Proof.Machine
end

section
/-! SUPPORT. Laws of the operand forms of the vector instructions: lanes and mask bits read after they are written (R15, R18, R123),
the patterned operand with its waits and its trap (R122, R124, R125), and what an instruction of each form does. -/

open Sys2Proof.Frame

namespace Sys2Proof.Machine

/-! ## A state that an instruction leaves by going on -/

/-- `u` has the slots, the counts of instructions and the bytes of `s`: what the end of an instruction and the frame of its
effect speak of. -/
structure State.SameCourse (s u : State) : Prop where
  k : u.k = s.k
  slots : u.core.grp.slots = s.core.grp.slots
  instret : u.core.grp.instret = s.core.grp.instret
  inFlight : u.core.grp.inFlight = s.core.grp.inFlight
  mem : u.mem = s.mem
  well : u.core.grp.well = s.core.grp.well
  spillOvf : u.core.grp.spillOvf = s.core.grp.spillOvf

namespace State.SameCourse

theorem refl (s : State) : s.SameCourse s := ⟨rfl, rfl, rfl, rfl, rfl, rfl, rfl⟩
theorem trans {s t u : State} (h : s.SameCourse t) (h' : t.SameCourse u) : s.SameCourse u :=
  ⟨h'.k.trans h.k, h'.slots.trans h.slots, h'.instret.trans h.instret, h'.inFlight.trans h.inFlight, h'.mem.trans h.mem,
    h'.well.trans h.well, h'.spillOvf.trans h.spillOvf⟩
theorem setRow (s : State) (d : VReg) (r : Row) : s.SameCourse (s.mapGrp (·.setRow d r)) := ⟨rfl, rfl, rfl, rfl, rfl, rfl, rfl⟩
theorem raiseFlags (s : State) (f : Flags) : s.SameCourse (s.raiseFlags f) := ⟨rfl, rfl, rfl, rfl, rfl, rfl, rfl⟩
theorem setMask (s : State) (d : MReg) (v : Word) : s.SameCourse (s.mapGrp fun g => g.setMask d v) :=
  ⟨rfl, Group.setMask_slots .., Group.setMask_instret .., Group.setMask_inFlight .., rfl, Group.setMask_well ..,
    Group.setMask_spillOvf ..⟩

end State.SameCourse

/-- An instruction whose meaning is the end of such a state turns into it. -/
theorem turnsInto_of_sameCourse {i : Instr} {s u : State} (h : exec i s = .next u.finish) (hl : lag i = 1)
    (same : s.SameCourse u) : turnsInto i s u := by
  have hslot : ∀ j, u.core.grp.slot j = s.core.grp.slot j := fun j => congrArg (Vector.get · j.toFin) same.slots
  have issuing : u.slot = s.slot := by rw [State.slot, same.k, hslot]; rfl
  have hj : ∀ j, u.finish.core.grp.slot j = if j = s.k then s.slot.finish else s.core.grp.slot j := fun j => by
    rw [← hslot, ← issuing, ← same.k]
    exact State.finish_slot u j
  refine ⟨u.finish, ⟨h, Frame.done_of same.k hj rfl rfl ?_ ?_, Frame.slots_of same.k hj rfl fun _ _ => rfl, State.finish_outside u⟩,
    Frame.memory_of same.mem same.well same.spillOvf⟩
  · exact (State.finish_instret u).trans (congrArg (· + 1) same.instret)
  · rw [hl]
    exact (State.finish_inFlight u).trans (congrArg (· + 1) same.inFlight)

theorem State.mapGrp_congr {s : State} {g h : Group → Group} (same : g s.grp = h s.grp) : s.mapGrp g = s.mapGrp h := by
  rw [State.mapGrp, State.mapGrp]
  exact congrArg (fun x => { s with core := { s.core with grp := x } }) same
theorem State.raiseFlags_none (s : State) : s.raiseFlags Flags.none = s := by
  show s.mapGrp (fun g => { g with fflags := g.fflags ||| 0#5 }) = s
  simp only [BitVec.or_zero]
  rfl

/-! ## Lanes read and written (R15) -/

theorem lane_lt (w : Nat) (r : Row) (l : Nat) : lane w r l < 2 ^ w := Nat.mod_lt _ (Nat.two_pow_pos w)
/-- A field of `b` bits from bit `a` up, within the width, is that of the number. -/
theorem toNat_ofNat_div_mod (x : Nat) {n a b : Nat} (h : a + b ≤ n) :
    (BitVec.ofNat n x).toNat / 2 ^ a % 2 ^ b = x / 2 ^ a % 2 ^ b := by
  obtain ⟨c, rfl⟩ := Nat.exists_eq_add_of_le h
  rw [BitVec.toNat_ofNat, Nat.add_assoc, Nat.pow_add, Nat.mod_mul_right_div_self,
    Nat.mod_mod_of_dvd _ (Nat.pow_dvd_pow 2 (Nat.le_add_right b c))]
theorem packLanes_div_mod (w : Nat) (xs : List Nat) {l : Nat} (hl : l < xs.length) :
    packLanes w xs / 2 ^ (w * l) % 2 ^ w = xs[l] % 2 ^ w := by
  induction xs generalizing l with
  | nil => exact absurd hl (Nat.not_lt_zero l)
  | cons x xs ih =>
    have low : x % 2 ^ w < 2 ^ w := Nat.mod_lt _ (Nat.two_pow_pos w)
    cases l with
    | zero => simp [packLanes]
    | succ l =>
      have shifted : packLanes w (x :: xs) / 2 ^ w = packLanes w xs := by
        rw [packLanes, Nat.add_mul_div_left _ _ (Nat.two_pow_pos w), Nat.div_eq_of_lt low, Nat.zero_add]
      rw [Nat.mul_succ, Nat.add_comm (w * l) w, Nat.pow_add, ← Nat.div_div_eq_div_mul, shifted]
      exact ih (Nat.lt_of_succ_lt_succ hl)
/-- A row made of lanes holds them, each modulo `2 ^ w`. -/
theorem lane_rowOfLanes (w : Nat) (xs : List Nat) (fits : xs.length ≤ laneCount w) {l : Nat} (hl : l < xs.length) :
    lane w (rowOfLanes w xs) l = xs[l] % 2 ^ w := by
  have room : w * l + w ≤ 1024 := calc
    w * l + w = w * (l + 1) := (Nat.mul_succ w l).symm
    _ ≤ w * laneCount w := Nat.mul_le_mul_left w (hl.trans_le fits)
    _ ≤ 1024 := Nat.mul_div_le 1024 w
  rw [lane, rowOfLanes, toNat_ofNat_div_mod _ room, packLanes_div_mod w xs hl]
theorem lane_rowOfLanes_map (w : Nat) (f : Nat → Nat) {l : Nat} (hl : l < laneCount w) :
    lane w (rowOfLanes w ((upTo (laneCount w)).map f)) l = f l % 2 ^ w := by
  have length : ((upTo (laneCount w)).map f).length = laneCount w := by rw [List.length_map, upTo, List.length_range]
  rw [lane_rowOfLanes w _ length.le (hl.trans_eq length.symm), List.getElem_map]
  simp only [upTo, List.getElem_range]

/-! ## Flags and masks gathered over a list -/

/-- A bit is set after a fold of ORs where it was set, or where an element of the list sets it. -/
theorem getLsbD_foldl_or {α : Type} {n : Nat} (f : α → BitVec n) (xs : List α) (a : BitVec n) (j : Nat) :
    (xs.foldl (fun a x => a ||| f x) a).getLsbD j = true ↔ a.getLsbD j = true ∨ ∃ x ∈ xs, (f x).getLsbD j = true := by
  induction xs generalizing a with
  | nil => simp
  | cons x xs ih =>
    rw [List.foldl_cons, ih, BitVec.getLsbD_or, Bool.or_eq_true, List.exists_mem_cons_iff, or_assoc]

/-! ## The patterned operand (R122, R124, R125) -/

/-- The row that the patterned operand reads as. -/
def sourceRow (s : State) (w : Nat) (p : Pat) (b : VReg) : Row :=
  if p = 15 then queueRow (s.grp.queue (BitVec.ofNat 3 (b.toNat % 4))).words else permute w s.grp.lpat p (s.grp.row b)

theorem queueSource_toNat (b : VReg) : (queueSource b).toNat = b.toNat % 4 := by
  rw [queueSource, BitVec.toNat_and]
  exact Nat.and_two_pow_sub_one_eq_mod b.toNat 2
theorem queueSource_setWidth (b : VReg) (n : Nat) : (queueSource b).setWidth n = BitVec.ofNat n (b.toNat % 4) := by
  rw [← queueSource_toNat, BitVec.ofNat_toNat]

theorem patSource_zero (lpat : Word) (l : Nat) : patSource lpat 0 l = l := Nat.sub_add_cancel (Nat.mod_le l 32)
theorem lane_permute (w : Nat) (lpat : Word) (p : Pat) (r : Row) {l : Nat} (hl : l < laneCount w) :
    lane w (permute w lpat p r) l = lane w r (patSource lpat p l) := by
  unfold permute
  split_ifs with plain
  · rw [plain, patSource_zero]
  · rw [lane_rowOfLanes_map w _ hl, Nat.mod_eq_of_lt (lane_lt ..)]
theorem lane_sourceRow (s : State) (w : Nat) (p : Pat) (b : VReg) {l : Nat} (hl : l < laneCount w) :
    lane w (sourceRow s w p b) l = sourceLane s w p b l := by
  unfold sourceRow sourceLane
  split_ifs with queue
  · rfl
  · exact lane_permute w _ p _ hl
theorem sourceLane_lt (s : State) (w : Nat) (p : Pat) (b : VReg) (l : Nat) : sourceLane s w p b l < 2 ^ w := by
  unfold sourceLane
  split_ifs <;> exact lane_lt ..

/-- Taking words off a queue changes the queue, what is consumed and the network: no slot, no byte, no mask and no row. -/
theorem State.dequeue_frame (s : State) (q : BitVec 3) (n : Nat) :
    s.SameCourse (s.dequeue q n) ∧ (s.dequeue q n).grp.m = s.grp.m ∧ (s.dequeue q n).grp.tile = s.grp.tile := by
  unfold State.dequeue
  extract_lets v r words freed pay t
  split <;> exact ⟨⟨rfl, rfl, rfl, rfl, rfl, rfl, rfl⟩, rfl, rfl⟩
theorem sourceRead_sameCourse (s : State) (p : Pat) (b : VReg) : s.SameCourse (sourceRead s p b) := by
  unfold sourceRead
  split_ifs
  · exact (State.dequeue_frame s _ _).1
  · exact .refl s
theorem sourceRead_mask (s : State) (p : Pat) (b : VReg) (m : MReg) : (sourceRead s p b).grp.mask m = s.grp.mask m := by
  unfold sourceRead
  split_ifs
  · simp only [Group.mask, (State.dequeue_frame s _ _).2.1]
  · rfl
theorem sourceRead_row (s : State) (p : Pat) (b d : VReg) : (sourceRead s p b).grp.row d = s.grp.row d := by
  unfold sourceRead
  split_ifs
  · simp only [Group.row, (State.dequeue_frame s _ _).2.2]
  · rfl

/-- The check of a queue source fails exactly for an unbound queue, since its number is below four (R125, R177). -/
theorem State.sourceFault_queue (s : State) (b : VReg) :
    s.sourceFault 15 b = if (s.grp.queue (BitVec.ofNat 3 (b.toNat % 4))).bound then none
      else some (0x03, BitVec.ofNat 64 (b.toNat % 4)) := by
  have inbound : isInbound (queueSource b) = true := by
    rw [isInbound, queueSource_toNat]
    exact decide_eq_true (Nat.mod_lt _ (by decide))
  rw [State.sourceFault, if_pos rfl, Group.queueFault, if_pos rfl, inbound, Bool.true_and, queueSource_setWidth, queueSource_setWidth]

section
variable {s : State} {w : Nat} {p : Pat} {b : VReg} {vs : List VReg} {go : Row → State → State}

theorem State.whenRows_free {go : State → State} (free : ∀ v ∈ vs, s.rowFree v = true) : s.whenRows vs go = go s :=
  if_pos (List.all_eq_true.mpr free)
theorem State.whenRows_waits {go : State → State} (busy : ∃ v ∈ vs, s.rowFree v = false) : s.whenRows vs go = s.stall := by
  obtain ⟨v, hv, held⟩ := busy
  exact if_neg fun all => Bool.false_ne_true (held.symm.trans (List.all_eq_true.mp all v hv))

/-- The operand of a queue, after the check of its number. -/
theorem State.withB_queue (hp : p = 15) : s.withB w p b vs go =
    let q := BitVec.ofNat 3 (b.toNat % 4)
    if (s.grp.queue q).bound then
      s.whenRows vs fun s =>
        if (s.grp.queue q).words.length < 16 then s.stall else go (queueRow (s.grp.queue q).words) (s.dequeue q 16)
    else s.trap 0x03 (BitVec.ofNat 64 (b.toNat % 4)) := by
  subst hp
  simp only [State.withB, State.withChecked, if_true, State.sourceFault_queue, queueSource_setWidth]
  split <;> rfl
/-- The operand of a row. -/
theorem State.withB_row (hp : p ≠ 15) :
    s.withB w p b vs go = s.whenRows (b :: vs) fun s => go (permute w s.grp.lpat p (s.grp.row b)) s := if_neg hp
theorem State.withB_ready (ready : sourceReady s p b vs) : s.withB w p b vs go = go (sourceRow s w p b) (sourceRead s p b) := by
  obtain ⟨rows, source⟩ := ready
  unfold sourceRow sourceRead
  by_cases hp : p = 15
  · rw [if_pos hp] at source ⊢
    obtain ⟨bound, words⟩ := source
    rw [if_pos hp, State.withB_queue hp, if_pos bound, State.whenRows_free rows, if_neg (Nat.not_lt.mpr words)]
  · rw [if_neg hp] at source ⊢
    rw [if_neg hp, State.withB_row hp, State.whenRows_free (List.forall_mem_cons.mpr ⟨source, rows⟩)]

/-- R122 and R125: an instruction of the form of `withB` traps for an unbound queue, and waits for its rows and its words. -/
theorem sourceHolds_of_withB {i : Instr} (h : exec i s = .next (s.withB w p b vs go)) : sourceHolds i s p b vs := by
  refine ⟨fun hp unbound => ?_, fun bound held => ?_⟩
  · rw [traps, h, State.withB_queue hp, if_neg (Bool.eq_false_iff.mp unbound)]
  · rw [waits, h]
    by_cases hp : p = 15
    · rw [if_pos hp] at held
      rw [State.withB_queue hp, if_pos (bound hp)]
      by_cases rows : ∃ v ∈ vs, s.rowFree v = false
      · rw [State.whenRows_waits rows]
      · have free : ∀ v ∈ vs, s.rowFree v = true := fun v hv => Bool.eq_true_of_not_eq_false fun busy => rows ⟨v, hv, busy⟩
        rw [State.whenRows_free free, if_pos (held.resolve_left rows)]
    · rw [if_neg hp] at held
      rw [State.withB_row hp, State.whenRows_waits (List.exists_mem_cons_iff .. |>.mpr held.symm)]
end

/-! ## Lane results (R123, R128) -/

theorem mem_laneResults {w n : Nat} {m : Word} {old : Row} {f : Nat → FRes} {x : FRes} :
    x ∈ laneResults w n m old f ↔
      ∃ l, l < laneCount w ∧ (if decide (l < n) && laneOn w m l then f l else ⟨lane w old l, Flags.none⟩) = x := by
  simp only [laneResults, upTo, List.mem_map, List.mem_range]
theorem lane_gather_laneResults (w n : Nat) (m : Word) (old : Row) (f : Nat → FRes) {l : Nat} (hl : l < laneCount w) :
    lane w (gather w (laneResults w n m old f)).1 l =
      if l < n ∧ laneOn w m l = true then (f l).bits % 2 ^ w else lane w old l := by
  rw [gather, laneResults, List.map_map, lane_rowOfLanes_map w _ hl, Function.comp_apply]
  simp only [Bool.and_eq_true, decide_eq_true_eq]
  split_ifs
  · rfl
  · exact Nat.mod_eq_of_lt (lane_lt ..)
/-- The flags of a row's lanes are those of the enabled ones. -/
theorem flags_gather_laneResults (w : Nat) {n : Nat} (m : Word) (old : Row) (f : Nat → FRes) (hn : n ≤ laneCount w) (j : Nat) :
    (gather w (laneResults w n m old f)).2.getLsbD j = true ↔
      ∃ l, l < n ∧ laneOn w m l = true ∧ (f l).flags.getLsbD j = true := by
  have quiet : Flags.none.getLsbD j = false := BitVec.getLsbD_zero
  rw [gather, getLsbD_foldl_or, quiet]
  constructor
  · rintro (before | ⟨x, mem, raised⟩)
    · exact Bool.noConfusion before
    · obtain ⟨l, -, rfl⟩ := mem_laneResults.mp mem
      split at raised
      next enabled =>
        rw [Bool.and_eq_true, decide_eq_true_eq] at enabled
        exact ⟨l, enabled.1, enabled.2, raised⟩
      next => exact absurd raised (quiet ▸ Bool.false_ne_true)
  · rintro ⟨l, hl, enabled, raised⟩
    refine .inr ⟨f l, mem_laneResults.mpr ⟨l, hl.trans_le hn, ?_⟩, raised⟩
    rw [if_pos (Bool.and_eq_true_iff.mpr ⟨decide_eq_true hl, enabled⟩)]

section
variable {i : Instr} {s : State} {w n : Nat} {p : Pat} {d a b : VReg} {m : MReg}

/-- An instruction that ends with a row of lane results, after its patterned operand is read, takes those results; they may be
given in another form. -/
theorem lanesTake_of_rowResult {mk : Word} {f r : Nat → FRes} {on : Nat → Bool} (hl : lag i = 1)
    (h : exec i s = .next ((sourceRead s p b).rowResult d (gather w (laneResults w n mk (s.grp.row d) f))))
    (hn : n ≤ laneCount w) (hon : ∀ l, l < n → laneOn w mk l = on l) (hr : ∀ l, l < n → f l = r l) :
    lanesTake i s (sourceRead s p b) w n d on r := by
  obtain ⟨t, completed, bytes⟩ := turnsInto_of_sameCourse h hl
    ((sourceRead_sameCourse s p b).trans ((State.SameCourse.setRow ..).trans (State.SameCourse.raiseFlags ..)))
  refine ⟨t, _, _, completed, bytes, fun l inRow => ?_, fun j _ => ?_⟩
  · rw [lane_gather_laneResults w n mk _ f inRow]
    by_cases hl : l < n
    · rw [hon l hl, hr l hl]
    · rw [if_neg fun h => hl h.1, if_neg fun h => hl h.1]
  · rw [flags_gather_laneResults w mk _ f hn]
    refine exists_congr fun l => and_congr_right fun hl => ?_
    rw [hon l hl, hr l hl]
/-- Exact results raise no flag. -/
theorem lanesBecome_of_lanesTake {u : State} {on : Nat → Bool} {g r : Nat → Nat}
    (h : lanesTake i s u w n d on fun l => .exact (g l)) (hr : ∀ l, l < n → g l ≡ r l [MOD 2 ^ w]) :
    lanesBecome i s u w n d on r := by
  obtain ⟨t, row, f, completed, bytes, lanes, flags⟩ := h
  have quiet : f = Flags.none := BitVec.eq_of_getLsbD_eq fun j hj => by
    refine (Bool.eq_false_of_not_eq_true fun raised => ?_).trans BitVec.getLsbD_zero.symm
    obtain ⟨l, -, -, raised⟩ := (flags j hj).mp raised
    exact Bool.false_ne_true (BitVec.getLsbD_zero.symm.trans raised)
  rw [quiet, State.raiseFlags_none] at completed
  refine ⟨t, row, completed, bytes, fun l inRow => (lanes l inRow).trans ?_⟩
  split_ifs with enabled
  · exact hr l enabled.1
  · rfl

/-! ## The forms of lane operations -/

theorem sourceHolds_of_lanes2 {f : State → Nat → Nat → FRes} (h : exec i s = .next (s.lanes2 w d a b m p f)) :
    sourceHolds i s p b [d, a] := sourceHolds_of_withB h
theorem sourceHolds_of_lanes1 {f : State → Nat → Nat → FRes} (h : exec i s = .next (s.lanes1 w d b m p f)) :
    sourceHolds i s p b [d] := sourceHolds_of_withB h

theorem lanesTake_of_lanes2 {f : State → Nat → Nat → FRes} (ready : sourceReady s p b [d, a])
    (h : exec i s = .next (s.lanes2 w d a b m p f)) (hl : lag i = 1) :
    lanesTake i s (sourceRead s p b) w (laneCount w) d (laneOn w (s.grp.mask m))
      fun l => f s (lane w (s.grp.row a) l) (sourceLane s w p b l) := by
  rw [State.lanes2, State.withB_ready ready, sourceRead_mask, sourceRead_row] at h
  exact lanesTake_of_rowResult hl h le_rfl (fun _ _ => rfl) fun l inRow => by rw [lane_sourceRow s w p b inRow]
theorem lanesBecome_of_lanes2 {g : Nat → Nat → Nat} {r : Nat → Nat} (ready : sourceReady s p b [d, a])
    (h : exec i s = .next (s.lanes2 w d a b m p fun _ x y => .exact (g x y))) (hl : lag i = 1)
    (hr : ∀ l, g (lane w (s.grp.row a) l) (sourceLane s w p b l) ≡ r l [MOD 2 ^ w]) :
    lanesBecome i s (sourceRead s p b) w (laneCount w) d (laneOn w (s.grp.mask m)) r :=
  lanesBecome_of_lanesTake (lanesTake_of_lanes2 (f := fun _ x y => .exact (g x y)) ready h hl) fun l _ => hr l
theorem lanesTake_of_lanes1 {f : State → Nat → Nat → FRes} (ready : sourceReady s p b [d])
    (h : exec i s = .next (s.lanes1 w d b m p f)) (hl : lag i = 1) :
    lanesTake i s (sourceRead s p b) w (laneCount w) d (laneOn w (s.grp.mask m)) fun l => f s l (sourceLane s w p b l) := by
  rw [State.lanes1, State.withB_ready ready, sourceRead_mask, sourceRead_row] at h
  exact lanesTake_of_rowResult hl h le_rfl (fun _ _ => rfl) fun l inRow => by rw [lane_sourceRow s w p b inRow]
theorem lanesBecome_of_lanes1 {g : Nat → Nat} {r : Nat → Nat} (ready : sourceReady s p b [d])
    (h : exec i s = .next (s.lanes1 w d b m p fun _ _ x => .exact (g x))) (hl : lag i = 1)
    (hr : ∀ l, g (sourceLane s w p b l) ≡ r l [MOD 2 ^ w]) :
    lanesBecome i s (sourceRead s p b) w (laneCount w) d (laneOn w (s.grp.mask m)) r :=
  lanesBecome_of_lanesTake (lanesTake_of_lanes1 (f := fun _ _ x => .exact (g x)) ready h hl) fun l _ => hr l

end

/-! ## Mask bits written (R18, R123) -/

theorem getLsbD_foldl_setBit (bit : Nat → Bool) {j : Nat} (hj : j < 64) :
    ((upTo 64).foldl (fun acc i => if bit i then acc ||| (1#64 <<< i) else acc) 0).getLsbD j = bit j := by
  have asOr (acc : Word) (i : Nat) : (if bit i then acc ||| (1#64 <<< i) else acc) = acc ||| if bit i then BitVec.twoPow 64 i else 0 := by
    split_ifs
    · rw [BitVec.twoPow_eq]
    · exact BitVec.or_zero.symm
  rw [Bool.eq_iff_iff]
  simp only [asOr, getLsbD_foldl_or, upTo, List.mem_range]
  constructor
  · rintro (before | ⟨i, -, raised⟩)
    · exact Bool.noConfusion (BitVec.getLsbD_zero.symm.trans before)
    · split_ifs at raised with set
      · rw [BitVec.getLsbD_twoPow, Bool.and_eq_true, decide_eq_true_eq, decide_eq_true_eq] at raised
        exact raised.2 ▸ set
      · exact Bool.noConfusion (BitVec.getLsbD_zero.symm.trans raised)
  · intro set
    refine .inr ⟨j, hj, ?_⟩
    rw [if_pos set, BitVec.getLsbD_twoPow, decide_eq_true hj, decide_eq_true rfl]
    rfl
theorem getLsbD_compareBits (w : Nat) (m old : Word) (r : Nat → Bool) {j : Nat} (hj : j < 64) :
    (compareBits w m old r).getLsbD j =
      if j < laneCount w ∧ m.getLsbD j = true then (if w = 8 then r (2 * j) && r (2 * j + 1) else r j) else old.getLsbD j := by
  have bits := getLsbD_foldl_setBit (fun i => if decide (i < min 64 (laneCount w)) && m.getLsbD i then
    (if w = 8 then r (2 * i) && r (2 * i + 1) else r i) else old.getLsbD i) hj
  simp only [Bool.and_eq_true, decide_eq_true_eq, lt_min_iff, hj, true_and] at bits
  rw [← bits]
  simp only [compareBits, Bool.and_eq_true, decide_eq_true_eq, lt_min_iff]
theorem mask_of_outside {t u : State} (h : outside t = outside u) (r : MReg) : t.grp.mask r = u.grp.mask r := by
  have masks : t.grp.m = u.grp.m := congrArg (fun s => s.core.grp.m) h
  simp only [Group.mask, masks]

/-! ## Compares (R131) -/

/-- A compare whose lanes have the results `r` writes the enabled bits of a mask, and raises the flags of the enabled lanes. -/
def setsCompareMask (s : State) (p : Pat) (b : VReg) (d m : MReg) (i : Instr) (w : Nat) (r : Nat → Bool × Flags) : Prop :=
  ∃ (t : State) (md : Word) (f : Flags),
    completes i s (((sourceRead s p b).mapGrp fun g => g.setMask d md).raiseFlags f) t [] ∧ memory s t ∧
    (∀ j, j < 64 → md.getLsbD j =
      if j < laneCount w ∧ (s.grp.mask m).getLsbD j = true then (if w = 8 then (r (2 * j)).1 && (r (2 * j + 1)).1 else (r j).1)
      else (s.grp.mask d).getLsbD j) ∧
    ∀ j, j < 5 → (f.getLsbD j = true ↔ ∃ l, l < laneCount w ∧ laneOn w (s.grp.mask m) l = true ∧ (r l).2.getLsbD j = true)

section
variable {i : Instr} {s : State} {w : Nat} {p : Pat} {d m : MReg} {a b : VReg} {f : Nat → Nat → Bool × Flags}

theorem sourceHolds_of_lanesCmp (h : exec i s = .next (s.lanesCmp w d a b m p f)) : sourceHolds i s p b [a] :=
  sourceHolds_of_withB h
/-- The flags of a compare, folded over the enabled lanes. -/
theorem getLsbD_compareFlags (w : Nat) (mk : Word) (r : Nat → Bool × Flags) (j : Nat) :
    (((upTo (laneCount w)).filter (laneOn w mk)).foldl (fun a l => a ||| (r l).2) Flags.none).getLsbD j = true ↔
      ∃ l, l < laneCount w ∧ laneOn w mk l = true ∧ (r l).2.getLsbD j = true := by
  have quiet : Flags.none.getLsbD j = false := BitVec.getLsbD_zero
  simp only [getLsbD_foldl_or, quiet, Bool.false_eq_true, false_or, List.mem_filter, upTo, List.mem_range, and_assoc]
/-- The result of a lane counts only below the number of lanes; a mask bit of 8-bit lanes stands for two of them. -/
theorem compareBit_congr {r r' : Nat → Bool × Flags} (h : ∀ l, l < laneCount w → r l = r' l) {j : Nat} (hj : j < 64)
    (inRow : j < laneCount w) : (if w = 8 then (r (2 * j)).1 && (r (2 * j + 1)).1 else (r j).1) =
      if w = 8 then (r' (2 * j)).1 && (r' (2 * j + 1)).1 else (r' j).1 := by
  split_ifs with bytes
  · have lanes : laneCount w = 128 := congrArg laneCount bytes
    rw [h _ (by omega), h _ (by omega)]
  · rw [h j inRow]
/-- A compare whose operands can be read ends with its mask and its flags. -/
theorem State.lanesCmp_ready (ready : sourceReady s p b [a]) :
    let r (l : Nat) := f (lane w (s.grp.row a) l) (lane w (sourceRow s w p b) l)
    s.lanesCmp w d a b m p f =
      (((sourceRead s p b).mapGrp fun g => g.setMask d (compareBits w (s.grp.mask m) (s.grp.mask d) fun l => (r l).1)).raiseFlags
        (((upTo (laneCount w)).filter (laneOn w (s.grp.mask m))).foldl (fun a l => a ||| (r l).2) Flags.none)).finish := by
  rw [State.lanesCmp, State.withB_ready ready, sourceRead_mask]
  refine congrArg State.finish (congrArg (State.raiseFlags _) (State.mapGrp_congr ?_))
  rw [sourceRead_mask]
theorem setsCompareMask_of_lanesCmp {r : Nat → Bool × Flags} (ready : sourceReady s p b [a])
    (h : exec i s = .next (s.lanesCmp w d a b m p f)) (hl : lag i = 1)
    (hr : ∀ l, f (lane w (s.grp.row a) l) (sourceLane s w p b l) = r l) : setsCompareMask s p b d m i w r := by
  have results (l : Nat) (inRow : l < laneCount w) : f (lane w (s.grp.row a) l) (lane w (sourceRow s w p b) l) = r l := by
    rw [lane_sourceRow s w p b inRow, hr]
  rw [State.lanesCmp_ready ready] at h
  obtain ⟨t, completed, bytes⟩ := turnsInto_of_sameCourse h hl
    ((sourceRead_sameCourse s p b).trans ((State.SameCourse.setMask ..).trans (State.SameCourse.raiseFlags ..)))
  refine ⟨t, _, _, completed, bytes, fun j hj => ?_, fun j _ => ?_⟩
  · rw [getLsbD_compareBits _ _ _ _ hj]
    exact if_ctx_congr Iff.rfl (fun enabled => compareBit_congr results hj enabled.1) fun _ => rfl
  · rw [getLsbD_compareFlags]
    refine exists_congr fun l => and_congr_right fun inRow => ?_
    rw [results l inRow]
end

/-! ## Reductions (R134) -/

/-- The fold of a reduction without its flags. -/
def foldLanes (g : Nat → Nat → Nat) (ident : Nat) : List Nat → Nat
  | [] => ident
  | x :: rest => rest.foldl g x
theorem reduceLanes_exact (g : Nat → Nat → Nat) (ident : Nat) (xs : List Nat) :
    reduceLanes (fun x y => .exact (g x y)) ident xs = .exact (foldLanes g ident xs) := by
  cases xs with
  | nil => rfl
  | cons x rest => exact List.foldl_hom FRes.exact fun _ _ => congrArg (FRes.mk _) BitVec.or_self
theorem reduceLanes_eq_match (f : Nat → Nat → FRes) (ident : Nat) (xs : List Nat) :
    reduceLanes f ident xs = match xs with
      | [] => ⟨ident, 0⟩
      | x :: rest => rest.foldl (fun acc y => ⟨(f acc.bits y).bits, acc.flags ||| (f acc.bits y).flags⟩) ⟨x, 0⟩ := by
  cases xs <;> rfl

/-- The enabled lanes of the patterned operand, in ascending order. -/
def enabledLanes (s : State) (w : Nat) (m : MReg) (p : Pat) (b : VReg) : List Nat :=
  ((List.range (laneCount w)).filter fun l => laneOn w (s.grp.mask m) l).map (sourceLane s w p b)

section
variable {i : Instr} {s : State} {w ident : Nat} {p : Pat} {d b : VReg} {m : MReg}

theorem sourceHolds_of_lanesRed {f : State → Nat → Nat → FRes} (h : exec i s = .next (s.lanesRed w d b m p ident f)) :
    sourceHolds i s p b [d] := sourceHolds_of_withB h
theorem enabledLanes_eq (s : State) (w : Nat) (m : MReg) (p : Pat) (b : VReg) :
    ((upTo (laneCount w)).filter (laneOn w (s.grp.mask m))).map (lane w (sourceRow s w p b)) = enabledLanes s w m p b :=
  List.map_congr_left fun _ mem => lane_sourceRow s w p b (List.mem_range.mp (List.mem_filter.mp mem).1)
theorem laneOn_allOnes_zero (w : Nat) : laneOn w (BitVec.allOnes 64) 0 = true := by
  unfold laneOn
  split_ifs <;> decide
theorem lanesTake_of_lanesRed {f : State → Nat → Nat → FRes} {r : FRes} (ready : sourceReady s p b [d])
    (h : exec i s = .next (s.lanesRed w d b m p ident f)) (hl : lag i = 1) (hw : 0 < laneCount w)
    (hr : reduceLanes (f s) ident (enabledLanes s w m p b) = r) :
    lanesTake i s (sourceRead s p b) w 1 d (fun _ => true) fun _ => r := by
  rw [State.lanesRed, State.withB_ready ready] at h
  simp only [sourceRead_mask, sourceRead_row, enabledLanes_eq, hr] at h
  exact lanesTake_of_rowResult hl h hw (fun l first => Nat.lt_one_iff.mp first ▸ laneOn_allOnes_zero w) fun _ _ => rfl
theorem lanesBecome_of_lanesRed {g : Nat → Nat → Nat} {r : Nat} (ready : sourceReady s p b [d])
    (h : exec i s = .next (s.lanesRed w d b m p ident fun _ x y => .exact (g x y))) (hl : lag i = 1) (hw : 0 < laneCount w)
    (hr : foldLanes g ident (enabledLanes s w m p b) ≡ r [MOD 2 ^ w]) :
    lanesBecome i s (sourceRead s p b) w 1 d (fun _ => true) fun _ => r :=
  lanesBecome_of_lanesTake (lanesTake_of_lanesRed ready h hl hw (reduceLanes_exact ..)) fun _ _ => hr
end

end Sys2Proof.Machine
end

section
/-! SUPPORT. Proofs of the statements on the integer lanes, the vector compares, the mask instructions and the reductions (spec 07
R129 to R131, R134, R149): what the lanes compute, and the three statements assembled from that and the operand forms. -/

open Sys2Proof.Frame

namespace Sys2Proof.Machine

/-! ## Signed lanes (R129, R130) -/

/-- A lane takes the low bits of a number whose bit vector is that of the exact result. -/
theorem intLane_modEq {w k : Nat} {i : Int} (h : BitVec.ofInt w i = BitVec.ofNat w k) : intLane w i ≡ k [MOD 2 ^ w] := by
  rw [intLane, h, BitVec.toNat_ofNat]
  exact Nat.mod_modEq ..
theorem ofInt_laneInt (w x : Nat) : BitVec.ofInt w (laneInt w x) = BitVec.ofNat w x := BitVec.ofInt_toInt
theorem ofNat_two_pow_sub {w y : Nat} (hy : y < 2 ^ w) : BitVec.ofNat w (2 ^ w - y) = -BitVec.ofNat w y := by
  refine eq_neg_of_add_eq_zero_left ?_
  rw [← BitVec.ofNat_add, Nat.sub_add_cancel hy.le]
  exact BitVec.eq_of_toNat_eq ((BitVec.toNat_ofNat ..).trans (Nat.mod_self _))
theorem intLane_laneInt (w x : Nat) : intLane w (laneInt w x) ≡ x [MOD 2 ^ w] := intLane_modEq (ofInt_laneInt w x)
theorem intLane_add (w x y : Nat) : intLane w (laneInt w x + laneInt w y) ≡ x + y [MOD 2 ^ w] :=
  intLane_modEq (by rw [BitVec.ofInt_add, ofInt_laneInt, ofInt_laneInt, BitVec.ofNat_add])
theorem intLane_mul (w x y : Nat) : intLane w (laneInt w x * laneInt w y) ≡ x * y [MOD 2 ^ w] :=
  intLane_modEq (by rw [BitVec.ofInt_mul, ofInt_laneInt, ofInt_laneInt, BitVec.ofNat_mul])
theorem intLane_neg {w y : Nat} (hy : y < 2 ^ w) : intLane w (-laneInt w y) ≡ 2 ^ w - y [MOD 2 ^ w] :=
  intLane_modEq (by rw [BitVec.ofInt_neg, ofInt_laneInt, ofNat_two_pow_sub hy])
theorem intLane_sub (x : Nat) {w y : Nat} (hy : y < 2 ^ w) :
    intLane w (laneInt w x - laneInt w y) ≡ x + (2 ^ w - y) [MOD 2 ^ w] :=
  intLane_modEq (by
    rw [Int.sub_eq_add_neg, BitVec.ofInt_add, BitVec.ofInt_neg, ofInt_laneInt, ofInt_laneInt, BitVec.ofNat_add,
      ofNat_two_pow_sub hy])
theorem intLane_min (w x y : Nat) :
    intLane w (min (laneInt w x) (laneInt w y)) ≡ if laneInt w x ≤ laneInt w y then x else y [MOD 2 ^ w] := by
  rw [min_def]
  split_ifs <;> exact intLane_laneInt ..
theorem intLane_max (w x y : Nat) :
    intLane w (max (laneInt w x) (laneInt w y)) ≡ if laneInt w x ≤ laneInt w y then y else x [MOD 2 ^ w] := by
  rw [max_def]
  split_ifs <;> exact intLane_laneInt ..
theorem intLane_abs {w y : Nat} (hy : y < 2 ^ w) :
    intLane w (if laneInt w y < 0 then -laneInt w y else laneInt w y) ≡ if laneInt w y < 0 then 2 ^ w - y else y [MOD 2 ^ w] := by
  split_ifs
  · exact intLane_neg hy
  · exact intLane_laneInt ..
theorem shiftLeft_lane (w x n : Nat) : (BitVec.ofNat w x <<< n).toNat ≡ x * 2 ^ n [MOD 2 ^ w] := by
  rw [BitVec.toNat_shiftLeft, BitVec.toNat_ofNat, Nat.shiftLeft_eq]
  exact (Nat.mod_modEq ..).trans ((Nat.mod_modEq ..).mul_right _)
theorem ushiftRight_lane {w x : Nat} (hx : x < 2 ^ w) (n : Nat) : (BitVec.ofNat w x >>> n).toNat ≡ x / 2 ^ n [MOD 2 ^ w] := by
  rw [BitVec.toNat_ushiftRight, BitVec.toNat_ofNat, Nat.mod_eq_of_lt hx, Nat.shiftRight_eq_div_pow]
theorem sshiftRight_lane (w x n : Nat) :
    ((BitVec.ofNat w x).sshiftRight n).toNat = (laneInt w x / 2 ^ n % 2 ^ w).toNat := by
  rw [BitVec.sshiftRight, BitVec.toNat_ofInt, Int.shiftRight_eq_div_pow, laneInt]
  norm_cast

/-! ## Mask instructions (R149) -/

theorem setsMask_of_maskOp {i : Instr} {s : State} {d : MReg} {v : Word} (h : exec i s = .next (s.maskOp d v)) (hl : lag i = 1) :
    ∃ t, exec i s = .next t ∧ done i s t ∧ slots s t [] ∧ memory s t ∧ outside t = outside (s.mapGrp (·.setMask d v)) ∧
      t.grp.mask d = (if d = 0 then BitVec.allOnes 64 else v) ∧ ∀ r, r ≠ d → t.grp.mask r = s.grp.mask r := by
  obtain ⟨t, ⟨next, course, kept, out⟩, bytes⟩ := turnsInto_of_sameCourse h hl (State.SameCourse.setMask s d v)
  have masks (r : MReg) : t.grp.mask r = if r = d ∧ d ≠ 0 then v else s.grp.mask r :=
    (mask_of_outside out r).trans (Group.mask_setMask s.grp d r v)
  refine ⟨t, next, course, kept, bytes, out, ?_, fun r other => ?_⟩
  · rw [masks]
    by_cases zero : d = 0
    · rw [if_neg fun h => h.2 zero, if_pos zero, Group.mask, if_pos zero]
    · rw [if_pos ⟨rfl, zero⟩, if_neg zero]
  · rw [masks, if_neg fun h => other h.1]

theorem onesBelow_eq_length (a : Word) (n : Nat) : onesBelow a n = ((List.range n).filter fun i => a.getLsbD i).length := by
  induction n with
  | zero => rfl
  | succ n ih =>
    rw [onesBelow, ih, List.range_succ, List.filter_append, List.length_append, Nat.add_comm]
    congr 1
    cases h : a.getLsbD n <;> simp [h]

/-! ## Folds of integer lanes (R134) -/

/-- Wrapped sums along the way leave the low bits of the whole sum. -/
theorem foldl_add_mod (m : Nat) (xs : List Nat) {x y : Nat} (h : x ≡ y [MOD m]) :
    xs.foldl (fun x y => (x + y) % m) x ≡ xs.foldl (· + ·) y [MOD m] := by
  induction xs generalizing x y with
  | nil => exact h
  | cons z xs ih => exact ih ((Nat.mod_modEq ..).trans (h.add_right z))
theorem foldLanes_add_mod (m : Nat) (xs : List Nat) :
    foldLanes (fun x y => (x + y) % m) 0 xs ≡ xs.foldl (· + ·) 0 [MOD m] := by
  cases xs with
  | nil => rfl
  | cons x rest => exact foldl_add_mod m rest (congrArg (· % m) (Nat.zero_add x).symm)

/-- A fold that keeps one of two elements, none of them above it, ends with a greatest element of the list. -/
theorem foldl_mem_and_le {α : Type} [Preorder α] {key : Nat → α} {g : Nat → Nat → Nat} (one : ∀ x y, g x y = x ∨ g x y = y)
    (left : ∀ x y, key x ≤ key (g x y)) (right : ∀ x y, key y ≤ key (g x y)) (rest : List Nat) (x : Nat) :
    rest.foldl g x ∈ x :: rest ∧ ∀ y ∈ x :: rest, key y ≤ key (rest.foldl g x) := by
  induction rest generalizing x with
  | nil => exact ⟨List.mem_singleton_self x, fun y hy => (congrArg key (List.mem_singleton.mp hy)).le⟩
  | cons y rest ih =>
    obtain ⟨mem, greatest⟩ := ih (g x y)
    obtain ⟨chosen, others⟩ := List.forall_mem_cons.mp greatest
    rw [List.foldl_cons]
    refine ⟨?_, List.forall_mem_cons.mpr ⟨(left x y).trans chosen, List.forall_mem_cons.mpr ⟨(right x y).trans chosen, others⟩⟩⟩
    rcases List.mem_cons.mp mem with kept | later
    · rcases one x y with hx | hy
      · exact List.mem_cons.mpr (.inl (kept.trans hx))
      · exact List.mem_cons_of_mem _ (List.mem_cons.mpr (.inl (kept.trans hy)))
    · exact List.mem_cons_of_mem _ (List.mem_cons_of_mem _ later)
theorem foldLanes_mem_and_le {α : Type} [Preorder α] {key : Nat → α} {g : Nat → Nat → Nat} (one : ∀ x y, g x y = x ∨ g x y = y)
    (left : ∀ x y, key x ≤ key (g x y)) (right : ∀ x y, key y ≤ key (g x y)) (ident : Nat) {xs : List Nat} (nonempty : xs ≠ []) :
    foldLanes g ident xs ∈ xs ∧ ∀ y ∈ xs, key y ≤ key (foldLanes g ident xs) := by
  cases xs with
  | nil => exact absurd rfl nonempty
  | cons x rest => exact foldl_mem_and_le one left right rest x

/-- The greater or lesser of two signed lanes is one of them, and on its side of both. -/
theorem pickLane_bits_eq_or (w : Nat) (isMax : Bool) (x y : Nat) :
    (pickLane w isMax x y).bits = x ∨ (pickLane w isMax x y).bits = y := (ite_eq_or_eq ..).symm
theorem le_pickLane_max (w x y : Nat) :
    laneInt w x ≤ laneInt w (pickLane w true x y).bits ∧ laneInt w y ≤ laneInt w (pickLane w true x y).bits := by
  simp only [pickLane, FRes.exact, decide_eq_true_eq]
  split_ifs with less
  · exact ⟨less.le, le_rfl⟩
  · exact ⟨le_rfl, not_lt.mp less⟩
theorem pickLane_min_le (w x y : Nat) :
    laneInt w (pickLane w false x y).bits ≤ laneInt w x ∧ laneInt w (pickLane w false x y).bits ≤ laneInt w y := by
  simp only [pickLane, FRes.exact, decide_eq_false_iff_not]
  split_ifs with less
  · exact ⟨le_rfl, less.le⟩
  · exact ⟨not_lt.mp less, le_rfl⟩
theorem foldLanes_pickLane_max (w ident : Nat) {xs : List Nat} (nonempty : xs ≠ []) :
    let x := foldLanes (fun x y => (pickLane w true x y).bits) ident xs
    x ∈ xs ∧ ∀ y ∈ xs, laneInt w y ≤ laneInt w x :=
  foldLanes_mem_and_le (pickLane_bits_eq_or w true) (fun x y => (le_pickLane_max w x y).1) (fun x y => (le_pickLane_max w x y).2)
    ident nonempty
theorem foldLanes_pickLane_min (w ident : Nat) {xs : List Nat} (nonempty : xs ≠ []) :
    let x := foldLanes (fun x y => (pickLane w false x y).bits) ident xs
    x ∈ xs ∧ ∀ y ∈ xs, laneInt w x ≤ laneInt w y :=
  foldLanes_mem_and_le (key := fun x => OrderDual.toDual (laneInt w x)) (pickLane_bits_eq_or w false)
    (fun x y => (pickLane_min_le w x y).1) (fun x y => (pickLane_min_le w x y).2) ident nonempty

theorem laneCount_ftypeWidth_pos (t : FType) : 0 < laneCount (ftypeWidth t) := by cases t <;> decide
theorem laneCount_itypeWidth_pos (t : IType) : 0 < laneCount (itypeWidth t) := by cases t <;> decide
theorem signOf_ftypeFmt (t : FType) : (ftypeFmt t).signOf true = 2 ^ (ftypeWidth t - 1) := by cases t <;> rfl

/-! ## The statements -/

/-- Settles O25: the forms of the lane operations give the lanes, and the bit vectors their integer values. -/
theorem integerLanesWrapAndShift : Obligations.IntegerLanesWrapAndShift := by
  unfold Obligations.IntegerLanesWrapAndShift
  intro s t v d a b m p
  refine ⟨?holds2, ?holds1, fun ready => ⟨?add, ?sub, ?mul, ?min, ?max, ?shl, ?shr, ?sra⟩, fun ready => ⟨?abs, ?neg⟩,
    fun ready => ⟨?and, ?or, ?xor⟩⟩
  case holds2 =>
    simp only [List.forall_mem_cons]
    refine ⟨?_, ?_, ?_, ?_, ?_, ?_, ?_, ?_, ?_, ?_, ?_, List.forall_mem_nil _⟩ <;> exact sourceHolds_of_lanes2 rfl
  case holds1 =>
    simp only [List.forall_mem_cons]
    exact ⟨sourceHolds_of_lanes1 rfl, sourceHolds_of_lanes1 rfl, List.forall_mem_nil _⟩
  case add => exact lanesBecome_of_lanes2 ready rfl rfl fun l => intLane_add ..
  case sub => exact lanesBecome_of_lanes2 ready rfl rfl fun l => intLane_sub _ (sourceLane_lt ..)
  case mul => exact lanesBecome_of_lanes2 ready rfl rfl fun l => intLane_mul ..
  case min => exact lanesBecome_of_lanes2 ready rfl rfl fun l => intLane_min ..
  case max => exact lanesBecome_of_lanes2 ready rfl rfl fun l => intLane_max ..
  case shl => exact lanesBecome_of_lanes2 ready rfl rfl fun l => shiftLeft_lane ..
  case shr => exact lanesBecome_of_lanes2 ready rfl rfl fun l => ushiftRight_lane (lane_lt ..) _
  case sra => exact lanesBecome_of_lanes2 ready rfl rfl fun l => congrArg (· % _) (sshiftRight_lane ..)
  case abs => exact lanesBecome_of_lanes1 ready rfl rfl fun l => intLane_abs (sourceLane_lt ..)
  case neg => exact lanesBecome_of_lanes1 ready rfl rfl fun l => intLane_neg (sourceLane_lt ..)
  case and | or | xor => exact lanesBecome_of_lanes2 ready rfl rfl fun l => Nat.ModEq.rfl

/-- Settles O26: a compare and a mask instruction end with a mask that is read bit by bit. -/
theorem comparesAndMaskInstructionsWriteMasks : Obligations.ComparesAndMaskInstructionsWriteMasks := by
  unfold Obligations.ComparesAndMaskInstructionsWriteMasks
  refine ⟨fun s t v d a b m p => ?holds, fun s t v d a b m p ready => ?compares,
    fun s d a b x => ⟨?mand, ?mor, ?mxor, ?mnot, ?mfrom, ?mpopc, ?mto⟩⟩
  case holds =>
    simp only [List.forall_mem_cons]
    refine ⟨?_, ?_, ?_, ?_, ?_, ?_, List.forall_mem_nil _⟩ <;> exact sourceHolds_of_lanesCmp rfl
  case compares =>
    intro sets
    have compares : sets = setsCompareMask s p b d m := rfl
    rw [compares]
    refine ⟨⟨?_, ?_, ?_⟩, ?_, ?_, ?_⟩ <;> exact setsCompareMask_of_lanesCmp ready rfl rfl fun _ => rfl
  case mand | mor | mxor | mnot | mfrom => exact setsMask_of_maskOp rfl rfl
  case mpopc => exact gives_of_result_eq rfl rfl (congrArg (BitVec.ofNat 64) (onesBelow_eq_length _ 64))
  case mto => exact gives_of_result rfl rfl

/-- Settles O27: the model's fold is that of the statement; over integer lanes it leaves the low bits of the sum, or an
extremal lane. -/
theorem reductionsFoldTheEnabledLanesInOrder : Obligations.ReductionsFoldTheEnabledLanesInOrder := by
  unfold Obligations.ReductionsFoldTheEnabledLanesInOrder
  refine ⟨fun s t v d b m p => ?holds, fun s t v d b m p ready => ⟨⟨?sumF, ?maxF, ?minF⟩, ?sumI, fun empty => ⟨?noMax, ?noMin⟩,
    fun nonempty => ⟨?maxI, ?minI⟩⟩⟩
  case holds =>
    simp only [List.forall_mem_cons]
    refine ⟨?_, ?_, ?_, ?_, ?_, ?_, List.forall_mem_nil _⟩ <;> exact sourceHolds_of_lanesRed rfl
  case sumF | minF => exact lanesTake_of_lanesRed ready rfl rfl (laneCount_ftypeWidth_pos t) (reduceLanes_eq_match ..)
  case maxF =>
    refine lanesTake_of_lanesRed ready rfl rfl (laneCount_ftypeWidth_pos t) ?_
    rw [signOf_ftypeFmt]
    exact reduceLanes_eq_match ..
  case sumI => exact lanesBecome_of_lanesRed ready rfl rfl (laneCount_itypeWidth_pos v) (foldLanes_add_mod ..)
  case noMax | noMin =>
    refine lanesBecome_of_lanesRed ready rfl rfl (laneCount_itypeWidth_pos v) ?_
    rw [show enabledLanes s (itypeWidth v) m p b = [] from empty]
    rfl
  case maxI =>
    obtain ⟨mem, greatest⟩ := foldLanes_pickLane_max (itypeWidth v) (2 ^ (itypeWidth v - 1)) nonempty
    exact ⟨_, mem, greatest, lanesBecome_of_lanesRed ready rfl rfl (laneCount_itypeWidth_pos v) Nat.ModEq.rfl⟩
  case minI =>
    obtain ⟨mem, least⟩ := foldLanes_pickLane_min (itypeWidth v) (2 ^ (itypeWidth v - 1) - 1) nonempty
    exact ⟨_, mem, least, lanesBecome_of_lanesRed ready rfl rfl (laneCount_itypeWidth_pos v) Nat.ModEq.rfl⟩

end Sys2Proof.Machine
end
